-- ==== Sys2Proof/Word.lean ====
section
/-! DEFINITION. The word types of Chithar v1 and their plainest arithmetic (spec 00 R5, R7). -/

namespace Sys2Proof

/-- One byte, the smallest addressable unit (R5). -/
abbrev Byte := BitVec 8

/-- A 16-bit value: barrier and sync-word generations (R212, R216). -/
abbrev W16 := BitVec 16

/-- A 32-bit word: instruction words, vector and uniform registers (R37, R111). -/
abbrev W32 := BitVec 32

/-- A 64-bit word: addresses, register pairs, object words (R127, R193). -/
abbrev W64 := BitVec 64

/-- A set of the at most 64 lanes of a group, bit k for lane k (R84, R88). -/
abbrev Mask := BitVec 64

/-- A 6-bit register field (R47). -/
abbrev RegNum := BitVec 6

end Sys2Proof
end

