-- ==== Sys2Proof/Syntax.lean ====
section
/-! DEFINITION. The abstract syntax of the Glaelle 9600: one constructor of `Instr` per row of
spec/opcode_table.json, the 199 instruction words of Chithar v1 (03 R52) and the 97 events of the device
(95_what_each_step_holds). Only well-formed words have a term that `Instr.wf` accepts; a word that R53 gives
another fate has none. -/

namespace Sys2Proof

/-! ## Operand forms of instruction words -/

/-- The predicate prefix of a word (R46): register p0 to p6, or 7 for always, and the invert bit. -/
structure Pred where
  reg : BitVec 3
  inv : Bool
  deriving DecidableEq, Repr

/-- Operand b of the register format (R47). `s 62` reads as zero; `lit` takes the literal word that follows. -/
inductive OpB where
  | v (r : RegNum)
  | s (r : RegNum)
  | lit (w : W32)
  deriving DecidableEq, Repr

/-- Operand b where only the uniform forms are allowed (RDLN, REGROUP, TRAP, class 24). -/
inductive OpS where
  | s (r : RegNum)
  | lit (w : W32)
  deriving DecidableEq, Repr

/-- The memory spaces that an LD, ST or CPY names (R51, R145). -/
inductive Space where
  | gl | pv | sc | rs | w | a
  deriving DecidableEq, Repr

/-- The byte offset of a memory operand (R51): `scaled k` is k times the access size, `lit` a literal word. -/
inductive Offset where
  | scaled (k : BitVec 3)
  | lit (w : W32)
  deriving DecidableEq, Repr

/-- The memory operand of LD and ST (R51). -/
structure MemOp where
  base  : RegNum
  space : Space
  off   : Offset
  deriving DecidableEq, Repr

/-- The condition of CMP and FCMP (R134, R138). -/
inductive Cond where
  | eq | ne | lt | le | gt | ge
  deriving DecidableEq, Repr

/-- The rounding modes (R64); `rs` exists only in CVT, PACK and EPI (R67). -/
inductive RMode where
  | rn | rz | rd | ru | rs
  deriving DecidableEq, Repr

/-- The order of an ATOM (R182). -/
inductive AOrd where
  | rlx | acq | rel | ar
  deriving DecidableEq, Repr

/-- The five scopes (R175). -/
inductive Scope where
  | core | cluster | die | device | system
  deriving DecidableEq, Repr

/-- The kind of a FENCE (R169). -/
inductive FenceKind where
  | acq | rel | ar
  deriving DecidableEq, Repr

/-- The operands of an ATOM other than ld.remote (R182): `sc` chooses the space, `b64` the size. -/
structure AtomArgs where
  sc    : Bool
  d     : RegNum
  a     : RegNum
  ord   : AOrd
  scope : Scope
  b64   : Bool
  deriving DecidableEq, Repr

/-- The operands of a CPY (R273). -/
structure CpyArgs where
  sw  : Bool
  d   : RegNum
  a   : RegNum
  dsp : Space
  ssp : Space
  deriving DecidableEq, Repr

/-! ## The parties and places that events name -/

/-- A core: a Vent core by physical Vent, cluster and core number (R13, R81), or service core k (R314). -/
inductive CoreId where
  | vent (v c k : Nat)
  | service (k : Nat)
  deriving DecidableEq, Repr

/-- A die with a time register or a link: Caldera, a Vent or a Spring (R13). -/
inductive DieId where
  | caldera
  | vent (v : Nat)
  | spring (n : Nat)
  deriving DecidableEq, Repr

/-- A channel of a die-to-die link (02, before R22). -/
inductive Channel where
  | request | response | snoop | timing
  deriving DecidableEq, Repr

/-- What the bring-up steps of R16 meet: inputs from the parts and from the outside. -/
structure BootOutcome where
  romOk           : Bool
  fwOk            : Bool
  springsTrained  : BitVec 16
  ventsTrained    : BitVec 8
  springsAttested : BitVec 16
  ventsAttested   : BitVec 8
  deriving DecidableEq, Repr

/-- A message of the time synchronisation (R29), with times in units of 1/16 ns. -/
inductive TimeMsg where
  | sync
  | followUp (sent : Nat)
  | pdelayReq
  | pdelayResp (received : Nat)
  | pdelayRespFollowUp (sent : Nat)
  deriving DecidableEq, Repr

/-- What a flit carries, as far as the model follows it (R22, R29, R157). -/
inductive FlitBody where
  | time (m : TimeMsg)
  | invAck (line : Nat)
  | dirUpdate (line : Nat)
  deriving DecidableEq, Repr

/-- One flit (R22, R24): its sequence number, the sender's time reading, and its contents. -/
structure Flit where
  seq   : Nat
  stamp : Nat
  body  : FlitBody
  deriving DecidableEq, Repr

/-- How a flit arrives (R22, R351): intact, failing its CRC, or undeliverable with its header intact or lost. -/
inductive FlitFate where
  | ok
  | crcError
  | exhausted
  | undeliverable (headerIntact : Bool) (trailerOk : Bool)
  deriving DecidableEq, Repr

/-- What the patrol scrub, or an access, finds (R158, R231, R351, R353). -/
inductive ScrubSite where
  | line (line : Nat)
  | tile (team : Nat) (tile : Nat)
  | contHead (core : CoreId) (slot : Nat)
  | binTable (core : CoreId) (bin : Nat)
  | reg (group : Nat) (lane : Nat) (reg : Nat)
  | scratch (team : Nat) (off : Nat)
  | wbuf (team : Nat) (off : Nat)
  | abuf (team : Nat) (off : Nat)
  | image (preempt : Nat)
  | parked (parking : Nat)
  deriving DecidableEq, Repr

/-- A unit that the power policy gates (R159): a unified-store bank of a core, or an L2 way of a slice. -/
inductive PowerUnit where
  | bank (core : CoreId) (bank : Nat)
  | way (vent slice way : Nat)
  deriving DecidableEq, Repr

/-- Who requests a pre-emption, on which cores, of which context of which partition (R310). -/
structure PreemptReq where
  part  : Nat
  ctx   : Nat
  cores : List CoreId
  deriving DecidableEq, Repr

/-- A host access over CXL.mem or CXL.io (R14, R326). -/
inductive HostAccess where
  | read (tag : Nat) (addr : Nat) (n : Nat) (cached : Bool)
  | write (addr : Nat) (data : List Byte)
  | ioRead (tag : Nat) (off : Nat) (n : Nat)
  deriving DecidableEq, Repr

/-- A command of a queue ring (R295), decoded. -/
inductive Cmd where
  | launch (lrec done : W64)
  | launchAt (repl : Bool) (lrec done start peers : W64) (gen : W32)
  | graph (gdesc done : W64)
  | signal (addr value : W64) (add : Bool)
  | after (addr value : W64) (kind : Nat) (timeout : W32)
  deriving DecidableEq, Repr

/-- A replicated LAUNCH-AT copy (R302): source device, generation, and the command's fields. -/
structure ReplCopy where
  src   : Nat
  gen   : Nat
  lrec  : W64
  done  : W64
  start : Nat
  deriving DecidableEq, Repr

/-- Which queues a command of SQCMD is for (R288): queue `q`, or every queue of its virtual device. -/
structure QueueSel where
  q  : Nat
  vd : Bool
  deriving DecidableEq, Repr

/-- A host cache's snoop of a host-memory line that the device holds (R325): an invalidation or a read share. -/
inductive SnoopKind where
  | invalidate
  | share
  deriving DecidableEq, Repr

/-! ## Instructions and events -/

/-- The rows of spec/opcode_table.json. Words carry their predicate prefix first; events carry what the
environment or the choice of the moment decides. -/
inductive Instr where
  -- class 0, INT-A (R129)
  | iadd (p : Pred) (d a : RegNum) (b : OpB)
  | isub (p : Pred) (d a : RegNum) (b : OpB)
  | iaddSatI32 (p : Pred) (d a : RegNum) (b : OpB)
  | isubSatI32 (p : Pred) (d a : RegNum) (b : OpB)
  | imul (p : Pred) (d a : RegNum) (b : OpB)
  | imulhI32 (p : Pred) (d a : RegNum) (b : OpB)
  | imulhN32 (p : Pred) (d a : RegNum) (b : OpB)
  | imad (p : Pred) (d a : RegNum) (b : OpB)
  | iminI32 (p : Pred) (d a : RegNum) (b : OpB)
  | iminN32 (p : Pred) (d a : RegNum) (b : OpB)
  | imaxI32 (p : Pred) (d a : RegNum) (b : OpB)
  | imaxN32 (p : Pred) (d a : RegNum) (b : OpB)
  | iabs (p : Pred) (d a : RegNum)
  | ineg (p : Pred) (d a : RegNum)
  | iaddSatN32 (p : Pred) (d a : RegNum) (b : OpB)
  | isubSatN32 (p : Pred) (d a : RegNum) (b : OpB)
  -- class 1, INT-B (R130 to R132)
  | shlB32 (p : Pred) (d a : RegNum) (b : OpB)
  | shrN32 (p : Pred) (d a : RegNum) (b : OpB)
  | shrI32 (p : Pred) (d a : RegNum) (b : OpB)
  | rolB32 (p : Pred) (d a : RegNum) (b : OpB)
  | popc (p : Pred) (d a : RegNum)
  | clz (p : Pred) (d a : RegNum)
  | brev (p : Pred) (d a : RegNum)
  | bfeN32 (p : Pred) (d a : RegNum) (b : OpB)
  | bfeI32 (p : Pred) (d a : RegNum) (b : OpB)
  | bfi (p : Pred) (d a : RegNum) (b : OpB)
  | iaddI64 (p : Pred) (d a : RegNum) (b : OpB)
  | isubI64 (p : Pred) (d a : RegNum) (b : OpB)
  | imulI64 (p : Pred) (d a : RegNum) (b : OpB)
  | shlB64 (p : Pred) (d a : RegNum) (b : OpB)
  | shrN64 (p : Pred) (d a : RegNum) (b : OpB)
  | shrI64 (p : Pred) (d a : RegNum) (b : OpB)
  -- class 2, LOGIC/CMP/SEL (R133, R134)
  | iand (p : Pred) (d a : RegNum) (b : OpB)
  | ior (p : Pred) (d a : RegNum) (b : OpB)
  | ixor (p : Pred) (d a : RegNum) (b : OpB)
  | iandn (p : Pred) (d a : RegNum) (b : OpB)
  | cmpI32 (p : Pred) (cc : Cond) (pd : BitVec 3) (a : RegNum) (b : OpB)
  | cmpN32 (p : Pred) (cc : Cond) (pd : BitVec 3) (a : RegNum) (b : OpB)
  | cmpI64 (p : Pred) (cc : Cond) (pd : BitVec 3) (a : RegNum) (b : OpB)
  | cmpN64 (p : Pred) (cc : Cond) (pd : BitVec 3) (a : RegNum) (b : OpB)
  | sel (p : Pred) (k : BitVec 3) (d a : RegNum) (b : OpB)
  | mov (p : Pred) (d : RegNum) (b : OpB)
  -- class 3 (R48, R135)
  | ldi (p : Pred) (u : Bool) (d : RegNum) (imm : BitVec 16)
  -- class 4, FP-A (R136)
  | fadd (p : Pred) (m : RMode) (d a : RegNum) (b : OpB)
  | fsub (p : Pred) (m : RMode) (d a : RegNum) (b : OpB)
  | fmul (p : Pred) (m : RMode) (d a : RegNum) (b : OpB)
  | ffma (p : Pred) (m : RMode) (d a : RegNum) (b : OpB)
  -- class 5, FP-B (R137 to R140)
  | fmin (p : Pred) (d a : RegNum) (b : OpB)
  | fmax (p : Pred) (d a : RegNum) (b : OpB)
  | fabs (p : Pred) (d a : RegNum)
  | fneg (p : Pred) (d a : RegNum)
  | fcmp (p : Pred) (cc : Cond) (pd : BitVec 3) (a : RegNum) (b : OpB)
  | fclass (p : Pred) (d a : RegNum)
  | frcp (p : Pred) (d a : RegNum)
  | fsqrt (p : Pred) (d a : RegNum)
  | frsq (p : Pred) (d a : RegNum)
  | fexp2 (p : Pred) (d a : RegNum)
  | flog2 (p : Pred) (d a : RegNum)
  | frint (p : Pred) (m : RMode) (d a : RegNum)
  -- class 6, PACKED (R141, R142)
  | paddBf16 (p : Pred) (d a : RegNum) (b : OpB)
  | psubBf16 (p : Pred) (d a : RegNum) (b : OpB)
  | pmulBf16 (p : Pred) (d a : RegNum) (b : OpB)
  | pfmaBf16 (p : Pred) (d a : RegNum) (b : OpB)
  | pminBf16 (p : Pred) (d a : RegNum) (b : OpB)
  | pmaxBf16 (p : Pred) (d a : RegNum) (b : OpB)
  | pdotBf16 (p : Pred) (d a : RegNum) (b : OpB)
  | pdotE4m3 (p : Pred) (d a : RegNum) (b : OpB)
  | pdotE5m2 (p : Pred) (d a : RegNum) (b : OpB)
  | pminE4m3 (p : Pred) (d a : RegNum) (b : OpB)
  | pmaxE4m3 (p : Pred) (d a : RegNum) (b : OpB)
  | pminE5m2 (p : Pred) (d a : RegNum) (b : OpB)
  | pmaxE5m2 (p : Pred) (d a : RegNum) (b : OpB)
  -- class 7, CVT (R143, R144)
  | cvtBf16F32 (p : Pred) (m : RMode) (d a : RegNum)
  | cvtE4m3F32 (p : Pred) (m : RMode) (d a : RegNum)
  | cvtE5m2F32 (p : Pred) (m : RMode) (d a : RegNum)
  | cvtF32Bf16 (p : Pred) (d a : RegNum)
  | cvtF32E4m3 (p : Pred) (d a : RegNum)
  | cvtF32E5m2 (p : Pred) (d a : RegNum)
  | cvtI32F32 (p : Pred) (m : RMode) (d a : RegNum)
  | cvtN32F32 (p : Pred) (m : RMode) (d a : RegNum)
  | cvtF32I32 (p : Pred) (m : RMode) (d a : RegNum)
  | cvtF32N32 (p : Pred) (m : RMode) (d a : RegNum)
  | cvtF32I64 (p : Pred) (m : RMode) (d a : RegNum)
  | packBf16 (p : Pred) (m : RMode) (d a : RegNum)
  | packE4m3 (p : Pred) (m : RMode) (d a : RegNum)
  | packE5m2 (p : Pred) (m : RMode) (d a : RegNum)
  -- class 8, PRED/VOTE (R107, R108)
  | pand (p : Pred) (pd pa pb : BitVec 3)
  | por (p : Pred) (pd pa pb : BitVec 3)
  | pxor (p : Pred) (pd pa pb : BitVec 3)
  | pandn (p : Pred) (pd pa pb : BitVec 3)
  | psave (p : Pred) (d : RegNum)
  | prest (p : Pred) (a : RegNum)
  | voteAny (p : Pred) (pd pa : BitVec 3)
  | voteAll (p : Pred) (pd pa : BitVec 3)
  | voteBallot (p : Pred) (sd : RegNum) (pa : BitVec 3)
  | voteEq (p : Pred) (pd : BitVec 3) (a : RegNum)
  -- class 9, XLANE (R109, R110)
  | shflIdx (p : Pred) (d a : RegNum) (b : OpB)
  | shflUp (p : Pred) (d a : RegNum) (b : OpB)
  | shflDown (p : Pred) (d a : RegNum) (b : OpB)
  | shflXor (p : Pred) (d a : RegNum) (b : OpB)
  | rdfl (p : Pred) (sd a : RegNum)
  | rdln (p : Pred) (sd a : RegNum) (b : OpS)
  -- class 10, BRANCH (R49, R97)
  | bra (p : Pred) (off : BitVec 22)
  | call (p : Pred) (off : BitVec 22)
  -- class 11, FLOW
  | nop (p : Pred)
  | tail (p : Pred)
  | yield (p : Pred)
  | spawn (p : Pred) (sd ps : RegNum)
  | regroup (p : Pred) (l vkey : RegNum) (b : OpS)
  | regroupFlush (p : Pred)
  | ret (p : Pred)
  | jmp (p : Pred) (sa : RegNum)
  | callUniform (p : Pred) (sa : RegNum)
  -- classes 12 and 13, LD and ST (R166)
  | ldB8 (p : Pred) (d : RegNum) (m : MemOp)
  | ldB16 (p : Pred) (d : RegNum) (m : MemOp)
  | ldB32 (p : Pred) (d : RegNum) (m : MemOp)
  | ldB64 (p : Pred) (d : RegNum) (m : MemOp)
  | ldB128 (p : Pred) (d : RegNum) (m : MemOp)
  | ldI8 (p : Pred) (d : RegNum) (m : MemOp)
  | ldI16 (p : Pred) (d : RegNum) (m : MemOp)
  | stB8 (p : Pred) (d : RegNum) (m : MemOp)
  | stB16 (p : Pred) (d : RegNum) (m : MemOp)
  | stB32 (p : Pred) (d : RegNum) (m : MemOp)
  | stB64 (p : Pred) (d : RegNum) (m : MemOp)
  | stB128 (p : Pred) (d : RegNum) (m : MemOp)
  -- class 14, ATOM (R182, R183)
  | atomLd (p : Pred) (x : AtomArgs)
  | atomSt (p : Pred) (x : AtomArgs)
  | atomAdd (p : Pred) (x : AtomArgs)
  | atomAnd (p : Pred) (x : AtomArgs)
  | atomOr (p : Pred) (x : AtomArgs)
  | atomXor (p : Pred) (x : AtomArgs)
  | atomMinI (p : Pred) (x : AtomArgs)
  | atomMinN (p : Pred) (x : AtomArgs)
  | atomMaxI (p : Pred) (x : AtomArgs)
  | atomMaxN (p : Pred) (x : AtomArgs)
  | atomSwap (p : Pred) (x : AtomArgs)
  | atomCas (p : Pred) (x : AtomArgs)
  | atomLdRemote (p : Pred) (d a : RegNum) (b64 : Bool)
  -- class 15, FENCE/CACHE (R169)
  | fence (p : Pred) (k : FenceKind) (scope : Scope)
  | xfence (p : Pred) (from_ to_ : BitVec 5)
  | cflush (p : Pred) (a : RegNum)
  | cinv (p : Pred) (a : RegNum)
  | cpref (p : Pred) (a : RegNum)
  | czero (p : Pred) (a : RegNum)
  | iinv (p : Pred)
  -- class 16, HOB (R198)
  | hinit (p : Pred) (d a b : RegNum)
  | help (p : Pred) (a : RegNum)
  | lda (p : Pred) (d a : RegNum) (b : OpB)
  | apply (p : Pred) (d a b : RegNum)
  | ares (p : Pred) (d a b : RegNum)
  | arel (p : Pred) (a b : RegNum)
  | annAdd (p : Pred) (d a b : RegNum)
  | annAnd (p : Pred) (d a b : RegNum)
  | annOr (p : Pred) (d a b : RegNum)
  | annXor (p : Pred) (d a b : RegNum)
  | annMin (p : Pred) (d a b : RegNum)
  | annMax (p : Pred) (d a b : RegNum)
  | annSwap (p : Pred) (d a b : RegNum)
  | annCas (p : Pred) (d a b : RegNum)
  | annCas2 (p : Pred) (d a b : RegNum)
  | annSw (p : Pred) (d a b : RegNum)
  -- class 17, SYNC (R213 to R219)
  | barrTeam (p : Pred) (d : RegNum)
  | barrCluster (p : Pred) (d : RegNum)
  | barrDie (p : Pred) (d : RegNum)
  | barrGrid (p : Pred) (d : RegNum)
  | btstTeam (p : Pred) (pd : BitVec 3) (b : OpB)
  | btstCluster (p : Pred) (pd : BitVec 3) (b : OpB)
  | btstDie (p : Pred) (pd : BitVec 3) (b : OpB)
  | btstGrid (p : Pred) (pd : BitVec 3) (b : OpB)
  | swset (p : Pred) (a : RegNum) (b : OpB)
  | swtst (p : Pred) (pd : BitVec 3) (a : RegNum) (b : OpB)
  | wait (p : Pred) (ld st cp tl : BitVec 3)
  -- class 18, COPY (R273, R276)
  | cpyB32 (p : Pred) (x : CpyArgs)
  | cpyB64 (p : Pred) (x : CpyArgs)
  | cpyB128 (p : Pred) (x : CpyArgs)
  | bcpy (p : Pred) (ps : RegNum)
  | get (p : Pred) (ps : RegNum)
  -- classes 19 to 22
  | mma (p : Pred) (reuse : Bool) (ps : RegNum)
  | tld (p : Pred) (ps : RegNum)
  | tst (p : Pred) (ps : RegNum)
  | tzero (p : Pred) (t : BitVec 4)
  | epi (p : Pred) (ps : RegNum)
  | bfly (p : Pred) (ps : RegNum)
  | gather (p : Pred) (ps : RegNum)
  | dist (p : Pred) (ps : RegNum)
  | topk (p : Pred) (ps : RegNum)
  -- class 23, SYS (R345, R347, R34)
  | rdsr (p : Pred) (d : RegNum) (n : BitVec 4)
  | wrsr (p : Pred) (n : BitVec 4) (b : OpB)
  | trap (p : Pred) (d a : RegNum) (b : OpS)
  | timeNow (p : Pred) (sd : RegNum)
  | timeErr (p : Pred) (sd : RegNum)
  | timeAfter (p : Pred) (pd : BitVec 3) (sa : RegNum)
  -- class 24, PRIV (R332)
  | resume (p : Pred) (sd sa : RegNum) (b : OpS)
  | kill (p : Pred) (sd sa : RegNum) (b : OpS)
  | srdsr (p : Pred) (sd n : RegNum) (b : OpS)
  | swrsr (p : Pred) (n sa : RegNum) (b : OpS)
  | sret (p : Pred) (sa : RegNum)
  | tlbinv (p : Pred) (m : BitVec 2) (sa sb : RegNum)
  | keynew (p : Pred) (sd sa : RegNum)
  -- events that SWRSR itself asks for (14, 15): these stand first among the events because compiled code can build
  -- only the first 245 constructors of a type
  | queueOpen (q part : Nat) (desc : W64)
  | queueStop (q : QueueSel)
  | queueRestart (q : QueueSel)
  | queueClose (q : QueueSel)
  | queueReset (q : QueueSel) (part : Nat) (desc : W64)
  | partitionCommit (p : Nat) (desc : W64)
  -- events: bring-up, links and time (02)
  | coldReset (o : BootOutcome)
  | firmwareImageReplacement (o : BootOutcome)
  | flitDelivery (l : DieId) (toDie : Bool) (ch : Channel) (fate : FlitFate)
  | handshakeToken (l : DieId) (toDie : Bool) (ch : Channel) (ack credits stamp : Nat)
  | linkIdleTimeout (l : DieId)
  | linkUp (l : DieId)
  | wakeTimeout (l : DieId)
  | trainingAttemptEnd (l : DieId) (ok : Bool)
  | timeTick (d : DieId)
  | syncInterval
  | sync (d : DieId) (ext : Bool)
  | followUp (d : DieId) (ext : Option Nat)
  | pdelayReq (d : DieId) (ext : Option Nat)
  | pdelayResp (d : DieId) (ext : Option Nat)
  | pdelayRespFollowUp (d : DieId) (ext : Option Nat)
  | holdover (d : DieId)
  | boundSaturation (d : DieId)
  | masterTimeWrite (t : W64)
  -- events: issue and halting (05)
  | issueTurn (core : CoreId) (slot : Nat) (refetch : Bool)
  | starvationPromotion (g : Nat)
  | haltWordLimit (g : Nat)
  | groupHaltComplete (g : Nat)
  | yieldExpiry (g : Nat)
  -- events: memory operations (07 to 09)
  | loadCompletion (op : Nat) (accs : List Nat) (refill : Bool)
  | storeCompletion (op : Nat) (accs : List Nat)
  | atomicPerform (op : Nat) (accs : List Nat)
  | promotionRequest (core : CoreId) (line : Nat)
  | promotionAnswer (line : Nat)
  | hobPerform (op : Nat) (accs : List Nat)
  | l1LogicalTick (core : CoreId)
  | directoryInvalidation (line : Nat) (vent : Nat)
  | invalidationAck (line : Nat) (vent : Nat)
  | pageWalkComplete (core : CoreId) (part ctx : Nat) (va : W64)
  | patrolScrub (site : ScrubSite) (uncorrectable : Bool)
  | bankGate (u : PowerUnit)
  | bankWake (u : PowerUnit)
  | bankWakeComplete (u : PowerUnit) (ok : Bool)
  | tlbinvComplete (op : Nat)
  -- events: formation, teams and grids (05, 06, 10, 14)
  | groupFormation (core : CoreId)
  | binAgeFlush (core : CoreId)
  | binIdleFlush (core : CoreId)
  | binRoomReserve (core : CoreId)
  | teamPlacement (grid num : Nat) (v c k : Nat)
  | groupRetirement (g : Nat)
  | teamComplete (team : Nat)
  | chargeReport (v c : Nat)
  | gridComplete (grid : Nat)
  | childLaunch (v : Nat)
  -- events: engines (11 to 13)
  | matrixCommandComplete (op : Nat) (residueOk : Bool)
  | copyTransfer (op : Nat) (parts : List Nat) (storage : List Byte)
  | copyComplete (op : Nat)
  | copyFault (op : Nat) (storageError : Bool)
  | getTimeout (op : Nat)
  | gatherCommandComplete (op : Nat)
  -- events: faults and service (16)
  | faultAfterIssue (n : Nat)
  | ringPost (part : Nat)
  | lockstepMismatchServiceCore (k : Nat)
  | lockstepMismatchCommandProcessor
  | lockstepMismatchRootMonitor
  | kernelEntry (k : Nat)
  -- events: queues and scheduling (14)
  | launch (q : Nat) (ord : Bool) (lrec done : W64)
  | launchAt (q : Nat) (ord repl : Bool) (lrec done start peers : W64) (gen : W32)
  | graph (q : Nat) (ord : Bool) (gdesc done : W64)
  | signal (q : Nat) (addr value : W64) (add : Bool)
  | after (q : Nat) (addr value : W64) (kind : Nat) (timeout : W32)
  | dispatch
  | watchedLineRead (entry : Nat)
  | afterPoll (q : Nat)
  | afterTimeout (q : Nat)
  | launchAtStart (grid v : Nat)
  | replicatedCopyReceive (q : Nat) (c : ReplCopy)
  | graphNodeStart (launch node : Nat)
  | heartbeat (v : Nat) (answered : Bool)
  | schedulerHung (v : Nat)
  | commandLinkMessage (v c : Nat) (toLeaf : Bool)
  | preemptRequest (r : PreemptReq)
  | placementWaitTimeout (grid : Nat)
  | preemptHalt (n : Nat)
  | preemptKill (n : Nat)
  | contextSwapOut (n : Nat)
  | contextSwapIn (n : Nat) (place : List (Nat × CoreId))
  -- events: partitions, keys and the host (15)
  | keynewComplete (op : Nat)
  | tbWindow
  | supervisorRegisterWrite (k n : Nat) (idx : W32) (value : W64)
  | hostCxlMemAccess (port : Nat) (x : HostAccess)
  | backInvalidateAck (port line : Nat)
  | hostLinkDown (port : Nat)
  | hostLinkReturn (port : Nat)
  | hostQuarantineExpiry (port : Nat)
  | cxlCacheSnoop (port line : Nat) (k : SnoopKind)
  | portTraining (port : Nat) (up master : Bool)
  deriving DecidableEq, Repr

end Sys2Proof
end

