-- ==== Sys2Proof/Config.lean ====
section
/-! DEFINITION. What an implementation fixes, and the free values of the model: constants with no body that no
proof can see (R28, R152, R302, R304, R312, R319, R323, R324). -/

namespace Sys2Proof.Config

/-- The byte that a location of a partition's memory reads as after its key has been discarded and until it is
written (R324): the old ciphertext under a new key. A FREE VALUE, one for each discard and address (log 7). -/
opaque freeByte : Nat → Nat → BitVec 8

/-- The byte that a location reads as under one key where its data unit was last written under another (R323): given the
numbers of the two keys and the address. A FREE VALUE (log 7). -/
opaque wrongKey : Nat → Nat → Nat → BitVec 8

/-- The 512-bit value of a key drawn from the entropy source (R323): never readable. A FREE VALUE (log 7). -/
opaque freeKey : Nat → BitVec 512

/-- SM3 (R16, R319), an external standard that the spec names and does not define: an uninterpreted function
(log 8). -/
opaque sm3 : List (BitVec 8) → List (BitVec 8)

/-- The SM2 signature check (R16, R319): public key, signed digest, signature. Uninterpreted (log 8). -/
opaque sm2Verify : List (BitVec 8) → List (BitVec 8) → List (BitVec 8) → Bool

/-- What the servo adds to a die's nominal increment, in units of 2^-32 of a time unit, given a fresh number and the
measured offset (R28). Uninterpreted; `servoInc` clamps it to 500 parts per million (log 9). -/
opaque servo : Nat → Int → Int

/-- The error bound that a synchronisation reaches, in time units, given a fresh number and the measured offset (R32).
Uninterpreted (log 9). -/
opaque syncBound : Nat → Int → Nat

/-- The first device physical address of the configuration window as service cores see it. The spec gives no
address (R14); DESIGN CHOICE, outside every backed address (log 10). -/
def configWindowBase : Nat := 2 ^ 50

/-- Bytes of the configuration window (R325: one BAR of 16 MiB). -/
def configWindowSize : Nat := 2 ^ 24

/-- Host port p's physical address x has the memory key `hostKey p x`; device physical address x has the key x. -/
def hostKeyBase : Nat := 2 ^ 52

/-- How many messages a command link direction holds (R308). -/
def sendPermits : Nat := 16

/-- How many child launches a Vent's child ring holds beyond one (R104, R308). The spec gives no number: it is what the
implementation decides, a FREE VALUE (log 12). -/
opaque childRingExtra : Nat

/-- How many child launches a Vent's child ring holds: at least one (DEDUCED: R104 lets a child be queued, log 12). -/
def childRingSize : Nat := childRingExtra + 1

/-- The identity in the DONE word of a graph launch, which is no grid: the spec gives none (R104, R304). A FREE VALUE
(log 7). -/
opaque graphId : Nat → BitVec 32

/-- Byte `i` of a part of a context image or of a parked group in a save area, which the device writes in a layout of its
own (R312); the number is that of the save. A FREE VALUE (log 59). -/
opaque imageByte : Nat → Nat → BitVec 8

/-- Whether, of two accesses that overlap in mixed size, a common byte takes the one's value rather than the other's
(R152), given a fresh number and the byte's address. A FREE VALUE (log 82). -/
opaque mixedPick : Nat → Nat → Bool

/-- Whether a byte of a parameter block, whose store by the group is outstanding, reads with its new value (R369), given the
turn, the group and the byte's offset. A FREE VALUE (log 82). -/
opaque blockPick : Nat → Nat → Nat → Bool

/-- The number that the root monitor cores have given this device in the fabric (R302). The spec says that there is one;
a FREE VALUE (log 7). -/
opaque fabricNumber : Nat

/-- The queue that this device's service core has opened as the entry for this device itself (R302). The spec names no register
for it; a FREE VALUE (log 69). -/
opaque fabricQueue : Nat

/-- Flit credits of one channel of one link direction at training. The spec gives no number; DESIGN CHOICE
(log 11). -/
def flitCredits : Nat := 64

end Sys2Proof.Config
end

