-- ==== Sys2Proof/Machine/State.lean ====
section
/-! DEFINITION. The state of the Glaelle 9600 as plain data: groups and threads, outstanding operations, cores,
teams and grids, memory with its caches and marks, partitions, queues, links, time and ports; and the state after
cold reset (R16). Where the spec gives a register no reset value the choice is in the assumption log (log 1). -/

namespace Sys2Proof.Machine

/-- Sparse bytes by address, in rising order, no entry equal to zero, which is what an unlisted address reads as
(log 2). -/
abbrev Cells := List Host.Cell

/-- Sparse 32-bit words by number, in rising order, no entry equal to zero (R111: registers read 0). -/
abbrev Words := List (Nat × W32)

/-! ## Threads and groups (05, 06) -/

/-- The generation of a thread's last arrival at each barrier level, or none (R212). -/
structure Arrivals where
  team    : Option W16
  cluster : Option W16
  die     : Option W16
  grid    : Option W16
  deriving DecidableEq, Repr

/-- One thread: what belongs to it whatever its group (R68, R81, R96, R111, R114, R212). -/
structure Thread where
  tid   : Nat
  team  : Nat
  v     : Words
  p     : BitVec 7
  depth : Nat
  seed  : W32
  draw  : W32
  splim : W32
  arr   : Arrivals
  /-- The scopes of the FENCE.rel and FENCE.ar that the thread has issued (R177), bit k for scope code k (R169). -/
  fences : BitVec 5
  /-- The number of the first operation after the latest of those fences (R177). -/
  fenceAt : Nat
  /-- An atomic of the thread that is no acquire has read a completion mark since its last acquire fence (R178, R190,
  R228). -/
  markRead : Bool
  /-- Registers in a 64-bit word that holds an uncorrectable error, until they are written (R119, log 21). -/
  bad : List Nat
  deriving DecidableEq, Repr

/-- A frontier entry (R88) with its starvation count (R92). -/
structure Entry where
  prio   : Nat
  addr   : W64
  mask   : Mask
  starve : Nat
  deriving DecidableEq, Repr

/-- The clause that a group is inside: the header, its count field, the next word to issue and the words that were
fetched and checked, which are those that issue (R38, R42 to R44). `isOpen` is false after a stop: the clause is fetched
and checked again, and its wait condition applied afresh, before the kept word issues. A kept word beyond the last one says
that the clause has ended and that the read of the next header still waits (R90, R330). Once R42 has raised a trap at the
clause `words` is empty: the header then counts as the kept word (R42, R333). -/
structure Clause where
  hdr    : W64
  count  : Nat
  kept   : W64
  isOpen : Bool
  words  : List W32
  deriving DecidableEq, Repr

/-- Whether a group issues: running, yielding for some more turns of its slot (R102), halted (R105), or parked
(R339). -/
inductive Run where
  | running
  | yielding (turns : Nat)
  | halted
  | parked
  deriving DecidableEq, Repr

/-- Where a group sits: core, group number, slot, row and first position (R85). -/
structure Seat where
  core : CoreId
  gid  : Nat
  slot : Nat
  row  : Nat
  pos  : Nat
  deriving DecidableEq, Repr

/-- The operand latch of MMA.reuse (R244): 64 rows of n registers. -/
structure Latch where
  rows : List (List W32)
  n    : Nat
  deriving DecidableEq, Repr

/-- The four outstanding-operation counters (R39). -/
structure Counters where
  ld : Nat
  st : Nat
  cp : Nat
  tl : Nat
  deriving DecidableEq, Repr

/-- One group (R84 to R92, R105, R111, R244, R320, R335). `key` is the model's own name of the group. `core` is
the core whose team, LSU queue and engines it uses (R373), `seat` where it issues, none while it is off-core.
`halt` counts the words issued since a halt became pending (R105). `lastTurn` is the turn of its last issue. -/
structure Group where
  key        : Nat
  grid       : Nat
  role       : Nat
  width      : Nat
  cap        : Nat
  core       : CoreId
  seat       : Option Seat
  frontier   : List Entry
  promo      : List W64
  clause     : Option Clause
  run        : Run
  halt       : Option Nat
  lanes      : List (Option Thread)
  s          : Words
  cnt        : Counters
  latch      : Option Latch
  lastTurn   : Nat
  supervisor : Bool
  sret       : Option W32
  parking    : Option Nat
  ended      : Bool
  deriving DecidableEq, Repr

/-! ## Outstanding operations (07 to 13) -/

/-- A counter's name (R39). -/
inductive Ctr where
  | ld | st | cp | tl
  deriving DecidableEq, Repr

/-- The access paths (R146). -/
inductive Path where
  | lsu | copy | matrix | gather | host
  deriving DecidableEq, Repr

/-- A resolved place: a memory key (device or host physical), or a team's scratchpad, W or A byte. -/
inductive Loc where
  | mem (key : Nat)
  | sc (team off : Nat)
  | wb (team off : Nat)
  | ab (team off : Nat)
  deriving DecidableEq, Repr

/-- One single-copy-atomic access of an operation (R151). `n` numbers it within the operation; `roff` is its byte
offset in the position's data; `va` is the address for a fault record, `rel` the scopes at which an atomic write is a
release (R177), `after` the number below which the operations of its thread are ordered before it by a release, `data` are
the bytes to store; `ops` the operand words of an atomic or a helped-object instruction, `owner` its thread as OWNER of R194
names it. -/
structure Acc where
  n    : Nat
  lane : Nat
  va   : W64
  rel  : BitVec 5
  after : Nat
  loc  : Loc
  len  : Nat
  roff : Nat
  data : List Byte
  src  : Option Loc
  sync : Option Loc
  ops  : List W32
  owner : Nat
  deriving DecidableEq, Repr

/-- The operations of ATOM (R183). -/
inductive AtomOp where
  | ld | st | add | and | or | xor | minI | minN | maxI | maxN | swap | cas | ldRemote
  deriving DecidableEq, Repr

/-- The instructions of class 16 (R198); `ann` carries the OP code of R194, `annSw` takes it from v[d]. -/
inductive HobOp where
  | hinit | help | lda | apply | ares | arel | ann (op : Nat) | annSw
  deriving DecidableEq, Repr

/-- A barrier level (R212). -/
inductive Level where
  | team | cluster | die | grid
  deriving DecidableEq, Repr

/-- The block of BCPY and GET (R276). -/
structure Bulk where
  isGet  : Bool
  src    : W64
  dst    : W64
  spitch : Nat
  dpitch : Nat
  width  : Nat
  height : Nat
  ssp    : Nat
  dsp    : Nat
  sync   : Bool
  ring   : Bool
  synca  : W32
  win    : Nat
  ringa  : W64
  rslots : Nat
  tag    : W32
  /-- Bit i is set once byte i, counted row by row, has been performed. -/
  done   : Nat
  /-- A fault that ends the copy (R279): cause and address. -/
  fault  : Option (Nat × W64)
  /-- The index that its completion record has taken of the ring (R280). -/
  idx    : Option Nat
  deriving DecidableEq, Repr

/-- The block of TLD and TST (R249), with the digits of the radix sequence. -/
structure TileMove where
  store  : Bool
  addr   : W64
  stride : Nat
  tile   : Nat
  rows   : Nat
  bf16   : Bool
  dr     : Bool
  batch  : Nat
  radix  : List Nat
  deriving DecidableEq, Repr

/-- The block of EPI (R253); scales and biases are `none` where the block marks them absent. -/
structure Epi where
  daddr    : W64
  dstride  : Nat
  tile     : Nat
  rows     : Nat
  out      : Nat
  mode     : RMode
  act      : Nat
  lo       : W32
  hi       : W32
  seed     : W32
  ctr      : W32
  rowscale : Option (List W32)
  colscale : Option (List W32)
  bias     : Option (List W32)
  deriving DecidableEq, Repr

/-- The block of BFLY (R265). -/
structure Bfly where
  dt      : Nat
  srct    : Nat
  stage   : Nat
  shift   : Nat
  inverse : Bool
  bf16    : Bool
  dro     : Bool
  batch   : Nat
  radix   : List Nat
  deriving DecidableEq, Repr

/-- A matrix command with everything it took at issue (R236). -/
inductive MatrixCmd where
  | mma (dt ct : Nat) (zero : Bool) (at_ bt : Nat) (boff : Nat) (rows : List (List W32))
  | move (m : TileMove)
  | tzero (t : Nat)
  | epi (e : Epi)
  | bfly (b : Bfly)
  deriving DecidableEq, Repr

/-- A gather-engine command with its block (R281, R283, R285). -/
inductive GatherCmd where
  | gather (tbase : W64) (tstride nrows : Nat) (ilist : W32) (count fmt dim aoff : Nat)
  | dist (qoff roff : Nat) (out ilist : W32) (nrows : Nat) (idbase : W32) (count fmt metric dim : Nat)
  | topk (list inp : W32) (cap count : Nat)
  deriving DecidableEq, Repr

/-- What an outstanding operation does when it is performed. -/
inductive OpKind where
  | load (z : Nat) (signed : Bool) (d : Nat)
  | store
  | atom (op : AtomOp) (z d : Nat) (ord : AOrd) (scope : Scope)
  | hob (op : HobOp) (d : Nat)
  | flush
  | barr (level : Level) (d : Nat)
  | btst (level : Level) (pd : Nat)
  | swset
  | swtst (pd : Nat)
  | tlbinv (part mode ctx : Nat) (va : W64)
  | keynew (p sd oldKey : Nat)
  | cpy (z : Nat)
  | bulk (b : Bulk)
  | matrix (m : MatrixCmd)
  | gather (g : GatherCmd)
  deriving DecidableEq, Repr

/-- One outstanding operation (R39). `accs` are the accesses not yet performed. `team` is the team the command
acts for (R229), `waddr` the code offset of its word, `stamp` the issuing die's time at issue (R279). -/
structure Op where
  id     : Nat
  group  : Nat
  core   : CoreId
  team   : Nat
  path   : Path
  ctr    : Ctr
  kind   : OpKind
  accs   : List Acc
  active : Mask
  waddr  : W32
  stamp  : Nat
  deriving DecidableEq, Repr

/-- A retirement-tracker entry (R100): the counts of an ended group. -/
structure Tracker where
  core  : CoreId
  group : Nat
  team  : Nat
  count : Nat
  deriving DecidableEq, Repr

/-! ## Cores, records and bins (07, 10) -/

/-- A continuation record in a bin (R221): the thread, how many registers it carries, whether a state slot
follows, its slot count and the core cycle at which it entered; `launch` says that it is a launch record (R83). -/
structure Rec where
  thread : Thread
  stp    : Bool
  nreg   : Nat
  slots  : Nat
  age    : Nat
  launch : Bool
  deriving DecidableEq, Repr

/-- A bin (R222): its key tuple, its records in order, its flushed mark, since when it waits for room, and whether room
that frees is held for it (R224). -/
structure Bin where
  grid    : Nat
  sup     : Bool
  resume  : W32
  prio    : Nat
  key     : W16
  role    : Nat
  team    : Option Nat
  recs    : List Rec
  flushed : Bool
  waiting : Option Nat
  room    : Bool
  deriving DecidableEq, Repr

/-- An L1 sector under a lease (R154, R155): 128 bytes from address 128 * sector, the lease's expiry, and the key under
which it was filled (R323). -/
structure L1Sector where
  sector : Nat
  data   : Cells
  expiry : Nat
  key    : Nat
  deriving DecidableEq, Repr

/-- A translation-cache entry (R163): context, page base and size in bits, and the leaf. -/
structure Tlb where
  part : Nat
  ctx  : Nat
  base : Nat
  bits : Nat
  leaf : W64
  deriving DecidableEq, Repr

/-- What a core keeps beside its groups. `ticks` counts the logical ticks of its L1 (R155); `gated`, `waking` and `failed`
are its unified-store banks (R159, R160). -/
structure CoreState where
  id      : CoreId
  bins    : List Bin
  l1      : List L1Sector
  l1time  : Nat
  ticks   : Nat
  tlb     : List Tlb
  icache  : List (Nat × W32)
  gated   : BitVec 64
  waking  : BitVec 64
  failed  : BitVec 64
  deriving DecidableEq, Repr

/-! ## Teams and grids (05, 06, 09, 14) -/

/-- A barrier instance (R212): generation, arrivals, members. -/
structure Barrier where
  gen : W16
  n   : Nat
  m   : Nat
  deriving DecidableEq, Repr

/-- A role of a launch record (R82, R298). -/
structure RoleRec where
  start : W32
  stop  : Nat
  cap   : Nat
  deriving DecidableEq, Repr

/-- A launch record (R298). -/
structure LaunchRec where
  cb      : W64
  d       : Nat
  cl      : Nat
  width   : Nat
  cor     : Bool
  t       : Nat
  threads : Nat
  nroles  : Nat
  tiles   : Nat
  scratch : Nat
  cws     : Nat
  wsize   : Nat
  asize   : Nat
  dws     : Nat
  dwb     : W64
  pvb     : W64
  pvs     : Nat
  splim   : W32
  seed    : W32
  sptn    : Nat
  spta    : W64
  roles   : List RoleRec
  deriving DecidableEq, Repr

/-- A placed team (R101, R115, R149, R234, R256). `tiles` holds word e of tile t at number 4096 * t + e;
`ended` counts the threads that executed TAIL; `charge` is the position-cycle sum P of R306. -/
structure Team where
  key      : Nat
  grid     : Nat
  num      : Nat
  core     : CoreId
  tslot    : Nat
  scratch  : Cells
  w        : Cells
  a        : Cells
  tiles    : Words
  poison   : BitVec 16
  barrier  : Barrier
  ended    : Nat
  charge   : Nat
  reported : Nat
  dead     : Option Nat
  swapped  : Bool
  /-- Places of the team's scratchpad, W and A that hold an uncorrectable word (R351). -/
  badSc    : List Nat
  badW     : List Nat
  badA     : List Nat
  deriving DecidableEq, Repr

/-- A barrier instance above the team (R212): level, die and cluster position, the instance. -/
structure GridBarrier where
  level   : Level
  die     : Nat
  cluster : Nat
  b       : Barrier
  deriving DecidableEq, Repr

/-- A grid (R80, R296, R300, R301, R349). `clusters` maps a die and cluster position to a physical Vent and
cluster, `ready` are the positions that their leaf controllers know of. `held` is the instant before which its groups do not
issue, `started` the Vents on which they may. `sup` says that a supervisor-state group launched it, so that its groups form in
supervisor state (R320). -/
structure Grid where
  key       : Nat
  id        : W32
  part      : Nat
  ctx       : Nat
  pasid     : Nat
  depth     : Nat
  lrec      : LaunchRec
  queue     : Option Nat
  level     : Nat
  parent    : Option Nat
  done      : W64
  clusters  : List (Nat × Nat × Nat × Nat)
  ready     : List (Nat × Nat)
  placed    : List Nat
  completed : List Nat
  cause     : Option Nat
  barriers  : List GridBarrier
  held      : Option Nat
  started   : List Nat
  waitSince : Nat
  blocking  : Bool
  launch    : Option (Nat × Nat)
  soft      : Bool
  sup       : Bool
  deriving DecidableEq, Repr

/-! ## Memory, caches and marks (07, 08, 16) -/

/-- A line that a Vent's L2 holds (R155 to R157): ownership, valid and dirty sectors, stamps, and the DRAM bytes that a
dirty sector hides, first old value kept. `pinned` is the grid whose window pins it (R148), `key` the key under which it
was filled (R323), `writers` the contexts whose stores have not been written back (R351), the last to write first (R330). -/
structure L2Line where
  vent   : Nat
  line   : Nat
  owned  : Bool
  valid  : BitVec 8
  dirty  : BitVec 8
  rstamp : Nat
  wstamp : Nat
  pinned : Option Nat
  old    : List Host.Cell
  writers : List (Nat × Nat)
  key    : Nat
  deriving DecidableEq, Repr

/-- A request for ownership of a line (R157): the requester, the holders still to be invalidated, and the
acknowledgements still to come. Vent 100 + p stands for host port p. -/
structure OwnReq where
  line   : Nat
  vent   : Nat
  toInv  : List Nat
  toAck  : List Nat
  deriving DecidableEq, Repr

/-- A lost-line mark (R351, R352): cause, the bytes written since, and whether no write clears it. -/
structure LostMark where
  line    : Nat
  cause   : Nat
  written : Nat
  lasting : Bool
  deriving DecidableEq, Repr

/-- The narrow mark of a line (R187): the core of the latest narrow release, and a promotion under way. -/
structure NarrowMark where
  line     : Nat
  core     : CoreId
  waitOps  : Option (List Nat)
  deriving DecidableEq, Repr

/-- The last store to a 16-byte granule, kept in debug mode (R153): size, team and thread. -/
structure DebugStore where
  granule : Nat
  size    : Nat
  team    : Nat
  tid     : Nat
  deriving DecidableEq, Repr

/-- A range whose key was discarded (R324): its bytes read as free values until they are written. -/
structure Scrambled where
  base  : Nat
  size  : Nat
  epoch : Nat
  fresh : List Nat
  deriving DecidableEq, Repr

/-- A 128-byte data unit of DRAM (R323): the key under which it was last written, and the bytes written since it was
first written under that key, bit i for byte i. -/
structure KeyUnit where
  unit    : Nat
  key     : Nat
  written : Nat
  deriving DecidableEq, Repr

/-- A write of the device itself that waits until its line's home owns the line (R157, R191, R328). The writes of one
stream are performed in their order (R296, R344): stream p is partition p's ring, 128 + q the status block of queue q. -/
structure DevWrite where
  stream : Nat
  addr : Nat
  data : List Byte
  deriving DecidableEq, Repr

/-- An access in the retry queue of a slice (R160), as its operation and its number in it. -/
structure Retry where
  vent  : Nat
  slice : Nat
  op    : Nat
  acc   : Nat
  deriving DecidableEq, Repr

/-- A write of global memory that has been performed (R152): its number among them, its address, the bytes that it replaced,
and who made it: the path, with the group and the lane of a thread, or with 0 and the port of a host. -/
structure PastWrite where
  n     : Nat
  key   : Nat
  old   : List Byte
  path  : Path
  group : Nat
  lane  : Nat
  deriving DecidableEq, Repr

/-- An acquire (R152, R174, R177): what had been performed by then, `n` writes of global memory, comes before the later
operations on `path` of the lanes of `group`, those numbered from `op` on; group 0 and lane p stand for host port p. -/
structure Acquire where
  group : Nat
  lanes : Mask
  path  : Path
  op    : Nat
  n     : Nat
  deriving DecidableEq, Repr

/-! ## Faults and the request ring (16) -/

/-- A fault that arrived after issue and is not yet delivered (R340), of the operation `op`. -/
structure LateFault where
  group  : Nat
  team   : Nat
  cause  : Nat
  active : Mask
  fmask  : Mask
  faddr  : W64
  waddr  : W32
  op     : Nat
  deriving DecidableEq, Repr

/-- A record due for a partition's request ring (R343), with its lane blocks as 32-bit words. -/
structure Post where
  kind    : Nat
  cause   : Nat
  flags   : Nat
  state   : Nat
  active  : Mask
  fmask   : Mask
  faddr   : W64
  waddr   : W32
  kaddr   : W32
  hdr     : W32
  svc     : W32
  team    : W32
  ctx     : Nat
  core    : Nat
  place   : Nat
  grid    : W32
  blocks  : List (Nat × List W32)
  parking : Option Nat
  deriving DecidableEq, Repr

/-- A part of an image in a partition's save area (R312): its address, the bytes written there. -/
structure AreaPart where
  addr : Nat
  data : List Byte
  deriving DecidableEq, Repr

/-- One parking of one group (R333, R341): its handle and ring slot once posted. `trapReg` is d of a TRAP, `store`
the bytes that its group takes off-core in shadow storage and in the save area (R346), `area` what stands there, and
`bad` an uncorrectable word among them in shadow storage (R353). -/
structure Parking where
  key     : Nat
  part    : Nat
  group   : Nat
  kind    : Nat
  handle  : Option W32
  slot    : Option Nat
  active  : Mask
  trapReg : Nat
  store   : Option (Nat × Nat)
  area    : List AreaPart
  bad     : Bool
  deriving DecidableEq, Repr

/-! ## Partitions (15) -/

/-- A partition descriptor (R315). -/
structure PartDesc where
  min    : Nat
  bw     : Nat
  clmask : W64
  m0base : Nat
  m0size : Nat
  m1base : Nat
  m1size : Nat
  tb     : Nat
  qbase  : Nat
  qcount : Nat
  kimg   : Nat
  owndig : List Byte
  deriving DecidableEq, Repr

/-- What happens to a halted context from outside (R313): a RESUME or a KILL of a parked group, the end of a child grid of
one of its teams, or the completion of a barrier phase by parties of other cores. -/
inductive PendingEvent where
  | resume (handle : W32) (mode : Nat)
  | kill (handle : W32) (cause : Nat) (lanesOnly : Bool)
  | childDone (team : Nat)
  | phase (grid : Nat) (level : Level) (die cluster : Nat)
  deriving DecidableEq, Repr

/-- A request of a service core on the shared path (R321): an event at the command processor or of the root monitor core, or the
completion of the KEYNEW that an operation makes at the key store. -/
inductive Request where
  | event (i : Instr)
  | keynew (op : Nat)
  deriving DecidableEq, Repr

/-- A partition and its service core's supervisor registers (R314, R322, R342). `status` is SPSTAT[1:0], `commit`
SPSTAT[15:8]. `walkp` and `walkr` are SCTXP and
SCTXR as page walks see them, which is as they stood at the last TLBINV (R322). `seq` is SEQ, the number of records posted
since SRING was written, `keySer` the number of the draw of its key (R323). `next` are BW, MIN and TB that take effect at
the reading given (R316), `requests` the requests of its service core that wait on the shared path (R321). -/
structure Part where
  num     : Nat
  status  : Nat
  commit  : Nat
  keyId   : Nat
  desc    : PartDesc
  cb      : W64
  svec    : W64
  scause  : W64
  ctxp    : List (Nat × W64)
  ctxr    : List (Nat × W64)
  walkp   : List (Nat × W64)
  walkr   : List (Nat × W64)
  sring   : W64
  sringn  : W64
  swint   : W64
  swinn   : W64
  ssave   : W64
  ssaven  : W64
  seq     : Nat
  posts   : List Post
  charged : Nat
  halted  : Bool
  keySer   : Nat
  next     : Option (Nat × Nat × Nat × Nat)
  requests : List Request
  deriving DecidableEq, Repr

/-! ## Queues, graphs and schedulers (14) -/

/-- A queue descriptor (R287). -/
structure QDesc where
  rbase   : W64
  rszlog  : Nat
  prio    : Nat
  vdev    : Nat
  pasid   : Nat
  quantum : Nat
  nout    : Nat
  mpos    : Nat
  ment    : Nat
  ridxa   : W64
  grace   : Nat
  killt   : Nat
  part    : Nat
  mline   : W64
  deriving DecidableEq, Repr

/-- A started AFTER (R296): what it polls and the time it has left, in time units. -/
structure AfterState where
  addr     : W64
  value    : W64
  kind     : Nat
  timeout  : Option Nat
  started  : Nat
  deriving DecidableEq, Repr

/-- Something a queue started that has not completed: a grid or a graph launch (R296). -/
inductive Running where
  | grid (key : Nat)
  | launch (key : Nat)
  deriving DecidableEq, Repr

/-- A queue context (R287 to R291, R306). `status` is STATE of R289. `closing` is a close under way, with the
partition and descriptor address to open again for a reset. `gens` are the generations accepted, by source (R302).
`opening` is an open that waits for a host port, with its partition and descriptor address, and `statusDue` a status block
whose write waits for one (R330). -/
structure Queue where
  num      : Nat
  status   : Nat
  code     : Nat
  desc     : Option QDesc
  ridx     : W64
  widx     : W64
  deficit  : Int
  eligible : Nat
  after    : Option AfterState
  running  : List Running
  closing  : Option (Option (Nat × W64))
  gens     : List (Nat × Nat)
  opening   : Option (Nat × W64)
  statusDue : Bool
  deriving DecidableEq, Repr

/-- A monitor-table entry in use (R292): the watched line, its memory key, and whether the command processor holds its
shared copy. -/
structure Monitor where
  entry : Nat
  mline : W64
  part  : Nat
  pasid : Nat
  key   : Nat
  held  : Bool
  deriving DecidableEq, Repr

/-- A node of a graph (R303). -/
structure GraphNode where
  cmd   : Cmd
  preds : List Nat
  deriving DecidableEq, Repr

/-- A stored graph instance (R304). -/
structure GraphInst where
  part    : Nat
  pasid   : Nat
  gdesc   : W64
  version : W32
  reent   : Bool
  nodes   : List GraphNode
  used    : Nat
  deriving DecidableEq, Repr

/-- A launch of a graph instance (R304, R305). -/
structure GraphLaunch where
  key      : Nat
  inst     : GraphInst
  queue    : Nat
  done     : W64
  active   : Bool
  started  : List Nat
  finished : List Nat
  polling  : List (Nat × AfterState)
  faulted  : Option (Nat × Nat)
  deriving DecidableEq, Repr

/-- A child launch waiting in a Vent's child ring (R104, R308); `sup` says that a supervisor-state group made it (R320). -/
structure Child where
  id     : W32
  lrec   : W64
  done   : W64
  depth  : Nat
  parent : Nat
  part   : Nat
  ctx    : Nat
  pasid  : Nat
  level  : Nat
  queue  : Option Nat
  killed : Bool
  sup    : Bool
  deriving DecidableEq, Repr

/-- A message of a command link (R308): a cluster position of a grid for a leaf controller to place, or a charge for a
queue (R306). -/
inductive LinkMsg where
  | place (grid die cluster : Nat)
  | charge (queue : Option Nat) (part amount : Nat)
  deriving DecidableEq, Repr

/-- One direction of a command link (R308): messages in flight with their sequence numbers, permits left, the
next number to send and the next to consume. -/
structure CmdLink where
  vent    : Nat
  cluster : Nat
  toLeaf  : Bool
  msgs    : List (Nat × LinkMsg)
  permits : Nat
  nextSeq : Nat
  expect  : Nat
  deriving DecidableEq, Repr

/-- A die scheduler core (R309): when it was last heard, whether it is hung, and who adopted its Vent. -/
structure Scheduler where
  vent     : Nat
  seen     : Nat
  hung     : Bool
  adopter  : Option DieId
  children : List Child
  deriving DecidableEq, Repr

/-- A pre-emption under way (R310, R311). Stage 1 SOFT, 2 HALT, 3 KILL; `saved` once the image has been moved,
with the bytes it takes in shadow storage and in the save area, `bins` its pending records by core (R232), `area` what
stands in the save area (R312), and `bad` an uncorrectable word of it in shadow storage (R353). -/
structure Preempt where
  n       : Nat
  req     : PreemptReq
  stage   : Nat
  since   : Nat
  grace   : Nat
  killt   : Nat
  saved   : Option (Nat × Nat)
  bins    : List (CoreId × Bin)
  events  : List PendingEvent
  area    : List AreaPart
  bad     : Bool
  deriving DecidableEq, Repr

/-! ## Links, time and ports (02, 15) -/

/-- The states of a die-to-die link (R25). -/
inductive LinkState where
  | down | active | sleep | waking | retrain | dead
  deriving DecidableEq, Repr

/-- One channel of one direction of a link (R22): next number to send, next to accept, credits, replay copies, flits in
flight, and what is held until a credit frees or the link carries traffic (R25, R27). `stamped` is the sender's reading when
the last Sync, Pdelay_Req or Pdelay_Resp left (R29). -/
structure Lane where
  toDie    : Bool
  ch       : Channel
  nextSeq  : Nat
  expect   : Nat
  credits  : Nat
  replay   : List Flit
  inflight : List Flit
  waiting  : List FlitBody
  stamped  : Nat
  deriving DecidableEq, Repr

/-- A die-to-die link, named by the die on its far side (R25, R26). -/
structure Link where
  die     : DieId
  st      : LinkState
  since   : Nat
  failed  : Nat
  lanes   : List Lane
  deriving DecidableEq, Repr

/-- A time register and its two status words (R28, R31), and what the synchronisation has measured (R29).
`inc` is the increment in units of 2^-32. `pkgBound` is in units; `fabSync` is when the last Sync of the fabric came; `heldSince` is when HOLDOVER began;
`inbox` are the messages received, with their senders and arrival readings, `lastOpt` when Caldera last sent Sync on its
optical ports (R29). -/
structure TimeReg where
  die       : DieId
  value     : Nat
  frac      : Nat
  inc       : Nat
  cycles    : Nat
  pkgState  : Nat
  pkgBound  : Nat
  fabState  : Nat
  fabBound  : Nat
  lastSync  : Nat
  fabSync   : Nat
  syncAt    : Option Nat
  reqSent   : Nat
  respRecv  : Nat
  peerRecv  : Nat
  delay     : Nat
  locked    : Bool
  heldSince : Nat
  inbox     : List (DieId × Nat × TimeMsg)
  lastOpt   : Nat
  deriving DecidableEq, Repr

/-- A read of a GET at a port (R327, R329): the operation, the number of its first byte among the operation's, its length and
address, the storage controller, the partition and the tags that it holds, 0 while it waits for them. -/
structure PortRead where
  op   : Nat
  off  : Nat
  len  : Nat
  addr : Nat
  ctrl : Nat
  part : Nat
  tags : Nat
  deriving DecidableEq, Repr

/-- A host's write that waits at its port (R191): address and bytes, and the tags that it holds, 0 once the port has been down
(R327). -/
structure HostWrite where
  addr : Nat
  data : List Byte
  tags : Nat
  deriving DecidableEq, Repr

/-- An optical port (R322 SPORT, R326 to R331): role, bound partition, whether it is up, when its link failed,
device lines that its host holds (oldest first; modified or not) with the keys under which they were filled, and
quarantined host-homed lines with the context that wrote each last. `reads` and `writes` hold tags (R327), `timeOut` are
the timing messages sent on the port (R29), `lostBelow` the number below which operations were issued before the link
came back from a discard (R330), and `poisoned` counts the host writes completed with poison (R326). -/
structure Port where
  n          : Nat
  peer       : Bool
  bound      : Nat
  up         : Bool
  failedAt   : Option Nat
  lost       : Bool
  held       : List (Nat × Bool)
  quarantine : List (Nat × List (Nat × Nat))
  heldKeys   : List (Nat × Nat)
  reads      : List PortRead
  writes     : List HostWrite
  timeOut    : List TimeMsg
  lostBelow  : Nat
  poisoned   : Nat
  deriving DecidableEq, Repr

/-- The ordering codes (R1). -/
inductive PartCode where
  | p | p7 | m
  deriving DecidableEq, Repr

/-- The device information block's state (R14, R16, R19): dies admitted at boot and not lost since, GEN, STATE. -/
structure DevInfo where
  springs     : BitVec 16
  vents       : BitVec 8
  bootSprings : List Nat
  bootVents   : List Nat
  valid       : Bool
  gen         : W16
  state       : Nat
  deriving DecidableEq, Repr

/-- The command processor's round state (R306, R307): the place in the round-robin order, dispatches left in the
round, and the dispatches each partition has had in it. -/
structure Rounds where
  elig  : Nat
  used  : Nat
  parts : List (Nat × Nat)
  deriving DecidableEq, Repr

/-! ## The machine -/

/-- The whole machine. `gatedWays` are the L2 ways that are gated (1), waking (2) or failed (3), by Vent, slice and way
(R159, R160). `issueQ` are the groups whose next word issues now (R86, R87); `agenda` the events that come
next, oldest first, ahead of the model's own choice, which `round` turns through (log 3). `turn` counts issue turns. `fresh` numbers the free values (log 7).
`units` says under which keys DRAM was written (R323), `devWrites` are the device's own writes that wait for ownership,
`retry` the slices' retry queues (R160); `served` and `posted` are the places of the round robins among the partitions'
requests and ring records (R321). `past` are the writes of global memory and `acquires` the acquires, the latest first (R152).
`hostLog` are the answers to host reads and
`peerOut` the copies that have left for other devices (R302), `marks` the words that engines wrote as completion marks, with what they wrote (R190). `fabric` is the port toward the fabric master, if one is configured (R29). -/
structure State where
  agenda     : List Instr
  issueQ     : List Nat
  turn       : Nat
  round      : Nat
  fresh      : Nat
  nextKey    : Nat
  nextGrid   : W32
  code       : PartCode
  fused      : Nat
  info       : DevInfo
  inRom      : Bool
  links      : List Link
  times      : List TimeReg
  masterSet  : Bool
  fabric     : Option Nat
  mem        : Cells
  scrambled  : List Scrambled
  l2         : List L2Line
  ownReqs    : List OwnReq
  maxLease   : List (Nat × Nat)
  lost       : List LostMark
  narrow     : List NarrowMark
  debugLog   : List DebugStore
  gatedWays  : List (Nat × Nat × Nat × Nat)
  groups     : List Group
  ops        : List Op
  nextOp     : Nat
  trackers   : List Tracker
  lateFaults : List LateFault
  parkings   : List Parking
  cores      : List CoreState
  teams      : List Team
  grids      : List Grid
  parts      : List Part
  keys       : List (Nat × BitVec 512)
  queues     : List Queue
  monitors   : List Monitor
  insts      : List GraphInst
  launches   : List GraphLaunch
  rounds     : Rounds
  scheds     : List Scheduler
  cmdLinks   : List CmdLink
  preempts   : List Preempt
  ports      : List Port
  hostLog    : List (Nat × Option (List Byte))
  peerOut    : List (Nat × ReplCopy)
  marks      : List (Loc × W64)
  units      : List KeyUnit
  devWrites  : List DevWrite
  retry      : List Retry
  served     : Nat
  posted     : Nat
  past       : List PastWrite
  acquires   : List Acquire
  deriving DecidableEq, Repr

/-! ## Stops -/

/-- Why the machine stops. It has no constructor: the spec gives every instruction and every event an effect, and none that
ends the machine; traps, terminations and refusals of commands are next states. -/
inductive Fault where
  deriving DecidableEq, Repr

/-- Why a step has no meaning. -/
inductive Refusal where
  /-- Raised by the dispatch of an instruction that has no meaning yet. Safe. -/
  | notModelled (mnemonic : String)
  /-- Raised by a word's meaning when no group issues: `step` never asks for that. Safe. -/
  | noIssuingGroup
  deriving DecidableEq, Repr

/-! ## Reset -/

/-- A die's time register after cold reset (R30, R31): 0, UNSYNC, BOUND saturated; the nominal increment of R28. -/
def TimeReg.reset (d : DieId) : TimeReg where
  die := d
  value := 0
  frac := 0
  inc := (match d with | .caldera => 8 | _ => 16) * 2 ^ 32
  cycles := 0
  pkgState := 0
  pkgBound := 0xFFFFFF
  fabState := 0
  fabBound := 0xFFFFFF
  lastSync := 0
  fabSync := 0
  syncAt := none
  reqSent := 0
  respRecv := 0
  peerRecv := 0
  delay := 0
  locked := false
  heldSince := 0
  inbox := []
  lastOpt := 0

/-- A port after cold reset: SPORT 0x7F00, that is ROLE host and bound to no partition (R322), down. -/
def Port.reset (n : Nat) : Port where
  n := n
  peer := false
  bound := 127
  up := false
  failedAt := none
  lost := false
  held := []
  quarantine := []
  heldKeys := []
  reads := []
  writes := []
  timeOut := []
  lostBelow := 0
  poisoned := 0

/-- The descriptor of a partition that has never been committed. -/
def PartDesc.empty : PartDesc where
  min := 0
  bw := 0
  clmask := 0
  m0base := 0
  m0size := 0
  m1base := 0
  m1size := 0
  tb := 0
  qbase := 0
  qcount := 0
  kimg := 0
  owndig := []

/-- A partition after cold reset: FREE, every supervisor register at its reset value of R322. -/
def Part.reset (n : Nat) : Part where
  num := n
  status := 0
  commit := 0
  keyId := 0
  desc := PartDesc.empty
  cb := 0
  svec := 0
  scause := 0
  ctxp := []
  ctxr := []
  walkp := []
  walkr := []
  sring := 0
  sringn := 0
  swint := 0
  swinn := 0
  ssave := 0
  ssaven := 0
  seq := 0
  posts := []
  charged := 0
  halted := false
  keySer := 0
  next := none
  requests := []

/-- A core that holds nothing: what a core not listed in `State.cores` is. -/
def CoreState.empty (c : CoreId) : CoreState where
  id := c
  bins := []
  l1 := []
  l1time := 0
  ticks := 0
  tlb := []
  icache := []
  gated := 0
  waking := 0
  failed := 0

/-- A queue context that was never opened: CLOSED (R289). -/
def Queue.closed (n : Nat) : Queue where
  num := n
  status := 0
  code := 0
  desc := none
  ridx := 0
  widx := 0
  deficit := 0
  eligible := 0
  after := none
  running := []
  closing := none
  gens := []
  opening := none
  statusDue := false

/-- The machine right after cold reset, before step 1 of R16: every device information word 0 (STATE BOOT),
Caldera's time register 0, no link trained, no partition active, no queue open, memory with nothing listed. -/
def State.reset : State where
  agenda := []
  issueQ := []
  turn := 0
  round := 0
  fresh := 0
  nextKey := 1
  nextGrid := 1
  code := .p
  fused := 0
  info := ⟨0, 0, [], [], false, 0, 0⟩
  inRom := true
  links := []
  times := [TimeReg.reset .caldera]
  masterSet := false
  fabric := none
  mem := []
  scrambled := []
  l2 := []
  ownReqs := []
  maxLease := []
  lost := []
  narrow := []
  debugLog := []
  gatedWays := []
  groups := []
  ops := []
  nextOp := 0
  trackers := []
  lateFaults := []
  parkings := []
  cores := []
  teams := []
  grids := []
  parts := []
  keys := []
  queues := []
  monitors := []
  insts := []
  launches := []
  rounds := ⟨0, 0, []⟩
  scheds := []
  cmdLinks := []
  preempts := []
  ports := (List.range 8).map Port.reset
  hostLog := []
  peerOut := []
  marks := []
  units := []
  devWrites := []
  retry := []
  served := 0
  posted := 0
  past := []
  acquires := []

end Sys2Proof.Machine
end

