-- ==== Sys2Proof/Machine/Mem.lean ====
section
/-! DEFINITION. Memory below the instructions: sparse lists in canonical form, bytes, the interleave table, lines
in the L2s and the directory, lost-line marks, and stores at their serving place (R14, R19 to R21, R79, R155 to
R157, R187, R316, R317, R324, R351, R352). -/

namespace Sys2Proof.Machine

/-! ## Sparse lists -/

/-- The value at place `n`; `z` where nothing is listed. -/
def sget {β : Type} (z : β) : List (Nat × β) → Nat → β
  | [], _ => z
  | (k, v) :: m, n => if k = n then v else sget z m n

/-- List a place, before the places above it. -/
def sinsert {β : Type} (n : Nat) (v : β) : List (Nat × β) → List (Nat × β)
  | [] => [(n, v)]
  | (k, w) :: m => if n < k then (n, v) :: (k, w) :: m else (k, w) :: sinsert n v m

/-- Set place `n`, keeping the canonical form: rising places, no entry equal to `z`. -/
def sput {β : Type} [DecidableEq β] (z : β) (m : List (Nat × β)) (n : Nat) (v : β) : List (Nat × β) :=
  let r := m.filter fun e => e.1 != n
  if v = z then r else sinsert n v r

/-- The canonical form, with every place above `lo` when one is given. -/
def swf {β : Type} [DecidableEq β] (z : β) : Option Nat → List (Nat × β) → Bool
  | _, [] => true
  | lo, (k, v) :: m => (match lo with | none => true | some l => decide (l < k)) && decide (v ≠ z) && swf z (some k) m

/-- Drop every place that `p` names. -/
def sdrop {β : Type} (p : Nat → Bool) (m : List (Nat × β)) : List (Nat × β) := m.filter fun e => !p e.1

/-- The first element that `p` accepts is replaced by `f`; where none is accepted, `x` is added at the end. -/
def upsert {α : Type} (p : α → Bool) (f : α → α) (x : α) : List α → List α
  | [] => [f x]
  | a :: l => if p a then f a :: l else a :: upsert p f x l

/-! ## Bytes -/

/-- A value from bytes, little-endian (R5). -/
def natOfBytes : List Byte → Nat
  | [] => 0
  | b :: l => b.toNat + 256 * natOfBytes l

/-- The lowest `n` bytes of a value, little-endian (R5). -/
def bytesOfNat : Nat → Nat → List Byte
  | 0, _ => []
  | n + 1, x => BitVec.ofNat 8 x :: bytesOfNat n (x / 256)

/-- The bytes of a 32-bit word. -/
def bytesOfWord (w : W32) : List Byte := bytesOfNat 4 w.toNat

/-- A 32-bit word from bytes. -/
def wordOfBytes (l : List Byte) : W32 := BitVec.ofNat 32 (natOfBytes l)

/-- A 64-bit word from its two halves, low half first (R127). -/
def pairOf (lo hi : W32) : W64 := hi ++ lo

def lowHalf (x : W64) : W32 := x.setWidth 32
def highHalf (x : W64) : W32 := (x >>> 32).setWidth 32

/-- Field `[hi:lo]` of a number. -/
def bitsOf (x hi lo : Nat) : Nat := x / 2 ^ lo % 2 ^ (hi + 1 - lo)

/-! ## Dies, their time registers and the links between them (R13, R22 to R28) -/

/-- The die of a core (R13). -/
def dieOf (c : CoreId) : DieId :=
  match c with
  | .vent v _ _ => .vent v
  | .service _ => .caldera

/-- A die's time register and status (R28, R31). -/
def State.time (s : State) (d : DieId) : TimeReg := (s.times.find? fun t => t.die == d).getD (TimeReg.reset d)

def State.onTime (s : State) (d : DieId) (f : TimeReg → TimeReg) : State :=
  { s with times := upsert (fun t => t.die == d) f (TimeReg.reset d) s.times }

def State.link? (s : State) (d : DieId) : Option Link := s.links.find? fun l => l.die == d

def State.onLink (s : State) (d : DieId) (f : Link → Link) : State :=
  { s with links := s.links.map fun l => if l.die == d then f l else l }

/-- Whether nothing has to wait for a die's link: it carries traffic (R25), or its die is dead, so that what needs it meets the
lost-line marks (R26, R351). -/
def State.linkFlows (s : State) (d : DieId) : Bool :=
  match s.link? d with
  | none => true
  | some l => l.st == .active || l.st == .dead

/-- Traffic that is due on a sleeping link starts a wake (R25). -/
def State.wakeLink (s : State) (d : DieId) : State :=
  s.onLink d fun l => if l.st = .sleep then { l with st := .waking, since := (s.time .caldera).value } else l

/-- Traffic that is due on sleeping links starts their wakes. -/
def State.wakeLinks (s : State) (ds : List DieId) : State := ds.foldl (fun s d => s.wakeLink d) s

/-- A time register rises to at least `v` (R24). What becomes of the 32-bit fraction the spec does not say: it starts
again at 0, DESIGN CHOICE (log 83). -/
def TimeReg.raise (t : TimeReg) (v : Nat) : TimeReg := if t.value < v then { t with value := v, frac := 0 } else t

def isCaldera (d : DieId) : Bool :=
  match d with
  | .caldera => true
  | _ => false

/-- Whether a die has a time register (R28). -/
def hasTime (d : DieId) : Bool :=
  match d with
  | .spring _ => false
  | _ => true

/-- Caldera's reading, on which every link time-out is measured (R25). -/
def State.now (s : State) : Nat := (s.time .caldera).value

/-- How far two readings lie apart. -/
def apart (x y : Nat) : Nat := (x - y) + (y - x)

/-- The greatest bounds in LOCKED, package and fabric (R32), in time units. -/
def pkgCeiling : Nat := 32
def fabCeiling : Nat := 400

/-- BOUND saturates (R31). -/
def maxBound : Nat := 0xFFFFFF

/-- The state of a bound that has been widened to `b`: UNSYNC where it saturates, and above the ceiling no longer LOCKED
(R32). -/
def widened (ceiling st b : Nat) : Nat := if maxBound ≤ b then 0 else if st = 2 ∧ ceiling < b then 1 else st

/-- Bounds that the master's register `c` has outgrown are widened, since the bound that a device reports always holds: the
package bound to the distance of the two readings, and where a fabric is configured the fabric bound to that distance and the
bound of `c`; without one the two words stay equal (R31, R32). DESIGN CHOICE (log 9). -/
def TimeReg.widen (t : TimeReg) (fabric : Bool) (c : TimeReg) : TimeReg :=
  let gap := apart t.value c.value
  let t1 : TimeReg :=
    if t.pkgState = 0 ∨ gap ≤ t.pkgBound then t
    else { t with pkgBound := min maxBound gap, pkgState := widened pkgCeiling t.pkgState gap }
  if !fabric then { t1 with fabState := t1.pkgState, fabBound := t1.pkgBound }
  else if t.fabState = 0 ∨ gap + c.fabBound ≤ t.fabBound then t1
  else { t1 with fabBound := min maxBound (gap + c.fabBound), fabState := widened fabCeiling t.fabState (gap + c.fabBound) }

/-- Caldera's register has moved otherwise than by a tick: the Vents' bounds still hold. -/
def State.rebound (s : State) : State :=
  { s with times := s.times.map fun t => if isCaldera t.die then t else t.widen s.fabric.isSome (s.time .caldera) }

/-- Caldera's register has moved by `n` units against its own fabric master: its fabric bound still holds (R32). -/
def TimeReg.strayed (fabric : Bool) (n : Nat) (t : TimeReg) : TimeReg :=
  if !fabric ∨ n = 0 ∨ t.fabState = 0 then t
  else { t with fabBound := min maxBound (t.fabBound + n), fabState := widened fabCeiling t.fabState (t.fabBound + n) }

/-- Caldera's register takes a value otherwise than by a tick and than from its fabric master: its own fabric bound and the
Vents' bounds still hold. -/
def State.moveMaster (s : State) (f : TimeReg → TimeReg) : State :=
  (s.onTime .caldera fun t => (f t).strayed s.fabric.isSome (apart (f t).value t.value)).rebound

/-- A die's register is raised to at least `v` (R24). -/
def State.raiseTime (s : State) (d : DieId) (v : Nat) : State :=
  if isCaldera d then s.moveMaster fun t => t.raise v
  else s.onTime d fun t => if t.value < v then (t.raise v).widen s.fabric.isSome (s.time .caldera) else t

/-- Requests and answers between dies: every flit raises its receiver's time register to the sender's reading (R24). -/
def State.causal (s : State) (ds : List DieId) : State :=
  let l := ds.filter hasTime
  let v := l.foldl (fun m d => max m (s.time d).value) 0
  l.foldl (fun s d => s.raiseTime d v) s

/-- What needs traffic among `ds`: done at once where every link flows, and else held while the sleeping links wake
(R25, R27). -/
def State.cross (s : State) (ds : List DieId) (k : State → State) : State :=
  if ds.all s.linkFlows then k (s.causal ds) else s.wakeLinks ds

/-- A message from Caldera to a die, or the other way: done at once where the link flows, with the receiver's register raised
to the sender's reading, and else held while the link wakes (R24, R25, R27). -/
def State.message (s : State) (from_ to_ : DieId) (k : State → State) : State :=
  if s.linkFlows from_ && s.linkFlows to_ then k (s.raiseTime to_ (s.time from_).value)
  else (s.wakeLink from_).wakeLink to_

/-! ## Flits (R22, R24, R25, R27) -/

def Link.lane? (l : Link) (toDie : Bool) (ch : Channel) : Option Lane := l.lanes.find? fun x => x.toDie == toDie && x.ch == ch

def Link.onLane (l : Link) (toDie : Bool) (ch : Channel) (f : Lane → Lane) : Link :=
  { l with lanes := l.lanes.map fun x => if x.toDie == toDie && x.ch == ch then f x else x }

/-- The sender of a direction of a die's link, and its receiver. -/
def senderOf (d : DieId) (toDie : Bool) : DieId := if toDie then .caldera else d
def receiverOf (d : DieId) (toDie : Bool) : DieId := if toDie then d else .caldera

/-- A flit's body as it leaves: a Follow_Up carries the reading at which the message that it follows left (R29). -/
def bodyLeaving (b : FlitBody) (stamped : Nat) : FlitBody :=
  match b with
  | .time (.followUp _) => .time (.followUp stamped)
  | .time (.pdelayRespFollowUp _) => .time (.pdelayRespFollowUp stamped)
  | _ => b

/-- Whether a flit is a message whose departure is timed at the link interface (R29). -/
def bodyTimed (b : FlitBody) : Bool :=
  match b with
  | .time .sync => true
  | .time .pdelayReq => true
  | .time (.pdelayResp _) => true
  | _ => false

/-- Send a flit against a credit: it is stamped, and a replay copy is kept. -/
def Lane.send (x : Lane) (stamp : Nat) (b : FlitBody) : Lane :=
  let f : Flit := ⟨x.nextSeq, stamp, bodyLeaving b x.stamped⟩
  { x with
      nextSeq := x.nextSeq + 1, credits := x.credits - 1, replay := x.replay ++ [f], inflight := x.inflight ++ [f]
      stamped := if bodyTimed b then stamp else x.stamped }

/-- A lane sends what it holds, in order, as far as its credits go; each flit is stamped as it leaves. -/
def Lane.sendHeld (x : Lane) (stamp : Nat) : Lane :=
  let n := min x.credits x.waiting.length
  (x.waiting.take n).foldl (fun x b => x.send stamp b) { x with waiting := x.waiting.drop n }

/-- Every lane of a die's link that carries traffic sends what it holds. -/
def State.sendHeld (s : State) (d : DieId) : State :=
  s.onLink d fun l =>
    if l.st = .active then { l with lanes := l.lanes.map fun x => x.sendHeld (s.time (senderOf d x.toDie)).value } else l

/-- Send a flit on a die's link: it leaves once the link carries traffic and a credit is there; a sleeping link starts its
wake. -/
def State.sendFlit (s : State) (d : DieId) (toDie : Bool) (ch : Channel) (b : FlitBody) : State :=
  ((s.wakeLink d).onLink d fun l => l.onLane toDie ch fun x => { x with waiting := x.waiting ++ [b] }).sendHeld d

/-! ## The interleave table (R19, R20) and the partitions' ranges (R317) -/

/-- The line of a memory key (R20, R157). -/
def lineOf (key : Nat) : Nat := key / 1024

/-- A device line's index into the interleave table (R20). -/
def ilvIndex (line : Nat) : Nat :=
  let q := line / 4096
  (line % 4096) ^^^ (q % 4096) ^^^ (q / 4096 % 4096) ^^^ (q / 2 ^ 24 % 4096) ^^^ (q / 2 ^ 36 % 4096)

/-- Whether a line is one of device memory: the configuration window and the host lines have higher keys. -/
def isDeviceLine (line : Nat) : Bool := decide (line < Config.configWindowBase / 1024)

/-- The memory key of a host port's physical address. -/
def hostKey (port a : Nat) : Nat := Config.hostKeyBase * (port + 1) + a

/-- The host port of a memory key, if it is one of host memory. -/
def portOfKey (key : Nat) : Option Nat :=
  if key < Config.hostKeyBase then none else some (key / Config.hostKeyBase - 1)

def State.port? (s : State) (n : Nat) : Option Port := s.ports.find? fun p => p.n == n

def State.onPort (s : State) (n : Nat) (f : Port → Port) : State :=
  { s with ports := s.ports.map fun p => if p.n == n then f p else p }

/-- A port's tags in each direction, and those reserved for each partition that uses the port (R327). -/
def portTags : Nat := 16384
def tagReserve : Nat := 128

/-- Tags that a partition holds. -/
def Port.tagsOf (p : Port) (part : Nat) : Nat := ((p.reads.filter fun r => r.part == part).map (·.tags)).sum

/-- Whether `n` more tags may go to a partition: every partition that uses the port keeps its reserve (R327). -/
def Port.mayTake (p : Port) (part n : Nat) : Bool :=
  let users := (part :: p.bound :: p.reads.map (·.part)).dedup
  decide (((users.map fun q => max tagReserve (p.tagsOf q + if q = part then n else 0)).sum) ≤ portTags)

/-- Whether a request of the device's for host memory at `key` finds no tag at its port (R327). The requests of a load, a store,
an atomic, a copy, a fill or a write-back complete in the step that performs it, which frees their tags again. -/
def State.tagless (s : State) (key : Nat) : Bool :=
  match (portOfKey key).bind s.port? with
  | none => false
  | some p => !p.mayTake p.bound 1

/-- Whether an address lies in the configuration window as service cores see it (R14, log 10). -/
def inWindow (a : Nat) : Bool :=
  decide (Config.configWindowBase ≤ a) && decide (a < Config.configWindowBase + Config.configWindowSize)

/-- Lines per Spring that the table uses, Q of R19. -/
def State.q (s : State) : Nat :=
  let k := s.info.bootSprings.length
  if k = 0 then 0 else 2 ^ 26 / ((4096 + k - 1) / k)

/-- Backed device memory in GiB (R20). -/
def State.gib (s : State) : Nat := 4096 * s.q / 2 ^ 20

/-- SPRING of interleave entry `i` (R19). With no Spring admitted R19 computes no value: the entry shows Spring 0, Q is 0
and V is 1 all the same, DESIGN CHOICE (log 84). -/
def State.ilvSpring (s : State) (i : Nat) : Nat :=
  (s.info.bootSprings[i % s.info.bootSprings.length]?).getD 0

/-- `h` of interleave entry `i` (R19). -/
def State.ilvH (s : State) (i : Nat) : Nat := i % (32 * s.info.bootVents.length)

/-- HVENT of interleave entry `i` (R19); 0 with no Vent admitted, DESIGN CHOICE (log 84). -/
def State.ilvVent (s : State) (i : Nat) : Nat := (s.info.bootVents[s.ilvH i / 32]?).getD 0

/-- SLICE of interleave entry `i` (R19). -/
def State.ilvSlice (s : State) (i : Nat) : Nat := s.ilvH i % 32

/-- Entry `i` of DEVINFO_ILV (R15). -/
def State.ilvEntry (s : State) (i : Nat) : Nat :=
  if s.info.valid then 2 ^ 15 + s.ilvSlice i * 2 ^ 10 + s.ilvVent i * 2 ^ 7 + s.ilvSpring i else 0

/-- The number of entries among the first `n` whose SPRING is `x`: rank of R20 for n = i, n_s for n = 4096. -/
def State.ilvCount (s : State) (x n : Nat) : Nat := ((List.range n).filter fun j => s.ilvSpring j == x).length

/-- The Spring and the Spring-local address of a device physical address (R20). -/
def State.springPlace (s : State) (pa : Nat) : Nat × Nat :=
  let x := s.ilvSpring (ilvIndex (lineOf pa))
  (x, (lineOf pa / 4096 * s.ilvCount x 4096 + s.ilvCount x (ilvIndex (lineOf pa))) * 1024 + pa % 1024)

/-- The number of bits set among the first `n` of a mask. -/
def bitCount (n x : Nat) : Nat := ((List.range n).filter fun i => x.testBit i).length

/-- The 32-bit register of the device information block at offset `off` (R14). -/
def State.infoReg (s : State) (off : Nat) : Nat :=
  if off = 0x10 then s.info.state
  else if !s.info.valid then 0
  else if off = 0x00 then s.info.springs.toNat * 2 ^ 8 + s.info.vents.toNat
  else if off = 0x04 then
    2 ^ 31 + 8 * s.info.bootVents.length * 2 ^ 24 + s.info.bootSprings.length * 2 ^ 19 +
      s.info.bootVents.length * 2 ^ 15 + 128 * s.info.bootVents.length
  else if off = 0x08 then s.gib
  else if off = 0x0C then s.info.gen.toNat * 2 ^ 16 + s.q % 2 ^ 16
  else if off = 0x14 then s.q / 2 ^ 16
  else 0

/-- A read of `n` bytes at offset `off` of the configuration window (R14): aligned 4-byte reads of the registers,
aligned 2- and 4-byte reads of the table, 0 for every other read. -/
def State.infoRead (s : State) (off n : Nat) : Nat :=
  if 0x1000 ≤ off ∧ off < 0x3000 then
    if n = 2 ∧ off % 2 = 0 then s.ilvEntry ((off - 0x1000) / 2)
    else if n = 4 ∧ off % 4 = 0 then
      s.ilvEntry ((off - 0x1000) / 2) + 2 ^ 16 * s.ilvEntry ((off - 0x1000) / 2 + 1)
    else 0
  else if n = 4 ∧ off % 4 = 0 then s.infoReg off
  else 0

/-- The admitted Vents that are not lost. -/
def State.liveVents (s : State) : List Nat := s.info.bootVents.filter fun v => s.info.vents.toNat.testBit v

/-- A Vent that was admitted at boot and has since been declared dead (R21). -/
def State.ventDead (s : State) (v : Nat) : Bool :=
  s.info.bootVents.contains v && !s.info.vents.toNat.testBit v

/-- The Vent whose slices stand in for a dead Vent's (R352): the one that adopted it, or where that one has died since,
the one that stands in for it; at most `n` Vents deep. -/
def State.standInN (s : State) : Nat → Nat → Nat
  | 0, v => (s.liveVents.head?).getD v
  | n + 1, v =>
    match (s.scheds.find? fun d => d.vent == v).bind (·.adopter) with
    | some (.vent w) => if s.ventDead w then s.standInN n w else w
    | _ => (s.liveVents.head?).getD v

def State.standIn (s : State) (v : Nat) : Nat := s.standInN 8 v

/-- The Vent that the interleave table names as a line's home (R79). -/
def State.tableVent (s : State) (line : Nat) : Nat := s.ilvVent (ilvIndex (line % (Config.hostKeyBase / 1024)))

/-- The Vent whose slice serves a line: the one that holds it pinned (R148), or else its home (R79), or that
one's stand-in (R352). -/
def State.homeVent (s : State) (line : Nat) : Nat :=
  match s.l2.find? fun l => l.line == line && l.pinned.isSome with
  | some l => if s.ventDead l.vent then s.standIn l.vent else l.vent
  | none => if s.ventDead (s.tableVent line) then s.standIn (s.tableVent line) else s.tableVent line

def State.part? (s : State) (p : Nat) : Option Part := s.parts.find? fun x => x.num == p

/-- A partition's parent: a child p, 8 to 71, belongs to (p - 8) / 8 (R314). -/
def parentOf (p : Nat) : Option Nat := if 8 ≤ p ∧ p < 72 then some ((p - 8) / 8) else none

def childrenOf (p : Nat) : List Nat := if p < 8 then (List.range 8).map fun j => 8 + 8 * p + j else []

def PartDesc.holds (d : PartDesc) (a n : Nat) : Bool :=
  (decide (d.m0base ≤ a) && decide (a + n ≤ d.m0base + d.m0size)) ||
    (decide (d.m1base ≤ a) && decide (a + n ≤ d.m1base + d.m1size))

def PartDesc.touches (d : PartDesc) (a n : Nat) : Bool :=
  (decide (d.m0base < a + n) && decide (a < d.m0base + d.m0size)) ||
    (decide (d.m1base < a + n) && decide (a < d.m1base + d.m1size))

/-- Whether the `n` bytes at device physical address `a` are in partition `p`'s reach (R317): inside its ranges,
and outside those of its active children. The root monitor core, 127, reaches all backed memory. -/
def State.inReach (s : State) (p a n : Nat) : Bool :=
  if p = 127 then decide (a + n ≤ s.gib * 2 ^ 30)
  else
    match s.part? p with
    | none => false
    | some x =>
      x.desc.holds a n &&
        (childrenOf p).all fun c =>
          match s.part? c with
          | none => true
          | some y => !(y.status != 0 && y.desc.touches a n)

/-! ## Keys (R323) -/

/-- The number of the key under which a device physical address is enciphered: that of the active partition whose ranges
hold it, a child before its parent, and 0, Caldera's own, where no partition holds it. DEDUCED (log 35). -/
def State.serialAt (s : State) (a : Nat) : Nat :=
  let l := s.parts.filter fun x => x.status != 0 && decide (x.num < 72) && x.desc.holds a 1
  match l.find? fun x => decide (8 ≤ x.num) with
  | some x => x.keySer
  | none => ((l.head?).map (·.keySer)).getD 0

/-- A byte that memory holds, as it is deciphered now: a free value where its unit was last written under another key, or
where it has not been written since the unit was first written under this one. -/
def State.deciphered (s : State) (key : Nat) : Byte :=
  match s.units.find? fun u => u.unit == key / 128 with
  | none => sget 0 s.mem key
  | some u =>
    if u.key = s.serialAt key ∧ u.written.testBit (key % 128) then sget 0 s.mem key
    else Config.wrongKey u.key (s.serialAt key) key

/-- The machine as the root monitor core's accesses see it, where partition `part` is that core's: its key is Caldera's own,
number 0, whatever range it reaches into (R323). -/
def State.seenBy (s : State) (part : Nat) : State := if part = 127 then { s with parts := [] } else s

/-- The `n` bytes of a unit from its byte `lo` are written under the unit's present key, or under Caldera's own by the root
monitor core: a unit that was never written keeps its other bytes, one that was written under another key loses them. -/
def State.noteUnit (s : State) (root : Bool) (unit lo n : Nat) : State :=
  let k := if root then 0 else s.serialAt (128 * unit)
  let bits := (2 ^ n - 1) * 2 ^ lo
  { s with
      units := upsert (fun u => u.unit == unit)
        (fun u => if u.key = k then { u with written := u.written ||| bits } else { u with key := k, written := bits })
        ⟨unit, k, 2 ^ 128 - 1⟩ s.units }

/-- The units that `n` bytes at a device physical address touch are written under their present keys, or Caldera's own; host
memory is not enciphered. -/
def State.noteUnits (s : State) (root : Bool) (a n : Nat) : State :=
  if n = 0 ∨ !isDeviceLine (lineOf a) then s
  else
    (List.range ((a + n - 1) / 128 - a / 128 + 1)).foldl
      (fun s i =>
        let u := a / 128 + i
        let lo := max a (128 * u)
        s.noteUnit root u (lo - 128 * u) (min (a + n) (128 * (u + 1)) - lo)) s

/-! ## Raw bytes -/

/-- One byte of memory by its key: what was last written, deciphered, or a free value in a range whose key was discarded
and that has not been written since (R324). -/
def State.readByte (s : State) (key : Nat) : Byte :=
  match s.scrambled.find? fun r => decide (r.base ≤ key) && decide (key < r.base + r.size) with
  | some r => if r.fresh.contains key then s.deciphered key else Config.freeByte r.epoch key
  | none => s.deciphered key

def State.readBytes (s : State) (key n : Nat) : List Byte := (List.range n).map fun i => s.readByte (key + i)

def State.readNat (s : State) (key n : Nat) : Nat := natOfBytes (s.readBytes key n)

/-- A range's record of the bytes written since its key was discarded. -/
def Scrambled.write (r : Scrambled) (key : Nat) : Scrambled :=
  if r.base ≤ key ∧ key < r.base + r.size ∧ !r.fresh.contains key then { r with fresh := key :: r.fresh } else r

/-- Write one byte. -/
def State.writeByte (s : State) (key : Nat) (b : Byte) : State :=
  { s with mem := sput 0 s.mem key b, scrambled := s.scrambled.map fun r => r.write key }

def State.writeBytes (s : State) (key : Nat) : List Byte → State
  | [] => s
  | b :: l => (s.writeByte key b).writeBytes (key + 1) l

/-- The canonical form of memory. -/
abbrev State.memWf (s : State) : Bool := swf (0 : Byte) none s.mem

/-! ## Lost-line marks (R351, R352) -/

/-- Every byte of a line written. -/
def allWritten : Nat := 2 ^ 1024 - 1

/-- The cause of a line's lost-line mark, if it carries one: an explicit mark, the implicit mark of a line homed on
a dead Vent, or the lasting mark of a dead Spring's lines. -/
def State.lostCause (s : State) (line : Nat) : Option Nat :=
  if isDeviceLine line && s.info.bootSprings.contains (s.ilvSpring (ilvIndex line)) &&
      !s.info.springs.toNat.testBit (s.ilvSpring (ilvIndex line)) then some 0x12
  else
    match s.lost.find? fun m => m.line == line with
    | some m => if m.lasting || m.written != allWritten then some m.cause else none
    | none => if isDeviceLine line && s.ventDead (s.tableVent line) then some 0x12 else none

/-- The first mark that an access of `n` bytes at `key` meets, on any line that it touches. -/
def State.lostAt (s : State) (key n : Nat) : Option Nat :=
  if n = 0 then none
  else (List.range (lineOf (key + n - 1) - lineOf key + 1)).findSome? fun i => s.lostCause (lineOf key + i)

/-- Give a line a lost-line mark. -/
def State.markLost (s : State) (line cause : Nat) : State :=
  { s with lost := ⟨line, cause, 0, false⟩ :: s.lost.filter fun m => m.line != line }

/-- Record the bytes of a line that a write covers, and clear the mark once they are all written. A line whose
mark is implicit gets its record here (R352). -/
def State.noteWritten (s : State) (line bits : Nat) : State :=
  match s.lostCause line with
  | none => s
  | some c =>
    { s with
        lost := upsert (fun m => m.line == line) (fun m => { m with written := m.written ||| bits })
          ⟨line, c, 0, false⟩ s.lost }

/-- The mask of the bytes `key` to `key + n - 1` within the line of `key`. -/
def byteMask (key n : Nat) : Nat := (2 ^ min n (1024 - key % 1024) - 1) * 2 ^ (key % 1024)

/-! ## The L2s and the directory (R155 to R157) -/

def State.l2? (s : State) (vent line : Nat) : Option L2Line := s.l2.find? fun l => l.vent == vent && l.line == line

/-- Whether a bin holds launch records, which are still to form their first groups (R83), restored ones among them (R220). -/
def isLaunchBin (b : Bin) : Bool := b.recs.any (·.launch)

/-- How many records of a bin are to form groups before its last launch record has formed. -/
def launchCount (b : Bin) : Nat := (b.recs.reverse.dropWhile fun r => !r.launch).length

/-- A line just filled into a slice: clean, no sector in it yet, with no lease granted. -/
def L2Line.fresh (vent line stamp key : Nat) : L2Line := ⟨vent, line, false, 0, 0, stamp, stamp, none, [], [], key⟩

/-- The number of the slice that a line stands in (R156), which for a pinned line is its number mod 32 (R148). -/
def State.sliceOf (s : State) (line : Nat) : Nat :=
  if s.l2.any fun l => l.line == line && l.pinned.isSome then line % 32 else s.ilvSlice (ilvIndex line)

/-- The set of a slice that a line stands in (R156). The spec does not say which: DESIGN CHOICE (log 85). -/
def setOf (line : Nat) : Nat := line / 32 % 192

/-- The ways of a slice that are in use (R156, R159). -/
def State.waysOf (s : State) (v sl : Nat) : Nat :=
  16 - (s.gatedWays.filter fun w => w.1 == v && w.2.1 == sl).length

/-- The other lines of the set that is a line's in slice `sl` of a Vent. -/
def State.setLines (s : State) (vent sl line : Nat) : List L2Line :=
  s.l2.filter fun l => l.vent == vent && setOf l.line == setOf line && s.sliceOf l.line == sl && l.line != line

/-- A line leaves a Vent's slice: at its home the sizes and threads that debug mode keeps go with it (R153). -/
def State.forgetSizes (s : State) (vent line : Nat) : State :=
  if vent = s.homeVent line then { s with debugLog := s.debugLog.filter fun d => d.granule / 64 != line } else s

/-- Whether a line is one of a host's memory with dirty sectors that cannot be written back now: the link to that host is down,
so that the line is quarantined (R330), or no tag is left (R327). -/
def State.quarantined (s : State) (l : L2Line) : Bool :=
  l.dirty != 0 &&
    match (portOfKey (1024 * l.line)).bind s.port? with
    | none => false
    | some p => p.failedAt.isSome || s.tagless (1024 * l.line)

/-- Whether a line may leave its slice: it is not pinned, not marked at its home (R187), not asked for and not quarantined
(R330). -/
def State.mayLeave (s : State) (l : L2Line) : Bool :=
  l.pinned.isNone && !(l.vent == s.homeVent l.line && s.narrow.any fun m => m.line == l.line) &&
    !(s.ownReqs.any fun r => r.line == l.line) && !s.quarantined l

/-- The line of a full set that gives way: the one listed first among those that may leave. The spec names no replacement:
DESIGN CHOICE (log 85). -/
def State.victim? (s : State) (vent sl line : Nat) : Option L2Line := (s.setLines vent sl line).find? s.mayLeave

/-- Evict a line (R157): its dirty sectors are written back to the Spring, and the directory is told. -/
def State.evict (s : State) (l : L2Line) : State :=
  ({ (s.forgetSizes l.vent l.line) with l2 := s.l2.filter fun x => !(x.vent == l.vent && x.line == l.line) }).sendFlit
    (.vent l.vent) false .request (.dirUpdate l.line)

/-- Room for one more line in its set of slice `sl` of a Vent (R156, R157, R159); none where no way of the set can take it. -/
def State.makeRoomIn (s : State) (vent sl line : Nat) : Option State :=
  if (s.setLines vent sl line).length < s.waysOf vent sl then some s
  else if s.waysOf vent sl = 0 then none
  else (s.victim? vent sl line).map s.evict

/-- Room for a line in a Vent's slice, if it is not there. -/
def State.makeRoom (s : State) (vent line : Nat) : Option State :=
  if (s.l2? vent line).isSome then some s else s.makeRoomIn vent (s.sliceOf line) line

/-- The write stamp of a new copy: one above the greatest expiry that the slice has ever granted (R155). -/
def State.newStamp (s : State) (vent line : Nat) : Nat := sget 0 s.maxLease (32 * vent + s.sliceOf line) + 1

/-- Change a line in a Vent's slice, allocated there if it is not; where nothing can be filled into the slice (R159) the
line is served without a copy. -/
def State.setL2 (s : State) (vent line : Nat) (f : L2Line → L2Line) : State :=
  match s.makeRoom vent line with
  | none => s
  | some s1 =>
    { s1 with
        l2 := upsert (fun l => l.vent == vent && l.line == line) f
          (L2Line.fresh vent line (s.newStamp vent line) (s.serialAt (1024 * line))) s1.l2 }

/-- Write a line's dirty sectors back: the line stays valid and clean (R172). -/
def L2Line.clean (l : L2Line) : L2Line := { l with dirty := 0, old := [], writers := [] }

/-- The ports whose hosts hold a device line. -/
def State.hostHolders (s : State) (line : Nat) : List Nat :=
  (s.ports.filter fun p => p.held.any fun h => h.1 == line).map fun p => 100 + p.n

/-- The monitor entries whose line the command processor holds shared, as 200 + entry (R292). -/
def State.monitorHolders (s : State) (line : Nat) : List Nat :=
  (s.monitors.filter fun m => m.held && m.key / 1024 == line).map fun m => 200 + m.entry

/-- Whether a copy in an L2 counts as one: a pinned line's place stays with its Vent even while no sector is in it. -/
def L2Line.copies (l : L2Line) : Bool := l.owned || l.valid != 0

/-- The holders of a line other than `vent`, by Vent number, hosts as 100 + port, and the command processor by its
monitor entries (R157, R292). -/
def State.otherHolders (s : State) (vent line : Nat) : List Nat :=
  ((s.l2.filter fun l => l.line == line && l.vent != vent && l.copies).map (·.vent)) ++ s.hostHolders line ++
    s.monitorHolders line

/-- Every holder but `vent` keeps a line shared: an owner gives up ownership and its dirty sectors are written back
(R157). A host copy stays shared. -/
def State.shareLine (s : State) (vent line : Nat) : State :=
  { s with
      l2 := s.l2.map fun l => if l.line == line && l.vent != vent then { l.clean with owned := false } else l
      ports := s.ports.map fun p =>
        { p with held := p.held.map fun h => if h.1 == line then (h.1, false) else h } }

/-- Fill sectors of a line into a Vent's L2 for reading (R156, R157). -/
def State.fillShared (s : State) (vent line : Nat) (sectors : BitVec 8) : State :=
  (s.shareLine vent line).setL2 vent line fun l => { l with valid := l.valid ||| sectors }

/-- Whether a Vent may write a line now: it owns it, or no other holder is left. -/
def State.mayWrite (s : State) (vent line : Nat) : Bool :=
  ((s.l2? vent line).map (·.owned)).getD false || (s.otherHolders vent line).isEmpty

/-- Ask the directory for ownership (R157), once. -/
def State.askOwn (s : State) (vent line : Nat) : State :=
  if s.ownReqs.any fun r => r.line == line then s
  else { s with ownReqs := s.ownReqs ++ [⟨line, vent, s.otherHolders vent line, []⟩] }

/-- Note the old DRAM bytes that a write hides, first value kept. -/
def noteOld : List Host.Cell → List Host.Cell → List Host.Cell
  | old, [] => old
  | old, c :: l => noteOld (if old.any fun o => o.1 == c.1 then old else old ++ [c]) l

/-- The sectors that `n` bytes at `key` touch. -/
def sectorMask (key n : Nat) : BitVec 8 :=
  BitVec.ofNat 8 (((List.range 8).filter fun i =>
    decide (key % 1024 < 128 * (i + 1)) && decide (128 * i < key % 1024 + n)).foldl (fun a i => a + 2 ^ i) 0)

/-- A write performed at a Vent's slice that owns the line (R155 to R157, R351): the bytes, the dirty sectors with
what DRAM still holds, the write stamp above every lease granted, and the contexts that wrote, the last first. The bytes
lie in one line. A write to the registers of the configuration window is ignored, whoever makes it (R6, R14). -/
def State.storeAt (s : State) (vent : Nat) (who : Nat × Nat) (key : Nat) (bs : List Byte) : State :=
  if inWindow key then s
  else
    let root := who.1 == 127
    let s1 := s.setL2 vent (lineOf key) fun l =>
      { l with
          owned := true
          valid := l.valid ||| sectorMask key bs.length
          dirty := l.dirty ||| sectorMask key bs.length
          wstamp := l.rstamp + 1
          old := noteOld l.old ((List.range bs.length).map fun i => (key + i, s.readByte (key + i)))
          writers := who :: l.writers.filter (· != who)
          key := if root && (s.l2? vent (lineOf key)).isNone then 0 else l.key }
    ((s1.noteWritten (lineOf key) (byteMask key bs.length)).noteUnits root key bs.length).writeBytes key bs

/-- A pinned line whose sectors have gone elsewhere, or are lost: its place stays (R148). -/
def L2Line.emptied (l : L2Line) : L2Line := { l.clean with owned := false, valid := 0 }

/-- Take a line out of one holder: a Vent, a host, or the command processor's copy. A pinned line keeps its place, with no
sector in it (R148). -/
def State.dropHolder (s : State) (vent line : Nat) : State :=
  if 200 ≤ vent then
    { s with monitors := s.monitors.map fun m => if m.entry + 200 == vent then { m with held := false } else m }
  else if 100 ≤ vent then
    { s with ports := s.ports.map fun p =>
        if p.n + 100 == vent then { p with held := p.held.filter fun h => h.1 != line } else p }
  else
    { (s.forgetSizes vent line) with
        l2 := (s.l2.filter fun l => !(l.vent == vent && l.line == line && l.pinned.isNone)).map fun l =>
          if l.vent == vent && l.line == line then l.emptied else l }

/-- A holder gives a line up to another Vent: its dirty sectors move with ownership (R157). -/
def State.moveHolder (s : State) (vent dst line : Nat) : State :=
  match s.l2? vent line with
  | none => s.dropHolder vent line
  | some l =>
    let s1 := s.dropHolder vent line
    if l.dirty = 0 then s1
    else
      s1.setL2 dst line fun m =>
        { m with valid := m.valid ||| l.dirty, dirty := m.dirty ||| l.dirty, old := noteOld m.old l.old
                 writers := m.writers ++ l.writers.filter fun w => !m.writers.contains w }

/-- Restore what DRAM holds behind a line's dirty sectors: what is left when the copy is lost. -/
def State.restoreOld (s : State) (l : L2Line) : State :=
  l.old.foldl (fun s c => { s with mem := sput 0 s.mem c.1 c.2 }) s

/-! ## L1 (R154, R155) -/

/-- A sector under a lease that the logical time `now` has not reached, filled under the key `k`: a lease of 64 ticks ends
at its expiry, so that no sector serves a load 1,024 cycles after a store (R155, R188). -/
def CoreState.sector? (c : CoreState) (now k sector : Nat) : Option L1Sector :=
  c.l1.find? fun x => x.sector == sector && decide (now < x.expiry) && x.key == k

def CoreState.dropLine (c : CoreState) (line : Nat) : CoreState :=
  { c with l1 := c.l1.filter fun x => x.sector / 8 != line }

def CoreState.dropSector (c : CoreState) (sector : Nat) : CoreState :=
  { c with l1 := c.l1.filter fun x => x.sector != sector }

/-- A store updates any sector that the L1 holds (R154). -/
def CoreState.updateL1 (c : CoreState) (key : Nat) (bs : List Byte) : CoreState :=
  { c with l1 := c.l1.map fun x =>
      if x.sector == key / 128 then
        { x with data := ((List.range bs.length).zip bs).foldl (fun m e => sput 0 m (key + e.1) e.2) x.data }
      else x }

def State.core (s : State) (c : CoreId) : CoreState :=
  (s.cores.find? fun x => x.id == c).getD (CoreState.empty c)

def State.setCore (s : State) (c : CoreId) (f : CoreState → CoreState) : State :=
  { s with cores := upsert (fun x => x.id == c) f (CoreState.empty c) s.cores }

/-- The cycle count of a core's die. -/
def State.cyclesOf (s : State) (c : CoreId) : Nat := (s.time (dieOf c)).cycles

/-- The logical time of a core's L1: one tick for every 16 cycles of its Vent (R155), those that are due included. -/
def State.l1Now (s : State) (c : CoreId) : Nat :=
  (s.core c).l1time + (s.cyclesOf c / 16 - (s.core c).ticks)

/-- Granules of 256 bytes that some bytes take. -/
def granules (n : Nat) : Nat := (n + 255) / 256

/-- The launch groups that a role's waiting records will form, in granules of registers (R115, R116). -/
def launchGranules (width cap n : Nat) : Nat := (n + width - 1) / width * (width * cap * 4 / 256)

/-- Granules of the register allotments of the groups that are seated on a core (R115). -/
def State.seatedGranules (s : State) (c : CoreId) : Nat :=
  (s.groups.map fun g => if (g.seat.map (·.core)) = some c then g.width * g.cap * 4 / 256 else 0).sum

/-- Granules of the register allotments on a core: one for every seated group (R115), and what is kept for the groups
that its teams' launch records are still to form (R116). -/
def State.regGranules (s : State) (c : CoreId) : Nat :=
  s.seatedGranules c +
    ((s.core c).bins.map fun b =>
      match s.grids.find? fun x => x.key == b.grid with
      | none => 0
      | some x => launchGranules x.lrec.width ((x.lrec.roles[b.role]?.map (·.cap)).getD 0) (launchCount b)).sum

/-- The declared scratchpad size of a team on a Vent core (R115). -/
def State.scratchOf (s : State) (t : Team) : Nat :=
  ((s.grids.find? fun x => x.key == t.grid).map (·.lrec.scratch)).getD 0

/-- Granules of the scratchpad allotments on a core; on a service core the spec counts none (R319). -/
def State.scratchGranules (s : State) (c : CoreId) : Nat :=
  (s.teams.map fun t => if t.core = c ∧ !t.swapped then granules (s.scratchOf t) else 0).sum

/-- Granules of a core's banks in use, 48 of each (R115). -/
def CoreState.bankGranules (c : CoreState) : Nat := 48 * (64 - bitCount 64 c.gated.toNat)

/-- Granules of the continuation store and of the least L1 (R115, R220). -/
def contGranules : Nat := 512
def l1Floor : Nat := 256

/-- Granules of a Vent core's store that are not the register allotments. -/
def State.otherGranules (s : State) (c : CoreId) : Nat := contGranules + l1Floor + s.scratchGranules c

/-- Whether what a Vent core's store holds, with what is kept for launch records, fits it (R115, R116). -/
def State.granulesFit (s : State) (c : CoreId) : Bool := decide (s.otherGranules c + s.regGranules c ≤ (s.core c).bankGranules)

/-- Granules that a Vent core can still allot; on a service core the spec sets no such limit (R319). -/
def State.freeGranules (s : State) (c : CoreId) : Nat := (s.core c).bankGranules - (s.otherGranules c + s.regGranules c)

/-- The L1 keeps at most what fits the granules that no other region holds, two sectors a granule; the sectors filled last
stay (R115, R154). -/
def State.trimL1 (s : State) (c : CoreId) : State :=
  let n := 2 * (s.freeGranules c + l1Floor)
  s.setCore c fun x => { x with l1 := x.l1.take n }

/-- The Vent at whose slices a core's accesses are performed: its own, or the one that holds the line pinned (R148); a
core on Caldera uses the line's home. -/
def State.ventFor (s : State) (c : CoreId) (line : Nat) : Nat :=
  match c with
  | .vent v _ _ => if s.l2.any fun l => l.line == line && l.pinned.isSome then s.homeVent line else v
  | .service _ => s.homeVent line

/-- The Vent whose L2 fills a core's L1: its own, since leases never cross a die boundary (R155). -/
def State.fillVent (s : State) (c : CoreId) (line : Nat) : Nat :=
  match c with
  | .vent v _ _ => v
  | .service _ => s.homeVent line

/-- The die at which a fill of a line finds its bytes: an owner, the Vent that pins it, or the line's Spring. -/
def State.sourceDies (s : State) (line : Nat) : List DieId :=
  match s.l2.find? fun l => l.line == line && (l.owned || l.pinned.isSome) with
  | some l => [.vent l.vent]
  | none => if isDeviceLine line then [.spring (s.ilvSpring (ilvIndex line))] else []

/-- Whether a Vent's L2 holds the sectors that `n` bytes at `key` touch. -/
def State.holdsSectors (s : State) (vent key n : Nat) : Bool :=
  ((s.l2? vent (lineOf key)).map fun l => l.valid &&& sectorMask key n == sectorMask key n).getD false

/-- The dies beyond a Vent's slice that an access of `n` bytes at `key` needs there: those at which a fill finds its bytes. -/
def State.fillDies (s : State) (vent key n : Nat) : List DieId :=
  if s.holdsSectors vent key n then [] else .caldera :: s.sourceDies (lineOf key)

/-- The dies that an access of `n` bytes at `key` needs which Caldera carries to the line's home. -/
def State.homeDies (s : State) (key n : Nat) : List DieId :=
  let home := s.homeVent (lineOf key)
  .caldera :: .vent home :: s.fillDies home key n

/-- The dies that a core's access of `n` bytes at `key` needs, beyond its own Vent's slice: those that a fill or a request
for ownership reaches, or, `far`, the line's home and what that needs (R148, R156, R157). -/
def State.linePath (s : State) (c : CoreId) (key n : Nat) (far : Bool) : List DieId :=
  let own := dieOf c
  let line := lineOf key
  if far ∨ isCaldera own ∨ s.ventFor c line ≠ s.fillVent c line then
    if own == .vent (s.homeVent line) then
      (if s.holdsSectors (s.homeVent line) key n then [] else own :: s.fillDies (s.homeVent line) key n)
    else own :: s.homeDies key n
  else if s.holdsSectors (s.fillVent c line) key n then []
  else own :: s.fillDies (s.fillVent c line) key n

/-- The dies that a read of `n` bytes at `key` needs, as an instruction fetch or a page walk makes it: for a core on a Vent as
its accesses do; for the command processor and the service cores, on Caldera, those that the line's home needs. -/
def State.readDies (s : State) (c : CoreId) (key n : Nat) : List DieId :=
  match c with
  | .vent v _ _ => if v < 8 then s.linePath c key n false else s.homeDies key n
  | .service _ => s.homeDies key n

/-- The Vent at whose slice such a read arrives. -/
def State.readVent (s : State) (c : CoreId) (line : Nat) : Nat :=
  match c with
  | .vent v _ _ => if v < 8 then s.ventFor c line else s.homeVent line
  | .service _ => s.homeVent line

/-- Whether a way of a Vent's slice in which a line stands is waking: the accesses wait in its retry queue (R160). -/
def State.sliceWaking (s : State) (vent line : Nat) : Bool :=
  s.gatedWays.any fun w => w.1 == vent && w.2.1 == s.sliceOf line && w.2.2.2 == 2

/-- Fill an L1 sector from the core's own Vent (R155): the L1's time rises to the write stamp, the lease runs 64
ticks from there, and the slice raises its read stamp. The L1 keeps what fits it (R154). -/
def State.fillL1 (s : State) (c : CoreId) (key : Nat) : State :=
  let vent := s.fillVent c (lineOf key)
  let sector := key / 128
  let s1 := s.fillShared vent (lineOf key) (sectorMask (128 * sector) 128)
  let w := ((s1.l2? vent (lineOf key)).map (·.wstamp)).getD (s.newStamp vent (lineOf key))
  let t := max (s.l1Now c) w
  let data := (List.range 128).foldl
    (fun m i => sput 0 m (128 * sector + i) (s1.readByte (128 * sector + i))) []
  let slice := 32 * vent + s.sliceOf (lineOf key)
  let s2 := s1.setL2 vent (lineOf key) fun l => { l with rstamp := max l.rstamp (t + 64) }
  (({ s2 with maxLease := sput 0 s2.maxLease slice (max (sget 0 s2.maxLease slice) (t + 64)) }).setCore c fun x =>
    { x.dropSector sector with
        l1time := t
        ticks := s.cyclesOf c / 16
        l1 := ⟨sector, data, t + 64, s.serialAt (128 * sector)⟩ :: (x.dropSector sector).l1 }).trimL1 c

/-- End every lease of a core's L1 (R186). -/
def State.endLeases (s : State) (c : CoreId) : State := s.setCore c fun x => { x with l1 := [] }

/-! ## Narrow marks (R187) -/

def State.narrow? (s : State) (line : Nat) : Option NarrowMark := s.narrow.find? fun m => m.line == line

def State.setNarrow (s : State) (line : Nat) (c : CoreId) : State :=
  { s with narrow := ⟨line, c, none⟩ :: s.narrow.filter fun m => m.line != line }

def State.clearNarrow (s : State) (line : Nat) : State :=
  { s with narrow := s.narrow.filter fun m => m.line != line }

end Sys2Proof.Machine
end

