-- ==== Sys2Proof/Machine/Translate.lean ====
section
/-! DEFINITION. Translation: the four-level walk, the cores' translation caches, the ranges check, and the fetch
of instruction words (R42, R161 to R164, R173, R317, R322). -/

namespace Sys2Proof.Machine

/-- The party that an access is made for: its core, partition and context. Service cores address device physical
memory directly (log 13). -/
structure Who where
  core : CoreId
  part : Nat
  ctx  : Nat
  deriving DecidableEq, Repr

/-- How a walk ends (R162): a leaf entry with the bits of its page, TRANSLATION, a table in a lost line or behind a
lost host link (cause), or a wait: for a host link that is down (R330), for a slice that wakes (R160), or for the links of the
dies named, of which the sleeping ones are to wake (R25). -/
inductive Walk where
  | leaf (e lo : Nat)
  | translation
  | lost (cause : Nat)
  | wait (dies : List DieId)
  deriving DecidableEq, Repr

/-- How the translation of an access ends. -/
inductive Xl where
  | ok (key : Nat)
  | translation
  | permission
  | lost (cause : Nat)
  | wait (dies : List DieId)
  deriving DecidableEq, Repr

/-- A host port bound to partition `p` (R162, R322, R326). -/
def State.hostPortOk (s : State) (p port : Nat) : Bool :=
  match s.port? port with
  | some x => !x.peer && x.bound == p
  | none => false

/-- Whether a host whose link is down holds a device line modified (R331). -/
def State.hostAway (s : State) (line : Nat) : Bool := s.ports.any fun p => p.failedAt.isSome && p.held.contains (line, true)

/-- What an access over a host port meets while the port's link is down (R330): it waits, or after the discard it
faults with HOST_LINE_LOST. An access to a device line that the host holds modified waits too (R331), and one that has to ask the
host while no tag is left (R327). -/
def State.portBlock (s : State) (key : Nat) : Option Xl :=
  match portOfKey key with
  | none => if s.hostAway (lineOf key) then some (.wait []) else none
  | some n =>
    match s.port? n with
    | none => none
    | some x =>
      if x.lost then some (.lost 0x13)
      else if x.failedAt.isSome ∨ (s.tagless key ∧ !s.l2.any fun l => l.line == lineOf key && l.valid != 0) then some (.wait [])
      else none

/-- What keeps an instruction fetch, a page walk or the command processor from reading `n` bytes at `key`: the host link, a
slice that wakes (R160), or links that carry no traffic (R25, R27). -/
def State.readBar (s : State) (c : CoreId) (key n : Nat) : Option Xl :=
  match s.portBlock key with
  | some x => some x
  | none =>
    if s.sliceWaking (s.readVent c (lineOf key)) (lineOf key) then some (.wait [])
    else if (s.readDies c key n).all s.linkFlows then none
    else some (.wait (s.readDies c key n))

/-- The levels of R161: lowest index bit, index bits, alignment of the next table. -/
def walkLevels : List (Nat × Nat × Nat) :=
  [(43, 14, 2 ^ 16), (30, 13, 2 ^ 12), (21, 9, 2 ^ 8), (16, 5, 1)]

/-- ADDR of an entry: bits [51:8] in place (R161). -/
def entryAddr (e : Nat) : Nat := e / 2 ^ 8 % 2 ^ 44 * 2 ^ 8

/-- The checks of R162 that every entry meets: V, the reserved fields, MT and PORT. -/
def State.entryOk (s : State) (p e : Nat) : Bool :=
  bitsOf e 0 0 == 1 && bitsOf e 63 60 == 0 && bitsOf e 57 55 == 0 && bitsOf e 7 5 == 0 &&
    (if bitsOf e 59 58 = 0 then bitsOf e 54 52 == 0
     else bitsOf e 59 58 == 1 && s.hostPortOk p (bitsOf e 54 52))

/-- The key of address `a` under MT and PORT. -/
def mtKey (mt port a : Nat) : Nat := if mt = 0 then a else hostKey port a

/-- A walk for core `c` from the table at `base` (R162). -/
def State.walkFrom (s : State) (c : CoreId) (p va : Nat) : Bool → Nat → Nat → Nat → List (Nat × Nat × Nat) → Walk
  | _, _, _, _, [] => .translation
  | top, mt, port, base, (lo, n, align) :: rest =>
    let a := base + 8 * (va / 2 ^ lo % 2 ^ n)
    let key := mtKey mt port a
    if mt = 0 ∧ !s.inReach p a 8 then .translation
    else
      match s.readBar c key 8 with
      | some (.lost x) => .lost x
      | some (.wait ds) => .wait ds
      | some _ => .wait []
      | none =>
        match s.lostAt key 8 with
        | some x => .lost x
        | none =>
          let e := s.readNat key 8
          if !s.entryOk p e then .translation
          else if bitsOf e 1 1 = 1 then
            if top ∨ entryAddr e % 2 ^ lo ≠ 0 then .translation else .leaf e lo
          else if rest.isEmpty ∨ entryAddr e % align ≠ 0 then .translation
          else s.walkFrom c p va false (bitsOf e 59 58) (bitsOf e 54 52) (entryAddr e) rest

/-- The places of the entries that a walk reads from the table at `base`. -/
def State.walkKeys (s : State) (va : Nat) : Nat → Nat → Nat → List (Nat × Nat × Nat) → List Nat
  | _, _, _, [] => []
  | mt, port, base, (lo, n, _) :: rest =>
    let key := mtKey mt port (base + 8 * (va / 2 ^ lo % 2 ^ n))
    let e := s.readNat key 8
    key :: if bitsOf e 1 0 = 1 then s.walkKeys va (bitsOf e 59 58) (bitsOf e 54 52) (entryAddr e) rest else []

/-- A partition's supervisor register values. -/
def Part.ctxpOf (x : Part) (c : Nat) : Nat := (sget (0 : W64) x.ctxp c).toNat
def Part.ctxrOf (x : Part) (c : Nat) : Nat := (sget (0 : W64) x.ctxr c).toNat

/-- The same registers as walks see them (R322). -/
def Part.walkpOf (x : Part) (c : Nat) : Nat := (sget (0 : W64) x.walkp c).toNat
def Part.walkrOf (x : Part) (c : Nat) : Nat := (sget (0 : W64) x.walkr c).toNat

/-- A core's walk of a context's table for a virtual address (R161, R322). -/
def State.walk (s : State) (c : CoreId) (part ctx va : Nat) : Walk :=
  match s.part? part with
  | none => .translation
  | some x =>
    let r := x.walkrOf ctx
    if bitsOf (x.walkpOf ctx) 31 31 = 0 ∨ 2 ^ 57 ≤ va then .translation
    else if bitsOf r 59 58 = 1 ∧ !s.hostPortOk part (bitsOf r 54 52) then .translation
    else s.walkFrom c part va true (bitsOf r 59 58) (bitsOf r 54 52) (bitsOf r 51 17 * 2 ^ 17) walkLevels

/-- The dies whose flits bring a walk what it reads (R24). -/
def State.walkDies (s : State) (c : CoreId) (part ctx va : Nat) : List DieId :=
  match s.part? part with
  | none => []
  | some x =>
    let r := x.walkrOf ctx
    (s.walkKeys va (bitsOf r 59 58) (bitsOf r 54 52) (bitsOf r 51 17 * 2 ^ 17) walkLevels).flatMap fun k => s.readDies c k 8

/-- The translation-cache entry of a core that covers an address (R163). -/
def State.tlb? (s : State) (w : Who) (va : Nat) : Option Tlb :=
  (s.core w.core).tlb.find? fun t => t.part == w.part && t.ctx == w.ctx && t.base == va / 2 ^ t.bits * 2 ^ t.bits

/-- A cached entry, or else a walk. -/
def State.lookup (s : State) (w : Who) (va : Nat) : Walk :=
  match s.tlb? w va with
  | some t => .leaf t.leaf.toNat t.bits
  | none => s.walk w.core w.part w.ctx va

/-- The permissions an access needs, as the leaf's bits P, W and X (R161, R162). -/
inductive Need where
  | read | write | atomic | exec
  deriving DecidableEq, Repr

def Need.allowed (n : Need) (e : Nat) : Bool :=
  match n with
  | .read => bitsOf e 2 2 == 1
  | .write => bitsOf e 3 3 == 1
  | .atomic => bitsOf e 2 2 == 1 && bitsOf e 3 3 == 1
  | .exec => bitsOf e 4 4 == 1

/-- The memory key that an address names, whatever its page permits. -/
def State.namedKey (s : State) (w : Who) (va : Nat) : Option Nat :=
  match w.core with
  | .service _ => if 2 ^ 57 ≤ va then none else some va
  | .vent _ _ _ =>
    if 2 ^ 57 ≤ va then none
    else
      match s.lookup w va with
      | .leaf e lo => some (mtKey (bitsOf e 59 58) (bitsOf e 54 52) (entryAddr e / 2 ^ lo * 2 ^ lo + va % 2 ^ lo))
      | _ => none

/-- The translation of an access of `n` bytes at `va` (R161, R162, R317). The bytes lie in one page. The registers of the
configuration window may be named by every access but a fetch; writes to them are ignored (R6, R14). -/
def State.xlate (s : State) (w : Who) (va n : Nat) (need : Need) : Xl :=
  match w.core with
  | .service _ =>
    if 2 ^ 57 ≤ va then .translation
    else if inWindow va then (if need = .exec then .permission else .ok va)
    else if s.inReach w.part va n then .ok va
    else if w.part = 127 then .lost 0x11
    else .permission
  | .vent _ _ _ =>
    if 2 ^ 57 ≤ va then .translation
    else
      match s.lookup w va with
      | .translation => .translation
      | .lost c => .lost c
      | .wait ds => .wait ds
      | .leaf e lo =>
        let pa := entryAddr e / 2 ^ lo * 2 ^ lo + va % 2 ^ lo
        let key := mtKey (bitsOf e 59 58) (bitsOf e 54 52) pa
        if !need.allowed e then .permission
        else if bitsOf e 59 58 = 0 ∧ !s.inReach w.part pa n then .permission
        else .ok key

/-- Keep the entry of a page in a core's translation cache, at most 512 of them (R163); the flits that brought the walk its
entries have raised the registers of the dies on their way (R24), DEDUCED (log 115). Which entry gives way the spec does not say: the one learned
earliest, DESIGN CHOICE (log 86). -/
def State.learn (s : State) (w : Who) (va : Nat) : State :=
  match w.core with
  | .service _ => s
  | .vent _ _ _ =>
    if (s.tlb? w va).isSome then s
    else
      match s.walk w.core w.part w.ctx va with
      | .leaf e lo =>
        (s.causal (s.walkDies w.core w.part w.ctx va)).setCore w.core fun c =>
          { c with tlb := (⟨w.part, w.ctx, va / 2 ^ lo * 2 ^ lo, lo, BitVec.ofNat 64 e⟩ :: c.tlb).take 512 }
      | _ => s

/-- Why an instruction word cannot be fetched (R42): TRANSLATION or PERMISSION, a lost line, or a wait, in which the links of
the dies named are to carry traffic (R25). -/
inductive Fetch where
  | word (w : W32)
  | fault (cause : Nat)
  | lost (cause : Nat)
  | wait (dies : List DieId)
  deriving DecidableEq, Repr

/-- Fetch one word for issue: from the core's instruction cache where it holds the word, and else from memory
(R37, R42, R173). -/
def State.fetchWord (s : State) (w : Who) (a : W64) : Fetch :=
  match s.xlate w a.toNat 4 .exec with
  | .translation => .fault 0x09
  | .permission => .fault 0x0A
  | .lost c => .lost c
  | .wait ds => .wait ds
  | .ok key =>
    match (s.core w.core).icache.find? fun e => e.1 == key with
    | some e => .word e.2
    | none =>
      match s.readBar w.core key 4 with
      | some (.lost c) => .lost c
      | some (.wait ds) => .wait ds
      | some _ => .wait []
      | none =>
        match s.lostAt key 4 with
        | some c => .lost c
        | none => .word (wordOfBytes ((s.seenBy w.part).readBytes key 4))

/-- The dies whose flits bring a core the word at `a`: none for a word in its instruction cache (R24). -/
def State.fetchDies (s : State) (w : Who) (a : W64) : List DieId :=
  match s.xlate w a.toNat 4 .exec with
  | .ok key => if (s.core w.core).icache.any fun e => e.1 == key then [] else s.readDies w.core key 4
  | _ => []

/-- Keep a fetched word in the instruction cache (R173). -/
def State.cacheWord (s : State) (w : Who) (a : W64) (x : W32) : State :=
  match s.xlate w a.toNat 4 .exec with
  | .ok key =>
    if (s.core w.core).icache.any fun e => e.1 == key then s
    else s.setCore w.core fun c => { c with icache := (key, x) :: c.icache }
  | _ => s

end Sys2Proof.Machine
end

