-- ==== Sys2Proof/Machine/Ops.lean ====
section
/-! DEFINITION. The shared operations: groups, lanes and registers; counters; the frontier and the end of a
clause; taking an exception (parking, team termination) and the return from one (RESUME, KILL) (R39, R43, R44,
R88 to R92, R111, R120, R215, R320, R333, R338 to R349). -/

namespace Sys2Proof.Machine

/-! ## Cause codes (R338) -/

def Cause.illegalInstruction : Nat := 0x01
def Cause.illegalClause : Nat := 0x02
def Cause.illegalState : Nat := 0x03
def Cause.formatDivergence : Nat := 0x04
def Cause.frontierFull : Nat := 0x05
def Cause.retUnderflow : Nat := 0x06
def Cause.stackLimit : Nat := 0x07
def Cause.misaligned : Nat := 0x08
def Cause.translation : Nat := 0x09
def Cause.permission : Nat := 0x0A
def Cause.mixedSize : Nat := 0x0B
def Cause.contFull : Nat := 0x0C
def Cause.spawnDepth : Nat := 0x0D
def Cause.software : Nat := 0x0E
def Cause.privilege : Nat := 0x0F
def Cause.copyFault : Nat := 0x10
def Cause.uncorrectable : Nat := 0x11
def Cause.dieLost : Nat := 0x12
def Cause.hostLineLost : Nat := 0x13
def Cause.coherencePoison : Nat := 0x14
def Cause.killed : Nat := 0x15
def Cause.regroupDataLost : Nat := 0x16

/-! ## Masks -/

/-- The number whose bit k, for k below n, is `f k`. -/
def maskN : Nat → (Nat → Bool) → Nat
  | 0, _ => 0
  | n + 1, f => maskN n f + (if f n then 2 ^ n else 0)

/-- The mask of the lanes that `f` accepts. -/
def maskOf (f : Nat → Bool) : Mask := BitVec.ofNat 64 (maskN 64 f)

/-- The lanes of a mask, ascending. -/
def lanesOf (m : Mask) : List Nat := (List.range 64).filter fun i => m.getLsbD i

/-! ## Threads and registers (R111, R120, R127) -/

def Thread.get (t : Thread) (r : Nat) : W32 := sget 0 t.v r

/-- A write of a register, which also replaces a word that held an uncorrectable error (R119, log 21). -/
def Thread.put (t : Thread) (r : Nat) (x : W32) : Thread :=
  { t with v := sput 0 t.v r x, bad := t.bad.filter (· != r) }

/-- Only the registers below `n` are kept; the others read 0 (R106, R227). -/
def Thread.keep (t : Thread) (n : Nat) : Thread :=
  { t with v := t.v.filter fun e => decide (e.1 < n), bad := t.bad.filter fun r => decide (r < n) }

def Thread.get64 (t : Thread) (r : Nat) : W64 := pairOf (t.get r) (t.get (r + 1))
def Thread.put64 (t : Thread) (r : Nat) (x : W64) : Thread := (t.put r (lowHalf x)).put (r + 1) (highHalf x)

/-- Predicate k of a thread; p7 reads as true (R111). -/
def Thread.pred (t : Thread) (k : BitVec 3) : Bool := k == 7 || t.p.getLsbD k.toNat

def Thread.setPred (t : Thread) (k : BitVec 3) (x : Bool) : Thread :=
  if k = 7 then t
  else { t with p := if x then t.p ||| (1 <<< k.toNat) else t.p &&& ~~~(1 <<< k.toNat : BitVec 7) }

def Group.thread? (g : Group) (i : Nat) : Option Thread := (g.lanes[i]?).join

/-- The live mask of a group (R84). -/
def Group.live (g : Group) : Mask := maskOf fun i => (g.thread? i).isSome

/-- Change the threads of the lanes in `A`. -/
def Group.onLanes (g : Group) (A : Mask) (f : Nat → Thread → Thread) : Group :=
  { g with lanes := g.lanes.mapIdx fun i o => if A.getLsbD i then o.map (f i) else o }

/-- A uniform register; s62 reads 0 (R111). -/
def Group.sGet (g : Group) (r : Nat) : W32 := if r < 62 then sget 0 g.s r else 0

/-- Write a uniform register; a write to s62 is discarded (R47, R111). -/
def Group.sPut (g : Group) (r : Nat) (x : W32) : Group :=
  if r < 62 then { g with s := sput 0 g.s r x } else g

def Group.sGet64 (g : Group) (r : Nat) : W64 := if r < 62 then pairOf (g.sGet r) (g.sGet (r + 1)) else 0

def Group.sPut64 (g : Group) (r : Nat) (x : W64) : Group :=
  if r < 62 then (g.sPut r (lowHalf x)).sPut (r + 1) (highHalf x) else g

/-! ## Looking things up -/

def State.group? (s : State) (k : Nat) : Option Group := s.groups.find? fun g => g.key == k

/-- Write a group back. -/
def State.setGroup (s : State) (g : Group) : State :=
  { s with groups := s.groups.map fun h => if h.key == g.key then g else h }

def State.onGroup (s : State) (k : Nat) (f : Group → Group) : State :=
  { s with groups := s.groups.map fun h => if h.key == k then f h else h }

def State.team? (s : State) (k : Nat) : Option Team := s.teams.find? fun t => t.key == k

def State.onTeam (s : State) (k : Nat) (f : Team → Team) : State :=
  { s with teams := s.teams.map fun t => if t.key == k then f t else t }

def State.grid? (s : State) (k : Nat) : Option Grid := s.grids.find? fun g => g.key == k

def State.onGrid (s : State) (k : Nat) (f : Grid → Grid) : State :=
  { s with grids := s.grids.map fun g => if g.key == k then f g else g }

def State.onPart (s : State) (p : Nat) (f : Part → Part) : State :=
  { s with parts := s.parts.map fun x => if x.num == p then f x else x }

/-- The group whose word issues. -/
def State.issuing? (s : State) : Option Group :=
  match s.issueQ with
  | [] => none
  | k :: _ => s.group? k

/-- The word at the head of the issue queue has been dealt with. -/
def State.popIssue (s : State) : State := { s with issueQ := s.issueQ.tail }

def isService (c : CoreId) : Bool :=
  match c with
  | .service _ => true
  | .vent _ _ _ => false

/-- The party that a group's accesses are made for. -/
def State.whoOf (s : State) (g : Group) : Who :=
  match g.core with
  | .service k => ⟨g.core, k, 0⟩
  | .vent _ _ _ =>
    match s.grid? g.grid with
    | some x => ⟨g.core, x.part, x.ctx⟩
    | none => ⟨g.core, 0, 0⟩

/-- The party that a team's commands act for on a core. -/
def State.whoTeam (s : State) (core : CoreId) (team : Nat) : Who :=
  match core with
  | .service k => ⟨core, k, 0⟩
  | .vent _ _ _ =>
    match (s.team? team).bind fun t => s.grid? t.grid with
    | some x => ⟨core, x.part, x.ctx⟩
    | none => ⟨core, 0, 0⟩

/-- The code base of a group (R95, R319). -/
def State.cbOf (s : State) (g : Group) : W64 :=
  match g.core with
  | .service k => ((s.part? k).map (·.cb)).getD 0
  | .vent _ _ _ => ((s.grid? g.grid).map (·.lrec.cb)).getD 0

/-- The code offset of an address (R95). -/
def State.offsetOf (s : State) (g : Group) (a : W64) : W32 := (a - s.cbOf g).setWidth 32

/-- The declared scratchpad size of a team (R115), 128 KiB on a service core (R319). -/
def State.scratchSize (s : State) (team : Nat) : Nat :=
  match s.team? team with
  | none => 0
  | some t => if isService t.core then 2 ^ 17 else ((s.grid? t.grid).map (·.lrec.scratch)).getD 0

/-- Die and cluster position of a team (R81). -/
def Grid.posOf (x : Grid) (num : Nat) : Nat × Nat := (num / (x.lrec.cl * x.lrec.t), num / x.lrec.t % x.lrec.cl)

/-! ## The issuing entry, active positions and counters (R39, R46, R89) -/

/-- The entry whose clause the group is inside. -/
def Group.entry? (g : Group) : Option Entry := g.clause.bind fun c => g.frontier.find? fun e => e.addr == c.hdr

/-- The mask of the issuing entry. -/
def Group.entryMask (g : Group) : Mask := (g.entry?.map (·.mask)).getD 0

/-- The predicate prefix's value in a thread (R46). -/
def predHolds (p : Pred) (t : Thread) : Bool := t.pred p.reg != p.inv

/-- The active positions of a word (R46). -/
def Group.active (g : Group) (p : Pred) : Mask :=
  maskOf fun i => g.entryMask.getLsbD i && ((g.thread? i).map (predHolds p)).getD false

/-- Fully converged (R94). -/
def Group.converged (g : Group) : Bool :=
  match g.frontier with
  | [e] => e.mask == g.live
  | _ => false

def Counters.get (c : Counters) : Ctr → Nat
  | .ld => c.ld
  | .st => c.st
  | .cp => c.cp
  | .tl => c.tl

def Counters.set (c : Counters) (k : Ctr) (n : Nat) : Counters :=
  match k with
  | .ld => { c with ld := n }
  | .st => { c with st := n }
  | .cp => { c with cp := n }
  | .tl => { c with tl := n }

def Counters.zero : Counters := ⟨0, 0, 0, 0⟩

def Counters.allZero (c : Counters) : Bool := c.ld == 0 && c.st == 0 && c.cp == 0 && c.tl == 0

def Group.raise (g : Group) (k : Ctr) : Group := { g with cnt := g.cnt.set k (g.cnt.get k + 1) }

/-- Lower a counter of the group that issued an operation, or its tracker entry's count (R39, R100). -/
def State.lower (s : State) (group : Nat) (k : Ctr) : State :=
  { s with
      groups := s.groups.map fun g =>
        if g.key == group then { g with cnt := g.cnt.set k (g.cnt.get k - 1) } else g
      trackers := (s.trackers.map fun t => if t.group == group then { t with count := t.count - 1 } else t).filter
        fun t => t.count != 0 }

/-- An operation completes or faults: it leaves and its counter falls (R39). -/
def State.retireOp (s : State) (o : Op) : State :=
  ({ s with ops := s.ops.filter fun x => x.id != o.id }).lower o.group o.ctr

/-- The lanes `A` of a group make an acquire: what has been performed by now counts as ordered before their later operations on
a path (R152). DESIGN CHOICE (log 82). -/
def State.acquiredOn (s : State) (path : Path) (group : Nat) (A : Mask) : State :=
  { s with acquires := ⟨group, A, path, s.nextOp, s.past.length⟩ :: s.acquires }

/-- The same for their LSU accesses, which alone an acquire of R177 orders. -/
def State.acquiredBy (s : State) (group : Nat) (A : Mask) : State := s.acquiredOn .lsu group A

/-- Whether any operation of a group that `p` accepts is outstanding. -/
def State.pendingOp (s : State) (group : Nat) (p : Op → Bool) : Bool := s.ops.any fun o => o.group == group && p o

/-! ## Barriers (R212, R215) -/

/-- A thread leaves a barrier instance. -/
def Barrier.leave (b : Barrier) (last : Option W16) : Barrier :=
  let m := b.m - 1
  let n := if last = some b.gen then b.n - 1 else b.n
  if 0 < m ∧ m ≤ n then ⟨b.gen + 1, 0, m⟩ else ⟨b.gen, n, m⟩

def Arrivals.get (a : Arrivals) : Level → Option W16
  | .team => a.team
  | .cluster => a.cluster
  | .die => a.die
  | .grid => a.grid

def Arrivals.set (a : Arrivals) (l : Level) (g : W16) : Arrivals :=
  match l with
  | .team => { a with team := some g }
  | .cluster => { a with cluster := some g }
  | .die => { a with die := some g }
  | .grid => { a with grid := some g }

/-- Whether a grid's barrier instance is the one of a team at a level. -/
def GridBarrier.isOf (b : GridBarrier) (x : Grid) (num : Nat) (l : Level) : Bool :=
  b.level == l &&
    (match l with
     | .team => false
     | .cluster => b.die == (x.posOf num).1 && b.cluster == (x.posOf num).2
     | .die => b.die == (x.posOf num).1
     | .grid => true)

/-- The barrier instance of a team's threads at a level. -/
def State.barrier? (s : State) (team : Nat) (l : Level) : Option Barrier :=
  match s.team? team with
  | none => none
  | some t =>
    match l with
    | .team => some t.barrier
    | _ => (s.grid? t.grid).bind fun x => (x.barriers.find? fun b => b.isOf x t.num l).map (·.b)

def State.onBarrier (s : State) (team : Nat) (l : Level) (f : Barrier → Barrier) : State :=
  match s.team? team with
  | none => s
  | some t =>
    match l with
    | .team => s.onTeam team fun t => { t with barrier := f t.barrier }
    | _ => s.onGrid t.grid fun x =>
        { x with barriers := x.barriers.map fun b => if b.isOf x t.num l then { b with b := f b.b } else b }

/-! ### Halted contexts (R310, R311, R313) -/

/-- Whether a group is of the context that a pre-emption acts on, on its cores. -/
def State.preempts? (s : State) (x : Preempt) (g : Group) : Bool :=
  !(isService g.core) && x.req.part == (s.whoOf g).part && x.req.ctx == (s.whoOf g).ctx && x.req.cores.contains g.core

/-- Stage 2 has ended: every group of the context there has halted or is parked, with nothing outstanding, and every
tracker entry has drained (R310). -/
def State.stageTwoDone (s : State) (x : Preempt) : Bool :=
  let mine (team : Nat) : Bool :=
    match (s.team? team).bind fun t => s.grid? t.grid with
    | none => false
    | some y => y.part == x.req.part && y.ctx == x.req.ctx
  decide (2 ≤ x.stage) &&
    (s.groups.all fun g =>
      !s.preempts? x g ||
        (!g.ended && g.cnt.allZero && ((g.run == .halted && g.halt.isNone) || g.run == .parked))) &&
    s.trackers.all fun t => !(x.req.cores.contains t.core && mine t.team)

/-- The pre-emption that holds a group's context halted, if one does: from the end of stage 2 until swap-in (R311, R313). -/
def State.heldBy (s : State) (g : Group) : Option Preempt :=
  s.preempts.find? fun x => s.preempts? x g && (x.saved.isSome || s.stageTwoDone x)

/-- The same for the team's context on the team's core. -/
def State.heldTeam (s : State) (t : Team) : Option Preempt :=
  s.preempts.find? fun x =>
    x.req.cores.contains t.core && !(isService t.core) &&
      ((s.grid? t.grid).map fun y => x.req.part == y.part && x.req.ctx == y.ctx).getD false &&
      (x.saved.isSome || s.stageTwoDone x)

/-- Record an event with a pre-emption: it is delivered on swap-in (R313). -/
def State.recordEvent (s : State) (n : Nat) (e : PendingEvent) : State :=
  { s with preempts := s.preempts.map fun y => if y.n == n then { y with events := y.events ++ [e] } else y }

/-- A barrier instance of a team at a level changes. Where a phase completes that teams of halted contexts share, the
completion is an event for them (R313). -/
def State.moveBarrier (s : State) (team : Nat) (l : Level) (f : Barrier → Barrier) : State :=
  let s1 := s.onBarrier team l f
  match s1.team? team with
  | none => s1
  | some t =>
    if l = .team ∨ (s1.barrier? team l).map (·.gen) = (s.barrier? team l).map (·.gen) then s1
    else
      match s1.grid? t.grid with
      | none => s1
      | some x =>
        let held := (s1.teams.filter fun u => u.grid == t.grid && ((x.barriers.find? fun b => b.isOf x t.num l).map fun b =>
          b.isOf x u.num l).getD false).filterMap fun u => (s1.heldTeam u).map (·.n)
        held.dedup.foldl (fun s n => s.recordEvent n (.phase t.grid l (x.posOf t.num).1 (x.posOf t.num).2)) s1

/-- A thread leaves every barrier instance of which it is a member (R215). -/
def State.leaveBarriers (s : State) (t : Thread) : State :=
  [Level.team, .cluster, .die, .grid].foldl (fun s l => s.moveBarrier t.team l fun b => b.leave (t.arr.get l)) s

/-! ## Seats (R85) -/

/-- The most positions of a row's slot: 8 rows on a Vent core, one on a service core (R85, R319). -/
def rowsOf (c : CoreId) : Nat := if isService c then 1 else 8

def State.seatTaken (s : State) (c : CoreId) (slot row pos w : Nat) : Bool :=
  s.groups.any fun g =>
    match g.seat with
    | none => false
    | some x => x.core == c && x.slot == slot && x.row == row && decide (x.pos < pos + w) &&
        decide (pos < x.pos + g.width)

/-- The lowest free segment of a slot (R85). -/
def State.freeIn (s : State) (c : CoreId) (slot w : Nat) : Option (Nat × Nat) :=
  ((List.range (rowsOf c)).flatMap fun row => (List.range (64 / w)).map fun k => (row, w * k)).find? fun x =>
    !s.seatTaken c slot x.1 x.2 w

/-- Occupied positions of a slot. -/
def State.occupied (s : State) (c : CoreId) (slot : Nat) : Nat :=
  (s.groups.map fun g =>
    match g.seat with
    | none => 0
    | some x => if x.core == c && x.slot == slot then g.width else 0).sum

/-- The lowest free group number of a core (R224). -/
def State.freeGid (s : State) (c : CoreId) : Option Nat :=
  (List.range 256).find? fun n =>
    !(s.groups.any fun g => match g.seat with | none => false | some x => x.core == c && x.gid == n)

/-- The seat that the former chooses (R85): the slot with the fewest occupied positions among those that have a
free segment, the lowest-numbered on a tie. -/
def State.seatFor (s : State) (c : CoreId) (w : Nat) : Option Seat :=
  let best := (List.range 4).foldl
    (fun (b : Option Nat) slot =>
      if (s.freeIn c slot w).isNone then b
      else
        match b with
        | none => some slot
        | some x => if s.occupied c slot < s.occupied c x then some slot else b) none
  match best, s.freeGid c with
  | some slot, some gid => (s.freeIn c slot w).map fun rp => ⟨c, gid, slot, rp.1, rp.2⟩
  | _, _ => none

/-! ## The frontier (R88, R90, R92) -/

/-- The distinct addresses that the lanes of `m` go to, each with its lanes. The spec gives no order in which their headers
are read (R90), and so none among the faults: the target of the lowest lane comes first, DESIGN CHOICE (log 90). -/
def targetsOf (m : Mask) (dest : Nat → Option W64) : List (W64 × Mask) :=
  (lanesOf m).foldl
    (fun l i =>
      match dest i with
      | none => l
      | some a => upsert (fun e => e.1 == a) (fun e => (e.1, e.2 ||| (1 <<< i : Mask))) (a, 0) l) []

/-- Insert an entry in ascending order of priority and then of address (R88). -/
def insertEntry (e : Entry) : List Entry → List Entry
  | [] => [e]
  | f :: l =>
    if e.prio < f.prio ∨ (e.prio = f.prio ∧ e.addr.toNat < f.addr.toNat) then e :: f :: l
    else f :: insertEntry e l

/-- What a rebuild of the frontier gives (R90). -/
inductive Rebuilt where
  | ok (f : List Entry)
  | fault (cause : Nat) (addr : W64) (lanes : Mask)
  | lost (cause : Nat)
  | wait (dies : List DieId)
  | full
  deriving DecidableEq, Repr

/-- Priority field of a header (R38). -/
def prioOf (h : W32) : Nat := h.toNat % 4096

/-- Bring the lanes of each target into the frontier. `keep` is the priority of a clause that ended without a
control word: a fault on the read then raises nothing (R90). A read that has to wait for a host link or for die links waits
(R25, R330). -/
def State.joinTargets (s : State) (w : Who) (keep : Option Nat) : List (W64 × Mask) → List Entry → Rebuilt
  | [], f => if 8 < f.length then .full else .ok f
  | (a, m) :: l, f =>
    if f.any fun e => e.addr == a then
      s.joinTargets w keep l (f.map fun e => if e.addr == a then { e with mask := e.mask ||| m } else e)
    else
      match s.fetchWord w a with
      | .word h => s.joinTargets w keep l (insertEntry ⟨prioOf h, a, m, 0⟩ f)
      | .wait ds => .wait ds
      | .fault c =>
        match keep with
        | some p => s.joinTargets w keep l (insertEntry ⟨p, a, m, 0⟩ f)
        | none => .fault c a m
      | .lost c =>
        match keep with
        | some p => s.joinTargets w keep l (insertEntry ⟨p, a, m, 0⟩ f)
        | none => .lost c

/-- Rebuild the frontier after entry `e`'s clause (R90): lane i of the entry goes to `dest i`, or nowhere. -/
def State.rebuild (s : State) (g : Group) (e : Entry) (keep : Option Nat) (dest : Nat → Option W64) : Rebuilt :=
  s.joinTargets (s.whoOf g) keep (targetsOf e.mask dest) (g.frontier.filter fun f => f.addr != e.addr)

/-- The address after the clause (R43). -/
def Clause.next (c : Clause) : W64 := c.hdr + BitVec.ofNat 64 (4 * (c.count + 1))

/-- Whether the kept word lies beyond the clause's last word: the clause has ended (R43). A count of 0 says that the clause
has not begun. -/
def Clause.isPast (c : Clause) : Bool := c.count != 0 && decide (4 * c.count < (c.kept - c.hdr).toNat)

/-- Of the words that were fetched and checked, the one `i` places after the kept word (R42, R43). -/
def Clause.word? (c : Clause) (i : Nat) : Option W32 := c.words[(c.kept - c.hdr).toNat / 4 - 1 + i]?

/-- A group that has taken a new frontier: its clause is over, promotions of entries that are gone lapse, and it
ends if no lane is left (R92, R100). -/
def Group.withFrontier (g : Group) (f : List Entry) : Group :=
  { g with
      frontier := f
      promo := g.promo.filter fun a => f.any fun e => e.addr == a
      clause := none
      ended := g.ended || f.isEmpty }

/-- One more word issued since a halt became pending (R105). -/
def Group.countWord (g : Group) : Group := { g with halt := g.halt.map (· + 1) }

/-- The clause `c` of a group has ended without a control word: the entry moves to next, with its own priority where the
header there cannot be read, or stands past its last word while that read has to wait (R43, R90); at its next turn the links
that the read needs are woken (R25). -/
def State.fallThrough (s : State) (g : Group) (c : Clause) : State :=
  match g.entry? with
  | none => s.setGroup { g with clause := none }
  | some e =>
    match s.rebuild g e (some e.prio) fun _ => some c.next with
    | .ok f => s.setGroup (g.withFrontier f)
    | .wait _ => s.setGroup g
    | _ => s.setGroup { g with clause := none }

/-- The group goes on `n` words further; past the clause's last word the entry moves to next (R43, R90). -/
def State.advance (s : State) (g : Group) (n : Nat) : State :=
  match g.clause with
  | none => s.setGroup g
  | some c =>
    let c1 : Clause := { c with kept := c.kept + BitVec.ofNat 64 (4 * n) }
    let g1 : Group := { g.countWord with clause := some c1 }
    if c1.isPast then s.fallThrough g1 c1 else s.setGroup g1

/-! ## The record of a stop (R343) -/

/-- The lowest lane of a mask. -/
def lowLane (m : Mask) : Option Nat := (lanesOf m).head?

/-- `sr.team` of a lane. -/
def State.teamNum (s : State) (g : Group) (i : Nat) : Nat :=
  (((g.thread? i).bind fun t => s.team? t.team).map (·.num)).getD 0

/-- CORE and PLACE of a core (R343); 0 for a service core. -/
def placeOf (c : CoreId) : Nat × Nat :=
  match c with
  | .vent v cl k => (k, cl + 16 * v)
  | .service _ => (0, 0)

/-- The word that a record of kind `kind` gives as the kept word: the header where R42 raised a precise trap (R343). -/
def Clause.shownKept (c : Clause) (kind : Nat) : W64 := if kind = 2 ∧ c.words.isEmpty then c.hdr else c.kept

/-- The record of a parking, with `blocks` as given (R343). -/
def State.parkPost (s : State) (g : Group) (kind cause : Nat) (active fmask : Mask) (faddr : W64) (svc : W32)
    (blocks : List (Nat × List W32)) (parking : Nat) : Post :=
  { kind := kind
    cause := cause
    flags := if kind = 1 then 1 else 0
    state := 1
    active := active
    fmask := fmask
    faddr := faddr
    waddr := (g.clause.map fun c => s.offsetOf g (c.shownKept kind)).getD 0
    kaddr := (g.clause.map fun c => s.offsetOf g (c.shownKept kind)).getD 0
    hdr := (g.clause.map fun c => s.offsetOf g c.hdr).getD 0
    svc := svc
    team := BitVec.ofNat 32 (((lowLane active).map (s.teamNum g)).getD 0)
    ctx := (s.whoOf g).ctx
    core := (placeOf g.core).1
    place := (placeOf g.core).2
    grid := ((s.grid? g.grid).map (·.id)).getD 0
    blocks := blocks
    parking := some parking }

/-- Add a record to those due for a partition's ring. -/
def State.addPost (s : State) (p : Nat) (r : Post) : State := s.onPart p fun x => { x with posts := x.posts ++ [r] }

/-- The team that an ended group is tracked for (R100): that of its earliest outstanding operation. -/
def State.trackedTeam (s : State) (g : Group) : Nat := ((s.ops.find? fun o => o.group == g.key).map (·.team)).getD 0

/-! ## Service cores (R319, R320, R346) -/

/-- A service core halts: its groups, their operations and its pool go; the parkings, with the groups that they name, the
queues and the contexts of the partition stand (R346). Its scratchpad is reset. It starts again from its kernel image by
KERNEL_ENTRY. Its bulk copies that are outstanding go without an ABORTED record, as do those of a Vent that is declared dead: the
spec does not say whether they leave one, DESIGN CHOICE (log 113). -/
def State.haltService (s : State) (k : Nat) : State :=
  let mine := s.groups.filter fun g => g.core == .service k
  let gone := (mine.filter fun g => g.parking.isNone).map (·.key)
  { s with
      groups := s.groups.filter fun g => !gone.contains g.key
      ops := s.ops.filter fun o => !gone.contains o.group
      trackers := s.trackers.filter fun t => t.core != .service k
      lateFaults := s.lateFaults.filter fun f => !gone.contains f.group
      issueQ := s.issueQ.filter fun g => !gone.contains g
      teams := (s.teams.filter fun t => t.core != .service k || mine.length != gone.length).map fun t =>
        if t.core == .service k then { t with scratch := [], badSc := [] } else t
      cores := s.cores.filter fun c => c.id != .service k
      parts := s.parts.map fun x => if x.num == k then { x with halted := true } else x }

/-- A thread at launch (R68, R83). -/
def Thread.launched (tid team : Nat) (seed splim : W32) : Thread :=
  ⟨tid, team, [], 0, 0, seed, 0, splim, ⟨none, none, none, none⟩, 0, 0, false, []⟩

/-- A group of one entry holding all its live lanes (R84, R224). -/
def Group.formed (key grid role width cap : Nat) (core : CoreId) (seat : Option Seat) (prio : Nat) (addr : W64)
    (lanes : List (Option Thread)) (sup : Bool) : Group :=
  let g : Group :=
    { key := key, grid := grid, role := role, width := width, cap := cap, core := core, seat := seat
      frontier := [], promo := [], clause := none, run := .running, halt := none, lanes := lanes, s := []
      cnt := Counters.zero, latch := none, lastTurn := 0, supervisor := sup, sret := none, parking := none
      ended := false }
  { g with frontier := [⟨prio, addr, g.live, 0⟩] }

/-- A supervisor group of width 64 with one active lane on service core `k`, at `addr` (R319, R320). No launch record gives
its thread a seed (R68): it starts at 0, DESIGN CHOICE (log 91). -/
def State.enterSupervisor (s : State) (k : Nat) (addr : W64) : State :=
  let core := CoreId.service k
  let team := ((s.teams.find? fun t => t.core == core).map (·.key)).getD 0
  let prio := match s.fetchWord ⟨core, k, 0⟩ addr with | .word h => prioOf h | _ => 0
  let g := Group.formed s.nextKey 0 0 64 64 core (s.seatFor core 64) prio addr
    (some (Thread.launched 0 team 0 0) :: List.replicate 63 none) true
  { s with nextKey := s.nextKey + 1, groups := s.groups ++ [g] }

/-! ## Taking an exception -/

/-- Park a group (R339, R340, R346): it issues nothing more, its clause stays with the kept word, a recorded SRET
offset lapses (R335), and the record is due for the ring. -/
def State.parkGroup (s : State) (g : Group) (kind cause : Nat) (active fmask : Mask) (faddr : W64) (svc : W32)
    (trapReg : Nat) (blocks : List (Nat × List W32)) : State :=
  let key := s.nextKey
  let park : Parking := ⟨key, (s.whoOf g).part, g.key, kind, none, none, active, trapReg, none, [], false⟩
  let s1 := s.setGroup
    { g with
        run := .parked
        clause := g.clause.map fun c => { c with isOpen := false }
        sret := none
        parking := some key }
  ({ s1 with
      nextKey := key + 1
      parkings := s1.parkings ++ [park] }).addPost
    (s.whoOf g).part (s.parkPost g kind cause active fmask faddr svc blocks key)

/-- The entry into the supervisor that a user-state group of a service core causes (R320). -/
def State.superEntry (s : State) (k cause : Nat) : State :=
  let s1 := s.onPart k fun x => { x with scause := BitVec.ofNat 64 cause }
  s1.enterSupervisor k (((s1.part? k).map fun x => x.cb + x.svec).getD 0)

/-- TAKING A TRAP (R320, R338, R339, R346): on a Vent core the group parks; on a service core a user-state group
parks and a supervisor group starts; a supervisor-state group halts its service core. -/
def State.trapWith (s : State) (g : Group) (active : Mask) (cause : Nat) (fmask : Mask) (faddr : W64)
    (blocks : List (Nat × List W32)) : State :=
  match g.core with
  | .vent _ _ _ => s.parkGroup g 2 cause active fmask faddr 0 0 blocks
  | .service k =>
    if g.supervisor then s.haltService k
    else (s.parkGroup g 2 cause active fmask faddr 0 0 blocks).superEntry k cause

def State.trap (s : State) (g : Group) (active : Mask) (cause : Nat) (fmask : Mask) (faddr : W64) : State :=
  s.trapWith g active cause fmask faddr []

/-! ## Team termination and grid end (R348, R349) -/

/-- The ring slot of a record (R342). -/
def Part.slotAddr (x : Part) (slot : Nat) : Nat := x.sring.toNat + 8192 * (slot + 1)

/-- The line's home may be written by the device itself now: its link carries traffic, no way of its slice wakes (R160), and it
owns the line or nothing else holds it. -/
def State.homeWritable (s : State) (key : Nat) : Bool :=
  s.linkFlows (.vent (s.homeVent (lineOf key))) && !s.sliceWaking (s.homeVent (lineOf key)) (lineOf key) &&
    s.mayWrite (s.homeVent (lineOf key)) (lineOf key)

/-- What keeps the device from writing at a line's home is asked to go: a sleeping link wakes (R25), and the home asks for
ownership (R157). -/
def State.askHome (s : State) (key : Nat) : State :=
  let vent := s.homeVent (lineOf key)
  if s.linkFlows (.vent vent) then s.askOwn vent (lineOf key) else s.wakeLink (.vent vent)

/-- The device itself as a writer: it is no context. -/
def deviceWho : Nat × Nat := (128, 0)

/-- The device writes memory itself, over the link of the line's home (R24, R156). -/
def State.writeHome (s : State) (key : Nat) (bs : List Byte) : State :=
  (s.causal [.caldera, .vent (s.homeVent (lineOf key))]).storeAt (s.homeVent (lineOf key)) deviceWho key bs

/-- A write of the device itself. Where the link of the line's home carries no traffic, or another holder has the line, it waits
until the home may be written (R25, R157, R191, R328), and the later writes of its stream wait behind it. -/
def State.deviceWrite (s : State) (stream key : Nat) (bs : List Byte) : State :=
  if s.homeWritable key && !(s.devWrites.any fun w => w.stream == stream) then s.writeHome key bs
  else { s.askHome key with devWrites := s.devWrites ++ [⟨stream, key, bs⟩] }

/-- A write of the device itself for a partition, which is refused where it lies outside the partition's reach, as once a child
has taken the range (R317): DEDUCED (log 116). -/
def State.partWrite (s : State) (p key : Nat) (bs : List Byte) : State :=
  if s.inReach p key bs.length then s.deviceWrite p key bs else s

/-- Perform, of the device's own writes that wait, those that are due: the line's home may be written and no earlier
write of the stream still waits. `later` are the streams that wait. -/
def State.performDevWrites : List DevWrite → List Nat → State → State
  | [], _, s => s
  | w :: l, later, s =>
    if later.contains w.stream then State.performDevWrites l later { s with devWrites := s.devWrites ++ [w] }
    else if s.homeWritable w.addr then State.performDevWrites l later (s.writeHome w.addr w.data)
    else State.performDevWrites l (w.stream :: later) { s.askHome w.addr with devWrites := s.devWrites ++ [w] }

/-- The device's own writes that are due are performed, in order. -/
def State.drainDevWrites (s : State) : State := State.performDevWrites s.devWrites [] { s with devWrites := [] }

/-- A PARKED slot becomes FREE when its parking ends (R344). -/
def State.freeSlot (s : State) (p : Parking) : State :=
  match p.slot, s.part? p.part with
  | some n, some x => s.partWrite p.part (x.slotAddr n + 7) [0]
  | _, _ => s

/-- End the parkings of the groups in `ks` (R348), with the records that still wait to post. -/
def State.freeParkings (s : State) (ks : List Nat) : State :=
  let gone := s.parkings.filter fun p => ks.contains p.group
  let s1 := gone.foldl (fun s p => s.freeSlot p) s
  { s1 with
      parkings := s1.parkings.filter fun p => !ks.contains p.group
      parts := s1.parts.map fun x =>
        { x with posts := x.posts.filter fun r =>
            match r.parking with
            | none => true
            | some k => !gone.any fun p => p.key == k } }

/-- Ascending ranges of a rising list of team numbers. -/
def rangesOf : List Nat → List (Nat × Nat)
  | [] => []
  | n :: l =>
    match rangesOf l with
    | [] => [(n, n)]
    | (a, b) :: r => if n + 1 = a then (n, b) :: r else (n, n) :: (a, b) :: r

/-- At most 512 ranges; the last then ends at the last completed team (R349). -/
def clipRanges (l : List (Nat × Nat)) : List (Nat × Nat) :=
  if l.length ≤ 512 then l
  else
    l.take 511 ++
      match l[511]?, l.getLast? with
      | some a, some b => [(a.1, b.2)]
      | _, _ => []

/-- Blocks of 16 words each. -/
def blocksOf : Nat → Nat → List W32 → List (Nat × List W32)
  | 0, _, _ => []
  | n + 1, k, l => if l.isEmpty then [] else (k, l.take 16) :: blocksOf n (k + 1) (l.drop 16)

/-- Sort numbers ascending. -/
def sortNat (l : List Nat) : List Nat := l.foldr (fun x r => (r.takeWhile (· < x)) ++ [x] ++ r.dropWhile (· < x)) []

/-- The grid report (R349); `t` is the team whose termination ended the grid, if any team was placed. -/
def gridReport (x : Grid) (t : Option Team) (cause : Nat) (faddr : W64) (waddr : W32) : Post :=
  let rs := rangesOf (sortNat x.completed)
  let pl := (t.map fun t => placeOf t.core).getD (0, 0)
  { kind := 4
    cause := cause
    flags := if 512 < rs.length then 2 else 0
    state := 2
    active := 0
    fmask := 0
    faddr := faddr
    waddr := waddr
    kaddr := 0
    hdr := 0
    svc := 0
    team := BitVec.ofNat 32 ((t.map (·.num)).getD 0)
    ctx := x.ctx
    core := pl.1
    place := pl.2
    grid := x.id
    blocks := blocksOf 64 0 ((clipRanges rs).flatMap fun r => [BitVec.ofNat 32 r.1, BitVec.ofNat 32 r.2])
    parking := none }

/-- Stop everything that runs for a grid (R348, R349): its groups stop and end, their parkings are freed, its copies
are to be aborted, its records are discarded, and its barriers lose their members. -/
def State.stopGrid (s : State) (grid cause : Nat) : State :=
  let ks := (s.groups.filter fun g => g.grid == grid && !(isService g.core)).map (·.key)
  let ts := (s.teams.filter fun t => t.grid == grid && !(isService t.core)).map (·.key)
  let s1 := s.freeParkings ks
  { s1 with
      groups := s1.groups.map fun g =>
        if ks.contains g.key then
          { g with
              frontier := [], promo := [], clause := none, run := .running, parking := none, halt := none
              lanes := g.lanes.map fun _ => none
              ended := true }
        else g
      issueQ := s1.issueQ.filter fun k => !ks.contains k
      lateFaults := s1.lateFaults.filter fun f => !ks.contains f.group
      ops := s1.ops.map fun o =>
        if ts.contains o.team then
          match o.kind with
          | .bulk b => if b.fault.isSome then o else { o with kind := .bulk { b with fault := some (0x100, 0) } }
          | .cpy _ => { o with accs := [] }
          | _ => o
        else o
      cores := s1.cores.map fun c =>
        { c with
            bins := (c.bins.map fun b =>
              { b with recs := b.recs.filter fun r => !ts.contains r.thread.team }).filter fun b => !b.recs.isEmpty }
      preempts := s1.preempts.map fun (x : Preempt) => { x with bins := x.bins.filter fun b => b.2.grid != grid }
      teams := s1.teams.map fun t =>
        if ts.contains t.key then
          { t with dead := some (t.dead.getD cause), barrier := ⟨t.barrier.gen, 0, 0⟩ }
        else t
      grids := s1.grids.map fun x =>
        if x.key == grid then
          { x with cause := some (x.cause.getD cause)
                   barriers := x.barriers.map fun b => { b with b := ⟨b.b.gen, 0, 0⟩ } }
        else x }

/-- A team of a grid that is not complete. -/
def State.runningTeam (s : State) (grid : Nat) : Option Team :=
  s.teams.find? fun t => t.grid == grid && !(isService t.core)

/-- End a grid with a report, and the child grids of its teams with KILLED (R348, R349). A child that still waits in a
ring becomes a grid of no team that ends so. -/
def State.endGridAt : Nat → State → Nat → Nat → Option Team → W64 → W32 → State
  | 0, s, _, _, _, _, _ => s
  | n + 1, s, grid, cause, t, faddr, waddr =>
    match s.grid? grid with
    | none => s
    | some x =>
      if x.cause.isSome then s
      else
        let ts := (s.teams.filter fun t => t.grid == grid && !(isService t.core)).map (·.key)
        let s1 := (s.stopGrid grid cause).addPost x.part (gridReport x t cause faddr waddr)
        let kids := (s1.grids.filter fun x =>
          x.cause.isNone && (match x.parent with | none => false | some t => ts.contains t)).map (·.key)
        let s2 := { s1 with scheds := s1.scheds.map fun d =>
          { d with children := d.children.map fun c => if ts.contains c.parent then { c with killed := true } else c } }
        kids.foldl (fun s k => s.endGridAt n k Cause.killed (s.runningTeam k) 0 0) s2

/-- The depth of nested grids is at most 10 (R104). -/
def State.endGrid (s : State) (grid cause : Nat) (t : Option Team) (faddr : W64) (waddr : W32) : State :=
  s.endGridAt 12 grid cause t faddr waddr

/-- End a grid whatever its teams do. -/
def State.killGrid (s : State) (grid cause : Nat) : State := s.endGrid grid cause (s.runningTeam grid) 0 0

/-- TERMINATING A TEAM (R348, R349): its grid ends with the cause, once, and a grid report is due. On a service
core, which runs no grid, the core halts and starts again (R346). -/
def State.terminate (s : State) (team cause : Nat) (faddr : W64) (waddr : W32) : State :=
  match s.team? team with
  | none => s
  | some t =>
    match t.core with
    | .service k => s.haltService k
    | .vent _ _ _ => s.endGrid t.grid cause (some t) faddr waddr

/-- A context fault (R350): every running grid of a context ends with the cause, and one KIND 5 record is due. A child grid
of the context ends before its parent does, so that it too ends with the cause. -/
def State.contextFault (s : State) (part ctx cause : Nat) : State :=
  let ks := (s.grids.filter fun x => x.part == part && x.ctx == ctx).map (·.key)
  (ks.foldr (fun k s => s.killGrid k cause) s).addPost part
    { kind := 5, cause := cause, flags := 0, state := 2, active := 0, fmask := 0, faddr := 0, waddr := 0, kaddr := 0
      hdr := 0, svc := 0, team := 0, ctx := ctx, core := 0, place := 0, grid := 0, blocks := [], parking := none }

/-- Terminate the team of the lowest lane of `active` (R119, R351). -/
def State.terminateOf (s : State) (g : Group) (active : Mask) (cause : Nat) : State :=
  match (lowLane active).bind g.thread? with
  | none => s
  | some t => s.terminate t.team cause 0 0

/-! ## Control words (R89 to R91, R335) -/

/-- The 16 words of a frontier entry's report (R343): priority, code offset and mask. -/
def State.entryWords (s : State) (g : Group) (e : Entry) : List W32 :=
  [BitVec.ofNat 32 (e.prio % 65536), s.offsetOf g e.addr, lowHalf e.mask, highHalf e.mask]

/-- What leaving supervisor state asks of the frontier that a control word leaves (R335): none asked, met, or not
met. -/
def State.sretCheck (s : State) (g : Group) (f : List Entry) (live : Mask) : Option Bool :=
  match g.sret with
  | none => none
  | some o =>
    match f with
    | [e] => some (e.addr == s.cbOf g + o.setWidth 64 && e.mask == live)
    | _ => some false

/-- The effect of a control word of group `g` whose entry is `e`: its lanes go to `dest`, the group is `g'` in
everything else, and `after` is what else the word does. Where the frontier cannot be rebuilt the word has no effect
(R90, R91); while a header's read waits for links, the sleeping ones are woken (R25). -/
def State.controlThen (s : State) (g g' : Group) (e : Entry) (active : Mask) (dest : Nat → Option W64)
    (after : State → State) : State :=
  match s.rebuild g e none dest with
  | .wait ds => s.wakeLinks ds
  | .lost c => s.terminateOf g e.mask c
  | .fault c a m => s.trap g active c m a
  | .full => s.trapWith g active Cause.frontierFull e.mask 0
      (blocksOf 2 0 (g.frontier.flatMap (s.entryWords g)))
  | .ok f =>
    match s.sretCheck g f g'.live with
    | none => after (s.setGroup (g'.countWord.withFrontier f))
    | some true => after (s.setGroup { g'.countWord.withFrontier f with supervisor := false, sret := none })
    | some false => s.trap { g with sret := none } active Cause.privilege e.mask 0

/-- A control word that changes nothing outside its group. -/
def State.control (s : State) (g g' : Group) (e : Entry) (active : Mask) (dest : Nat → Option W64) : State :=
  s.controlThen g g' e active dest id

/-! ## The return from an exception (R333, R344, R346) -/

/-- Whether an instruction word is a control word (R40): classes 10 and 11, and TRAP. -/
def isControlWord (x : W32) : Bool :=
  x.toNat / 2 ^ 27 == 10 || x.toNat / 2 ^ 27 == 11 || (x.toNat / 2 ^ 27 == 23 && x.toNat / 2 ^ 18 % 16 == 2)

/-- Whether a literal word follows (R41). -/
def hasLiteral (x : W32) : Bool :=
  let c := x.toNat / 2 ^ 27
  if c = 3 ∨ c = 10 then false
  else if c = 12 ∨ c = 13 then x.getLsbD 26
  else x.getLsbD 26 && x.toNat % 64 == 63

/-- The places that RESUME mode 1 reads in a ring slot (R372): word 0, then the block of each lane of ACTIVE. -/
def Part.replyPlaces (x : Part) (slot : Nat) (active : Mask) : List (Nat × Nat) :=
  (x.slotAddr slot, 4) :: (lanesOf active).map fun k => (x.slotAddr slot + 64 + 64 * k, 64)

/-- What those reads meet. A line that a host whose link is down holds modified, and links that carry no traffic, have them
wait (R25, R331), and a lost line ends the team (R351). -/
def State.replyMeets (s : State) (p : Parking) (mode : Nat) : Option Xl :=
  match p.slot, s.part? p.part, s.group? p.group with
  | some n, some x, some g =>
    if p.kind ≠ 1 ∨ mode ≠ 1 then none
    else
      let bars := (x.replyPlaces n p.active).filterMap fun q => s.readBar g.core q.1 q.2
      match bars with
      | [] => ((x.replyPlaces n p.active).findSome? fun q => s.lostAt q.1 q.2).map Xl.lost
      | _ :: _ => some (.wait (bars.flatMap fun b => match b with | .wait ds => ds | _ => []))
  | _, _, _ => none

/-- The 16 reply words of lane `k` in a ring slot (R343, R346). -/
def State.replyOf (s : State) (x : Part) (slot k : Nat) : List W32 :=
  (List.range 16).map fun j => wordOfBytes (s.readBytes (x.slotAddr slot + 64 + 64 * k + 4 * j) 4)

def Thread.putMany (t : Thread) (d : Nat) : List W32 → Thread
  | [] => t
  | x :: l => (t.put d x).putMany (d + 1) l

/-- The group goes on after its kept word, as it was fetched and checked, without that word's effect (R333, mode 1). `p` is
its parking. A control word is the last of its clause (R42): all its entry's lanes fall through. Where the header there
cannot be read the entry keeps its priority, as after a clause that ends without a control word: the word counts as issued
and is not raised at again, DEDUCED (log 92). -/
def State.skipKept (s : State) (g : Group) (p : Parking) : State :=
  match g.clause with
  | none => s
  | some c =>
    if p.kind = 3 then s
    else
      match c.word? 0 with
      | none => s
      | some x => s.advance g (if hasLiteral x then 2 else 1)

/-- The entry that a group issues from next (R89, R92). -/
def Group.selected? (g : Group) : Option Entry :=
  match g.clause with
  | some c => g.frontier.find? fun e => e.addr == c.hdr
  | none =>
    match g.promo with
    | a :: _ => g.frontier.find? fun e => e.addr == a
    | [] => g.frontier.head?

/-- Whether a fault after issue has arrived: its operation has left, so that the counter has fallen (R340). -/
def State.lateDue (s : State) (f : LateFault) : Bool := !(s.ops.any fun o => o.id == f.op)

/-- The fault after issue that a group is to take next. -/
def State.lateFor (s : State) (group : Nat) : Option LateFault := s.lateFaults.find? fun f => f.group == group && s.lateDue f

/-- A late fault parks the group before its next word (R340): between two clauses that is the first word of the
clause it would open, whose count of 0 says that the clause has not begun. DEDUCED (log entry 16). -/
def State.deliverLate (s : State) (f : LateFault) : State :=
  let s1 := { s with lateFaults := s.lateFaults.erase f }
  match s.group? f.group with
  | none => s1.terminate f.team f.cause f.faddr f.waddr
  | some g =>
    if g.ended then s1.terminate f.team f.cause f.faddr f.waddr
    else
      let g1 := match g.clause, g.selected? with
        | none, some e => { g with clause := some ⟨e.addr, 0, e.addr + 4, false, []⟩ }
        | _, _ => g
      let post := fun (r : State) => r.onPart (s.whoOf g).part fun x =>
        { x with posts := x.posts.map fun r => if r.parking = some s1.nextKey then { r with waddr := f.waddr } else r }
      match g.core with
      | .service k =>
        if g.supervisor then s1.haltService k
        else (post (s1.parkGroup g1 3 f.cause f.active f.fmask f.faddr 0 0 [])).superEntry k f.cause
      | .vent _ _ _ => post (s1.parkGroup g1 3 f.cause f.active f.fmask f.faddr 0 0 [])

/-- The words that a group may issue while a halt is pending (R105). -/
def haltWords : Nat := 8192

/-- A group that its RESUME readies: while its halt is pending it halts before it issues, at the word at which it stands
(R313). -/
def Group.readied (g : Group) : Group :=
  match g.halt with
  | none => { g with run := .running, parking := none }
  | some _ => { g with run := .halted, halt := some haltWords, parking := none }

/-- End a parking: its slot becomes FREE and the group is parked no longer. -/
def State.unpark (s : State) (p : Parking) : State :=
  let s1 := s.freeSlot p
  { s1 with
      parkings := s1.parkings.filter fun x => x.key != p.key
      groups := s1.groups.map fun g => if g.key == p.group then g.readied else g }

/-- The replies of a TRAP reach the registers of its active lanes (R24, R346): word 0 is read as an acquire at DEVICE scope,
which ends the leases of the group's core (R186, R372). -/
def State.takeReplies (s : State) (p : Parking) : State :=
  match s.group? p.group, p.slot, s.part? p.part with
  | some g, some n, some x =>
    let s1 := (s.causal ((x.replyPlaces n p.active).flatMap fun q => s.readDies g.core q.1 q.2)).acquiredBy p.group p.active
    (s1.endLeases g.core).onGroup p.group fun g =>
      g.onLanes p.active fun k t => t.putMany p.trapReg (s.replyOf x n k)
  | _, _, _ => s

/-- The cause of the first lost-line mark that a read of what stands in a save area meets (R351). -/
def State.areaLost (s : State) (l : List AreaPart) : Option Nat := l.findSome? fun a => s.lostAt a.addr a.data.length

/-- Whether what stands in a save area is as the device wrote it (R312), in lines that are not lost. -/
def State.areaIntact (s : State) (l : List AreaPart) : Bool :=
  (s.areaLost l).isNone && l.all fun a => s.readBytes a.addr a.data.length == a.data

/-- The dies that a read of what stands in a save area needs (R25). -/
def State.areaDies (s : State) (l : List AreaPart) : List DieId :=
  l.flatMap fun a =>
    (List.range (lineOf (a.addr + a.data.length - 1) - lineOf a.addr + 1)).flatMap fun i =>
      s.homeDies (1024 * (lineOf a.addr + i)) 1024

/-- Whether a partition's parts of images are still on their way to the save area. -/
def State.areaPending (s : State) (part : Nat) : Bool := s.devWrites.any fun w => w.stream == part

/-- A saved group, or the teams of a saved image, cannot be restored: a line of the save area is lost (R351), software has
written what stands there (R312), or a word in shadow storage is uncorrectable (R353). -/
def State.failRestore (s : State) (teams : List Nat) (cause : Nat) : State :=
  teams.foldl (fun s t => s.terminate t cause 0 0) s

/-- The cause with which a restore from `l` fails. -/
def State.restoreCause (s : State) (l : List AreaPart) : Nat := (s.areaLost l).getD Cause.uncorrectable

/-- The teams of a group's threads. -/
def Group.teams (g : Group) : List Nat := (g.lanes.filterMap fun o => o.map (·.team)).dedup

/-- RESUME of a parking (R333, R346): the replies of a TRAP are delivered in mode 1, and a fault that was held
meanwhile parks the group again before it issues (R340). -/
def State.resumeParking (s : State) (p : Parking) (mode : Nat) : State :=
  match s.replyMeets p mode, (s.unpark p).group? p.group with
  | some (.lost c), some g => (s.unpark p).terminateOf g p.active c
  | _, o =>
    if p.bad ∨ !s.areaIntact p.area then (s.unpark p).failRestore ((o.map Group.teams).getD []) (s.restoreCause p.area)
    else
      let s1 := ((if p.kind = 1 ∧ mode = 1 then s.takeReplies p else s)).unpark p
      let s2 :=
        match s1.group? p.group with
        | none => s1
        | some g => if mode = 1 then s1.skipKept g p else s1
      match s2.lateFor p.group with
      | none => s2
      | some f => s2.deliverLate f

/-- Every live lane of a group ends as by TAIL (R99, R333). -/
def State.endLanes (s : State) (g : Group) : State :=
  let ts := g.lanes.filterMap id
  let s1 := ts.foldl (fun s t => (s.leaveBarriers t).onTeam t.team fun x => { x with ended := x.ended + 1 }) s
  s1.setGroup { g with lanes := g.lanes.map fun _ => none, frontier := [], promo := [], clause := none, ended := true }

/-- KILL of a parking (R333). -/
def State.killParking (s : State) (p : Parking) (cause : Nat) (lanesOnly : Bool) : State :=
  let s1 := s.unpark p
  match s1.group? p.group with
  | none => s1
  | some g => if lanesOnly then s1.endLanes g else s1.terminateOf g g.live cause

end Sys2Proof.Machine
end

