-- ==== Sys2Proof/Machine/Operands.lean ====
section
/-! DEFINITION. Operand forms and the common course of a word: which positions are active, the fates that depend
on the machine's state, and the shapes that the arithmetic classes share (R46 to R51, R53, R94, R119, R126,
R127). -/

namespace Sys2Proof.Machine

/-- The outcome of a step of this machine. -/
abbrev Out := Host.Outcome State Fault Refusal

/-! ## Operand b (R47, R127) -/

/-- Words that an instruction with this operand takes: its literal is one (R41). -/
def opBLen : OpB → Nat
  | .lit _ => 2
  | _ => 1

def opSLen : OpS → Nat
  | .lit _ => 2
  | _ => 1

/-- The 32-bit value of operand b in a position (R126). -/
def opBWord (g : Group) (t : Thread) : OpB → W32
  | .v r => t.get r.toNat
  | .s r => g.sGet r.toNat
  | .lit w => w

/-- The 64-bit value of operand b in a position (R127). -/
def opBPair (g : Group) (t : Thread) : OpB → W64
  | .v r => t.get64 r.toNat
  | .s r => g.sGet64 r.toNat
  | .lit w => w.signExtend 64

/-- The value of a uniform operand b. -/
def opSWord (g : Group) : OpS → W32
  | .s r => g.sGet r.toNat
  | .lit w => w

/-- The `n` vector registers from `r` upward. -/
def regsFrom (r : RegNum) (n : Nat) : List Nat := (List.range n).map fun i => r.toNat + i

/-- The vector registers of operand b, `n` of them where it names one. -/
def opBRegs (n : Nat) : OpB → List Nat
  | .v r => regsFrom r n
  | _ => []

/-! ## The course of a word (R46, R53) -/

/-- Whether a source register of an active position holds an uncorrectable word (R119). -/
def Group.badRead (g : Group) (A : Mask) (reads : List Nat) : Bool :=
  (lanesOf A).any fun i => ((g.thread? i).map fun t => reads.any t.bad.contains).getD false

/-- A word that is no control word: `named` are the vector registers it names, `reads` those it reads. With no
active position it has no effect (R53); a register at or above the cap is illegal (R53, R120); an uncorrectable
source terminates the team (R119); otherwise `body` acts. -/
def issueWord (p : Pred) (len : Nat) (named reads : List Nat) (s : State)
    (body : Group → Mask → State → State) : Out :=
  match s.issuing? with
  | none => .refused .noIssuingGroup
  | some g =>
    let A := g.active p
    if A = 0 then .next (s.popIssue.advance g len)
    else if named.any fun r => decide (g.cap ≤ r) then
      .next (s.popIssue.trap g A Cause.illegalInstruction A 0)
    else if g.badRead A reads then .next (s.popIssue.terminateOf g A Cause.uncorrectable)
    else .next (body g A s.popIssue)

/-- A control word (R40): with no active position every lane of the entry goes to next. -/
def issueControl (p : Pred) (named reads : List Nat) (s : State)
    (body : Group → Entry → W64 → Mask → State → State) : Out :=
  match s.issuing? with
  | none => .refused .noIssuingGroup
  | some g =>
    let A := g.active p
    match g.clause, g.entry? with
    | some c, some e =>
      if A = 0 then .next (s.popIssue.control g g e A fun _ => some c.next)
      else if named.any fun r => decide (g.cap ≤ r) then
        .next (s.popIssue.trap g A Cause.illegalInstruction A 0)
      else if g.badRead A reads then .next (s.popIssue.terminateOf g A Cause.uncorrectable)
      else .next (body g e c.next A s.popIssue)
    | _, _ => .next s.popIssue

/-- A collective (R94): it runs only in a fully converged group; its trap carries the issuing entry's mask. -/
def collective (g : Group) (A : Mask) (s : State) (body : State → State) : State :=
  if g.converged then body s else s.trap g A Cause.illegalState g.entryMask 0

/-! ## Arithmetic words (R126) -/

/-- A word that changes the threads of its active positions, each from its own old registers. -/
def laneWord (p : Pred) (len : Nat) (named reads : List Nat) (f : Group → Thread → Thread) (s : State) : Out :=
  issueWord p len named reads s fun g A s => s.advance (g.onLanes A fun _ t => f g t) len

/-- `v[d] := f x` for a single-source word. -/
def alu1 (p : Pred) (d a : RegNum) (f : W32 → W32) (s : State) : Out :=
  laneWord p 1 [d.toNat, a.toNat] [a.toNat] (fun _ t => t.put d.toNat (f (t.get a.toNat))) s

/-- `v[d] := f x y`. -/
def alu2 (p : Pred) (d a : RegNum) (b : OpB) (f : W32 → W32 → W32) (s : State) : Out :=
  laneWord p (opBLen b) ([d.toNat, a.toNat] ++ opBRegs 1 b) (a.toNat :: opBRegs 1 b)
    (fun g t => t.put d.toNat (f (t.get a.toNat) (opBWord g t b))) s

/-- `v[d] := f x y z`, z the old destination. -/
def alu3 (p : Pred) (d a : RegNum) (b : OpB) (f : W32 → W32 → W32 → W32) (s : State) : Out :=
  laneWord p (opBLen b) ([d.toNat, a.toNat] ++ opBRegs 1 b) ([d.toNat, a.toNat] ++ opBRegs 1 b)
    (fun g t => t.put d.toNat (f (t.get a.toNat) (opBWord g t b) (t.get d.toNat))) s

/-- `v[d+1]:v[d] := f X Y` with a 64-bit operand b (R132). -/
def alu64 (p : Pred) (d a : RegNum) (b : OpB) (f : W64 → W64 → W64) (s : State) : Out :=
  laneWord p (opBLen b) (regsFrom d 2 ++ regsFrom a 2 ++ opBRegs 2 b) (regsFrom a 2 ++ opBRegs 2 b)
    (fun g t => t.put64 d.toNat (f (t.get64 a.toNat) (opBPair g t b))) s

/-- `v[d+1]:v[d] := f X n` with a 32-bit count (R132). -/
def aluShift64 (p : Pred) (d a : RegNum) (b : OpB) (f : W64 → Nat → W64) (s : State) : Out :=
  laneWord p (opBLen b) (regsFrom d 2 ++ regsFrom a 2 ++ opBRegs 1 b) (regsFrom a 2 ++ opBRegs 1 b)
    (fun g t => t.put64 d.toNat (f (t.get64 a.toNat) (opBWord g t b).toNat)) s

/-- `p[pd] := f x y`. -/
def aluCmp (p : Pred) (pd : BitVec 3) (a : RegNum) (b : OpB) (f : W32 → W32 → Bool) (s : State) : Out :=
  laneWord p (opBLen b) (a.toNat :: opBRegs 1 b) (a.toNat :: opBRegs 1 b)
    (fun g t => t.setPred pd (f (t.get a.toNat) (opBWord g t b))) s

/-- `p[pd] := f X Y` on pairs. -/
def aluCmp64 (p : Pred) (pd : BitVec 3) (a : RegNum) (b : OpB) (f : W64 → W64 → Bool) (s : State) : Out :=
  laneWord p (opBLen b) (regsFrom a 2 ++ opBRegs 2 b) (regsFrom a 2 ++ opBRegs 2 b)
    (fun g t => t.setPred pd (f (t.get64 a.toNat) (opBPair g t b))) s

/-- A word of predicates alone: `p[pd] := f t` (R108). -/
def predWord (p : Pred) (pd : BitVec 3) (f : Thread → Bool) (s : State) : Out :=
  laneWord p 1 [] [] (fun _ t => t.setPred pd (f t)) s

/-- Elements of `w` bits, element e in bits `[w*e + w - 1 : w*e]` (R141). -/
def element (w : Nat) (x : W32) (e : Nat) : Nat := x.toNat / 2 ^ (w * e) % 2 ^ w

/-- A register from elements of `w` bits, element 0 lowest. -/
def ofElements (w : Nat) : List Nat → Nat
  | [] => 0
  | x :: l => x % 2 ^ w + 2 ^ w * ofElements w l

/-! ## Holds at issue (R39) -/

/-- A word that would take a counter above 63 is held at issue until it is 62 or less (R39). -/
def Group.held (g : Group) (k : Ctr) : Bool := decide (63 ≤ g.cnt.get k)

end Sys2Proof.Machine
end

