-- ==== Sys2Proof/Machine/Block.lean ====
section
/-! DEFINITION. Parameter blocks of the P format (R50). -/

namespace Sys2Proof.Machine

/-! ## Holds of the LSU path (R39, R170, R171, R184) -/

/-- An operation that reads atomically (R176). -/
def OpKind.isAtomicRead : OpKind → Bool
  | .atom .st _ _ _ _ => false
  | .atom _ _ _ _ _ => true
  | .hob _ _ => true
  | .swtst _ => true
  | .btst _ _ => true
  | _ => false

/-- An operation whose step is an acquire: the group's later LSU words are held until it is performed (R184,
R200, R177). -/
def OpKind.isAcquire : OpKind → Bool
  | .atom _ _ _ ord _ => ord == .acq || ord == .ar
  | .hob _ _ => true
  | .swtst _ => true
  | .btst _ _ => true
  | _ => false

/-- A store or an atomic (R170). -/
def OpKind.isStoreOrAtomic : OpKind → Bool
  | .store => true
  | .atom _ _ _ _ _ => true
  | .hob _ _ => true
  | .swset => true
  | .swtst _ => true
  | _ => false

/-- An access of the LSU path (R146, R179). -/
def OpKind.isAccess (k : OpKind) : Bool :=
  k.isStoreOrAtomic ||
    match k with
    | .load _ _ _ => true
    | _ => false

/-- Whether a later LSU word of the group is held (R184). -/
def State.lsuHeld (s : State) (g : Group) : Bool := s.pendingOp g.key fun o => o.kind.isAcquire

/-- Whether a release at a scope is still waiting (R170, R186): at CORE scope the LSU queue has them all. -/
def State.releaseWaits (s : State) (g : Group) (scope : Scope) : Bool :=
  scope != .core && s.pendingOp g.key fun o => o.kind.isStoreOrAtomic

/-- Whether an access of a group is outstanding: what a release orders before it (R177). BARR's own write is made at its
issue, which waits for them at every level: DESIGN CHOICE (log 97). -/
def State.accessesWait (s : State) (g : Group) : Bool := s.pendingOp g.key fun o => o.path == .lsu && o.kind.isAccess

/-- Bytes of a team's scratchpad. -/
def Team.scBytes (t : Team) (off n : Nat) : List Byte := (List.range n).map fun i => sget 0 t.scratch (off + i)

/-- The team whose block and resources a command of the active positions `A` names (R50, R229). -/
def Group.commandTeam (g : Group) (A : Mask) : Nat := (((lowLane A).bind g.thread?).map (·.team)).getD 0

/-- SWSET's write (R217): TARGET from the operand, COUNT 0, GEN kept. -/
def swsetValue (old : W64) (x : W32) : W64 :=
  BitVec.ofNat 64 (x.toNat % 2 ^ 24 * 2 ^ 40 + old.toNat % 2 ^ 16)

/-- The bytes that a word which raises ST stores at the place of access `x` (R166, R183, R217); `old` is the 64-bit word that
stands there. -/
def OpKind.newBytes (k : OpKind) (x : Acc) (old : W64) : List Byte :=
  match k with
  | .store => x.data
  | .atom .st z _ _ _ => (x.ops.flatMap bytesOfWord).take z
  | .swset => bytesOfNat 8 (swsetValue old (x.ops.getD 0 0)).toNat
  | _ => []

/-- The new value that byte `o` of a team's scratchpad may read with, where a store of the group to it is outstanding, one by
ST, ATOM.st or SWSET: the latest one's (R369). -/
def State.pendingByte (s : State) (g : Group) (t : Team) (o : Nat) : Option Byte :=
  (s.ops.filter fun q => q.group == g.key).foldl
    (fun r q =>
      q.accs.foldl
        (fun r x =>
          match x.loc with
          | .sc n a =>
            if n == t.key && decide (a ≤ o) then
              ((q.kind.newBytes x (BitVec.ofNat 64 (natOfBytes (t.scBytes a 8))))[o - a]?).or r
            else r
          | _ => r) r) none

/-- The `n` bytes of a block at `a`: a byte whose store by the group is outstanding reads with its old value or its new one
(R369). -/
def State.blockBytes (s : State) (g : Group) (t : Team) (a n : Nat) : List Byte :=
  ((List.range n).zip (t.scBytes a n)).map fun e =>
    match s.pendingByte g t (a + e.1) with
    | none => e.2
    | some b => if Config.blockPick s.turn g.key (a + e.1) then b else e.2

/-- The block of `n` bytes at s[ps], or the cause that reading it meets (R50): MISALIGNED, PERMISSION, or
UNCORRECTABLE for a damaged word in the parts that are read, as first and past-the-last byte. -/
def State.readParts (s : State) (g : Group) (A : Mask) (ps : RegNum) (n : Nat) (parts : List Byte → List (Nat × Nat)) :
    Except Nat (List Byte) :=
  let a := (g.sGet ps.toNat).toNat
  let team := g.commandTeam A
  if a % 32 ≠ 0 then .error Cause.misaligned
  else if s.scratchSize team < a + n then .error Cause.permission
  else
    match s.team? team with
    | none => .error Cause.permission
    | some t =>
      let l := s.blockBytes g t a n
      if t.badSc.any fun o => (parts l).any fun p => decide (a + p.1 < o + 8) && decide (o < a + p.2) then
        .error Cause.uncorrectable
      else .ok l

/-- The block of `n` bytes at s[ps], all of which is read. -/
def State.readBlock (s : State) (g : Group) (A : Mask) (ps : RegNum) (n : Nat) : Except Nat (List Byte) :=
  s.readParts g A ps n fun _ => [(0, n)]

/-- Bytes `lo` to `hi` of a block as a number. -/
def fld (l : List Byte) (lo hi : Nat) : Nat := natOfBytes ((l.drop lo).take (hi + 1 - lo))

/-- Whether bytes `lo` to `hi` of a block are 0. -/
def zeros (l : List Byte) (lo hi : Nat) : Bool := fld l lo hi == 0

/-- A trap that a command's checks raise; UNCORRECTABLE terminates the team (R119). -/
def State.commandTrap (s : State) (g : Group) (A : Mask) (cause : Nat) (addr : W64) : State :=
  if cause = Cause.uncorrectable then s.terminateOf g A cause else s.trap g A cause A addr

/-- The address of a block: a trap of a check of its fields gives it as FADDR, as one of its own address does. R343 asks for the
address of the command's access, or 0 if there is none, and no rule says which access such a check belongs to: DESIGN CHOICE
(log 111). -/
def Group.blockAddr (g : Group) (ps : RegNum) : W64 := (g.sGet ps.toNat).setWidth 64

/-- Go on with a block that was read, or take the trap. -/
def withRead (g : Group) (A : Mask) (ps : RegNum) (s : State) (r : Except Nat (List Byte)) (body : List Byte → State) :
    State :=
  match r with
  | .error c => s.commandTrap g A c (g.blockAddr ps)
  | .ok l => body l

/-- Read the parts of a block that its own bytes call for and go on with it, or take the trap. It is read as an LSU load would
be, after the group's earlier acquires (R184, R369). -/
def withParts (g : Group) (A : Mask) (ps : RegNum) (n : Nat) (parts : List Byte → List (Nat × Nat)) (s : State)
    (body : List Byte → State) : State :=
  if s.lsuHeld g then s else withRead g A ps s (s.readParts g A ps n parts) body

/-- Read a block and go on with it, or take the trap. -/
def withBlock (g : Group) (A : Mask) (ps : RegNum) (n : Nat) (s : State) (body : List Byte → State) : State :=
  if s.lsuHeld g then s else withRead g A ps s (s.readBlock g A ps n) body

/-- The checks of an entry, in order: the first that fails names the trap. -/
def firstFail : List (Bool × Nat) → Option Nat
  | [] => none
  | (ok, c) :: l => if ok then firstFail l else some c

end Sys2Proof.Machine
end

