-- ==== Sys2Proof/Machine/Access.lean ====
section
/-! DEFINITION. How an LSU word names memory: addresses, spaces, extents, the checks of R167 in their order, and the
issue of an operation (R51, R121 to R124, R145 to R151, R161 to R167, R170, R184, R217). -/

namespace Sys2Proof.Machine

/-! ## Addresses (R51) -/

/-- The byte offset of a memory operand of size `z`, as a signed number. -/
def offsetBytes (o : Offset) (z : Nat) : Int :=
  match o with
  | .scaled k => k.toNat * z
  | .lit w => w.toInt

/-- Words that a memory operand takes. -/
def memLen (m : MemOp) : Nat :=
  match m.off with
  | .scaled _ => 1
  | .lit _ => 2

/-- The address of a memory operand in a position: 64 bits for `.gl`, 32 for the other spaces. -/
def memAddr (m : MemOp) (z : Nat) (t : Thread) : Nat :=
  match m.space with
  | .gl => (t.get64 m.base.toNat + BitVec.ofInt 64 (offsetBytes m.off z)).toNat
  | _ => (t.get m.base.toNat + BitVec.ofInt 32 (offsetBytes m.off z)).toNat

/-- The base registers of a memory operand. -/
def memRegs (m : MemOp) : List Nat :=
  match m.space with
  | .gl => regsFrom m.base 2
  | _ => regsFrom m.base 1

/-! ## Spaces and extents (R122, R145, R147, R149) -/

/-- A part of a position's access: a virtual address or a place, its bytes and their offset in the data. -/
inductive Piece where
  | va (a n roff : Nat)
  | at_ (l : Loc) (n roff : Nat)
  deriving DecidableEq, Repr

/-- The launch record of a thread's grid. -/
def State.lrecOf (s : State) (t : Thread) : Option LaunchRec :=
  (s.team? t.team).bind fun x => (s.grid? x.grid).map (·.lrec)

/-- The global address of private offset `o` of a thread (R122). -/
def State.privAddr (s : State) (t : Thread) (o : Nat) : Nat :=
  match s.team? t.team, s.lrecOf t with
  | some x, some r =>
    (r.pvb.toNat + (x.num * ((r.threads + 63) / 64) + t.tid / 64) * 64 * r.pvs + o / 4 * 256 + t.tid % 64 * 4 +
      o % 4) % 2 ^ 64
  | _, _ => 0

/-- The pieces of a private access: words for 8 and 16 bytes (R123). -/
def State.privPieces (s : State) (t : Thread) (o z : Nat) : List Piece :=
  if z ≤ 4 then [.va (s.privAddr t o) z 0]
  else (List.range (z / 4)).map fun i => .va (s.privAddr t (o + 4 * i)) 4 (4 * i)

/-- The team that a cluster-form address reaches (R147): placed, not complete, of the same cluster position. -/
def State.clusterTeam (s : State) (t : Thread) (u : Nat) : Option Team := do
  let x ← s.team? t.team
  let g ← s.grid? x.grid
  if g.lrec.t ≤ u ∨ 4095 < u then none
  else
    let num := x.num / g.lrec.t * g.lrec.t + u
    if g.completed.contains num then none
    else s.teams.find? fun y => y.grid == x.grid && y.num == num && !(isService y.core)

/-- The place of a `.sc` access of `z` bytes (R147); none raises PERMISSION. -/
def State.scPlace (s : State) (t : Thread) (a z : Nat) : Option Loc :=
  if a < 2 ^ 31 then
    if a + z ≤ s.scratchSize t.team then some (.sc t.team a) else none
  else
    match s.clusterTeam t (a / 2 ^ 19 % 2 ^ 12), s.lrecOf t with
    | some y, some r => if a % 2 ^ 19 + z ≤ r.cws then some (.sc y.key (a % 2 ^ 19)) else none
    | _, _ => none

/-- The pieces of an access of `z` bytes at address `a` of a space other than `.rs`; none raises PERMISSION. -/
def State.piecesOf (s : State) (t : Thread) (sp : Space) (a z : Nat) : Option (List Piece) :=
  match sp with
  | .gl => some [.va a z 0]
  | .pv => match s.lrecOf t with
    | none => none
    | some r => if a + z ≤ r.pvs then some (s.privPieces t a z) else none
  | .sc => (s.scPlace t a z).map fun l => [.at_ l z 0]
  | .w => match s.lrecOf t with
    | none => none
    | some r => if a + z ≤ r.wsize then some [.at_ (.wb t.team a) z 0] else none
  | .a => match s.lrecOf t with
    | none => none
    | some r => if a + z ≤ r.asize then some [.at_ (.ab t.team a) z 0] else none
  | .rs => none

/-! ## The checks of a word (R164, R167) -/

/-- A check of every active position: the cause it raises and what it asks of a thread. -/
abbrev LaneCheck := Nat × (Thread → Bool)

/-- The first check that some active position fails, with the mask of those that fail it (R167). -/
def failing (g : Group) (A : Mask) : List LaneCheck → Option (Nat × Mask)
  | [] => none
  | (c, f) :: l =>
    let m := maskOf fun i => A.getLsbD i && ((g.thread? i).map fun t => !f t).getD false
    if m ≠ 0 then some (c, m) else failing g A l

/-- How a position's translation ends; a wait names the dies whose links are to carry its walk (R25). -/
inductive LaneXl where
  | ok (ps : List (Loc × Nat × Nat))
  | fault (cause addr : Nat)
  | lost (cause : Nat)
  | wait (dies : List DieId)
  deriving DecidableEq, Repr

/-- Translate the pieces of one position. -/
def State.xlatePieces (s : State) (w : Who) (need : Need) : List Piece → LaneXl
  | [] => .ok []
  | .at_ l n r :: ps =>
    match s.xlatePieces w need ps with
    | .ok q => .ok ((l, n, r) :: q)
    | x => x
  | .va a n r :: ps =>
    match s.xlate w a n need with
    | .translation => .fault Cause.translation a
    | .permission => .fault Cause.permission a
    | .lost c => .lost c
    | .wait ds => .wait ds
    | .ok key =>
      match s.xlatePieces w need ps with
      | .ok q => .ok ((.mem key, n, r) :: q)
      | x => x

/-- The virtual addresses of pieces. -/
def pieceVas : List Piece → List Nat
  | [] => []
  | .va a _ _ :: l => a :: pieceVas l
  | .at_ _ _ _ :: l => pieceVas l

/-- Every active position translated before any performs (R164): lanes with their places, or the mask of those
that fault with the cause and address of the lowest. -/
inductive AllXl where
  | ok (l : List (Nat × List (Loc × Nat × Nat)))
  | fault (mask : Mask) (cause addr : Nat)
  | lost (cause : Nat)
  | wait (dies : List DieId)
  deriving DecidableEq, Repr

def addLane (i : Nat) : LaneXl → AllXl → AllXl
  | .lost c, _ => .lost c
  | _, .lost c => .lost c
  | .wait a, .wait b => .wait (a ++ b)
  | .wait a, _ => .wait a
  | _, .wait b => .wait b
  | .fault c a, .fault m _ _ => .fault (m ||| (1 <<< i : Mask)) c a
  | .fault c a, .ok _ => .fault (1 <<< i : Mask) c a
  | .ok _, .fault m c a => .fault m c a
  | .ok p, .ok l => .ok ((i, p) :: l)

/-- Translate every lane of the list, ascending. -/
def State.xlateAll (s : State) (w : Who) (need : Need) : List (Nat × List Piece) → AllXl
  | [] => .ok []
  | (i, ps) :: l => addLane i (s.xlatePieces w need ps) (s.xlateAll w need l)

/-- Keep the translations that a word used (R163). -/
def State.learnAll (s : State) (w : Who) (l : List (Nat × List Piece)) : State :=
  (l.flatMap fun x => pieceVas x.2).foldl (fun s a => s.learn w a) s

/-- The checks of a word in order, then translation; `k` acts with every active position's places. `addr` is a
position's address, for the fault record. A word whose walk has to wait is held, and the links that the walk needs wake (R25,
R330). -/
def lsuChecked (g : Group) (A : Mask) (addr : Thread → Nat) (checks : List LaneCheck)
    (pieces : Thread → List Piece) (need : Need) (s : State)
    (k : List (Nat × List (Loc × Nat × Nat)) → State → State) : State :=
  match failing g A checks with
  | some (c, m) =>
    let a := (((lowLane m).bind g.thread?).map addr).getD 0
    s.trap g A c m (BitVec.ofNat 64 a)
  | none =>
    let l := (lanesOf A).filterMap fun i => (g.thread? i).map fun t => (i, pieces t)
    match s.xlateAll (s.whoOf g) need l with
    | .wait ds => s.wakeLinks ds
    | .lost c => s.terminateOf g A c
    | .fault m c a => s.trap g A c m (BitVec.ofNat 64 a)
    | .ok ps => k ps (s.learnAll (s.whoOf g) l)

/-! ## The issue of an operation (R39, R177) -/

/-- Issue an operation: its counter rises and the group goes on (R39). -/
def State.issueOp (s : State) (g : Group) (A : Mask) (path : Path) (ctr : Ctr) (kind : OpKind) (accs : List Acc)
    (team len : Nat) : State :=
  let o : Op :=
    { id := s.nextOp, group := g.key, core := g.core, team := team, path := path, ctr := ctr, kind := kind
      accs := accs, active := A, waddr := s.offsetOf g ((g.clause.map (·.kept)).getD 0)
      stamp := (s.time (dieOf g.core)).value }
  ({ s with nextOp := s.nextOp + 1, ops := s.ops ++ [o] }).advance (g.raise ctr) len

/-- A scope's code (R169, R182). -/
def scopeBit : Scope → BitVec 5
  | .core => 1
  | .cluster => 2
  | .die => 4
  | .device => 8
  | .system => 16

/-- The scopes at which a thread's atomic write is a release (R177): its own, if any, and those of its fences. -/
def Group.relScopes (g : Group) (own : BitVec 5) (i : Nat) : BitVec 5 :=
  own ||| ((g.thread? i).map (·.fences)).getD 0

/-- The number below which the operations of lane `i` are ordered before its atomic write by a release (R177): for a release
of its own, all that are earlier than `now`, and else those before its latest release fence. -/
def Group.relAfter (g : Group) (own : BitVec 5) (now i : Nat) : Nat :=
  if own ≠ 0 then now else ((g.thread? i).map (·.fenceAt)).getD 0

/-- OWNER of an announcing thread (R194). -/
def State.ownerOf (s : State) (t : Thread) : Nat :=
  ((s.team? t.team).map (·.num)).getD 0 % 2 ^ 11 * 2 ^ 11 + t.tid

/-- The accesses of an operation: one per place, numbered in order. `addr` gives a lane's address, `data` the bytes to store,
`ops` the operand words. -/
def accsOf (g : Group) (ps : List (Nat × List (Loc × Nat × Nat))) (addr : Thread → Nat)
    (data : Nat → Nat → Nat → List Byte) (ops : Nat → List W32) : List Acc :=
  let flat := ps.flatMap fun x => x.2.map fun p => (x.1, p)
  ((List.range flat.length).zip flat).map fun e =>
    let i := e.2.1
    let p := e.2.2
    { n := e.1, lane := i, va := BitVec.ofNat 64 (((g.thread? i).map addr).getD 0), rel := 0, after := 0, loc := p.1
      len := p.2.1, roff := p.2.2, data := data i p.2.2 p.2.1, src := none, sync := none, ops := ops i, owner := 0 }

/-- The accesses of an atomic (R176, R177): `own` is the scope at which the word itself is a release, if it is one. -/
def State.atomicAccs (s : State) (g : Group) (ps : List (Nat × List (Loc × Nat × Nat))) (addr : Thread → Nat)
    (own : BitVec 5) (ops : Nat → List W32) : List Acc :=
  (accsOf g ps addr (fun _ _ _ => []) ops).map fun x =>
    { x with
        rel := g.relScopes own x.lane
        after := g.relAfter own s.nextOp x.lane
        owner := ((g.thread? x.lane).map s.ownerOf).getD 0 }

end Sys2Proof.Machine
end

