-- ==== Sys2Proof/Machine/Atom.lean ====
section
/-! DEFINITION. Class 14: ATOM (R182 to R186). The read-modify-write itself is ATOMIC_PERFORM. -/

namespace Sys2Proof.Machine

/-- Bytes of an ATOM's operand. -/
def atomSize (b64 : Bool) : Nat := if b64 then 8 else 4

/-- The address of an ATOM in a position (R182). -/
def atomAddr (sc : Bool) (a : RegNum) (t : Thread) : Nat :=
  if sc then (t.get a.toNat).toNat else (t.get64 a.toNat).toNat

/-- The checks of R185. -/
def atomChecks (s : State) (sc : Bool) (a : RegNum) (z : Nat) : List LaneCheck :=
  [ (Cause.misaligned, fun t => atomAddr sc a t % z == 0),
    (Cause.permission, fun t => !sc || (s.scPlace t (atomAddr sc a t) z).isSome) ]

/-- The pieces of a position's ATOM. -/
def atomPieces (s : State) (sc : Bool) (a : RegNum) (z : Nat) (t : Thread) : List Piece :=
  if sc then ((s.scPlace t (atomAddr sc a t) z).map fun l => [Piece.at_ l z 0]).getD []
  else [.va (atomAddr sc a t) z 0]

/-- The operand words of a position: v[d], and what follows it (R183). -/
def operandWords (g : Group) (d : RegNum) (n i : Nat) : List W32 :=
  match g.thread? i with
  | none => []
  | some t => (List.range n).map fun k => t.get (d.toNat + k)

/-- The scope at which an ATOM is itself a release (R177); no scope where it is none. -/
def ownRel (ord : AOrd) (scope : Scope) : BitVec 5 := if ord = .rel ∨ ord = .ar then scopeBit scope else 0

/-- The issue of an ATOM (R184): every position is checked, then a release waits; `n` operand registers are captured. -/
def atomWord (p : Pred) (op : AtomOp) (sc : Bool) (d a : RegNum) (ord : AOrd) (scope : Scope) (b64 : Bool) (n : Nat)
    (s : State) : Out :=
  let z := atomSize b64
  let base := if sc then regsFrom a 1 else regsFrom a 2
  issueWord p 1 (regsFrom d (max n (z / 4)) ++ base) (regsFrom d n ++ base) s fun g A s =>
    let ctr : Ctr := if op = .st then .st else .ld
    if g.held ctr ∨ s.lsuHeld g then s
    else
      lsuChecked g A (atomAddr sc a) (atomChecks s sc a z) (atomPieces s sc a z) .atomic s fun ps s =>
        if (ord = .rel ∨ ord = .ar) ∧ s.releaseWaits g scope then s
        else
          s.issueOp g A .lsu ctr (.atom op z d.toNat ord scope)
            (s.atomicAccs g ps (atomAddr sc a) (ownRel ord scope) (operandWords g d n)) (g.commandTeam A) 1

/-- An ATOM with one operand of its size. -/
def atomRmw (p : Pred) (op : AtomOp) (x : AtomArgs) (s : State) : Out :=
  atomWord p op x.sc x.d x.a x.ord x.scope x.b64 (atomSize x.b64 / 4) s

/-- ATOM.ld. -/
def execAtomLd (p : Pred) (x : AtomArgs) (s : State) : Out := atomWord p .ld x.sc x.d x.a x.ord x.scope x.b64 0 s
/-- ATOM.st. -/
def execAtomSt (p : Pred) (x : AtomArgs) (s : State) : Out := atomRmw p .st x s
/-- ATOM.add. -/
def execAtomAdd (p : Pred) (x : AtomArgs) (s : State) : Out := atomRmw p .add x s
/-- ATOM.and. -/
def execAtomAnd (p : Pred) (x : AtomArgs) (s : State) : Out := atomRmw p .and x s
/-- ATOM.or. -/
def execAtomOr (p : Pred) (x : AtomArgs) (s : State) : Out := atomRmw p .or x s
/-- ATOM.xor. -/
def execAtomXor (p : Pred) (x : AtomArgs) (s : State) : Out := atomRmw p .xor x s
/-- ATOM.min.i. -/
def execAtomMinI (p : Pred) (x : AtomArgs) (s : State) : Out := atomRmw p .minI x s
/-- ATOM.min.n. -/
def execAtomMinN (p : Pred) (x : AtomArgs) (s : State) : Out := atomRmw p .minN x s
/-- ATOM.max.i. -/
def execAtomMaxI (p : Pred) (x : AtomArgs) (s : State) : Out := atomRmw p .maxI x s
/-- ATOM.max.n. -/
def execAtomMaxN (p : Pred) (x : AtomArgs) (s : State) : Out := atomRmw p .maxN x s
/-- ATOM.swap. -/
def execAtomSwap (p : Pred) (x : AtomArgs) (s : State) : Out := atomRmw p .swap x s
/-- ATOM.cas: expected and new, each of the operand's size. -/
def execAtomCas (p : Pred) (x : AtomArgs) (s : State) : Out :=
  atomWord p .cas x.sc x.d x.a x.ord x.scope x.b64 (atomSize x.b64 / 2) s
/-- ATOM.ld.remote: an acquire at DEVICE scope. -/
def execAtomLdRemote (p : Pred) (d a : RegNum) (b64 : Bool) (s : State) : Out :=
  atomWord p .ldRemote false d a .acq .device b64 0 s

end Sys2Proof.Machine
end

