-- ==== Sys2Proof/Machine/Links.lean ====
section
/-! DEFINITION. Die-to-die links: flits, handshake tokens, coherence poison and link power (R22 to R27, R157, R351). -/

namespace Sys2Proof.Machine

/-! ## Flits and tokens (R22, R24) -/

/-- Whether a sender may hand a flit to a die's link: it holds traffic in every state but DEAD. -/
def State.maySend (s : State) (d : DieId) (toDie : Bool) (ch : Channel) : Bool :=
  match s.link? d with
  | none => true
  | some l => (l.lane? toDie ch).isSome && l.st != .dead

/-- What a delivered flit does: a time message is stamped with its arrival; an acknowledgement is collected by
INVALIDATION_ACK; of an eviction the directory needs nothing more. -/
def State.deliverBody (s : State) (d : DieId) (toDie : Bool) (b : FlitBody) : State :=
  match b with
  | .time m =>
    let r := receiverOf d toDie
    s.onTime r fun t => { t with inbox := t.inbox ++ [(senderOf d toDie, t.value, m)] }
  | .invAck _ => s
  | .dirUpdate _ => s

/-- The receiver takes the flit at the head of a lane, if it is the one that it expects. -/
def State.acceptFlit (s : State) (d : DieId) (toDie : Bool) (ch : Channel) (x : Lane) (f : Flit) : State :=
  let s1 := s.onLink d fun l => l.onLane toDie ch fun x => { x with inflight := x.inflight.tail }
  if f.seq ≠ x.expect then s1
  else
    ((s1.onLink d fun l => l.onLane toDie ch fun x => { x with expect := x.expect + 1 }).raiseTime (receiverOf d toDie)
      f.stamp).deliverBody d toDie f.body

/-- A lane sends again every flit that its receiver has not accepted. -/
def Lane.resend (x : Lane) : Lane := { x with inflight := x.replay.filter fun f => decide (x.expect ≤ f.seq) }

/-- Traffic on a link stops for retraining (R25): it is held, and is sent again afterwards (R27). -/
def Link.retrain (l : Link) (now failed : Nat) : Link :=
  { l with st := .retrain, since := now, failed := failed, lanes := l.lanes.map fun x => x.resend }

/-! ## Coherence poison (R157, R351) -/

/-- A line is forced invalid in every holder, dirty data included, and marked; its requests need no more answers. A pinned line
keeps its place (R148). -/
def State.forceInvalid (s : State) (line : Nat) : State :=
  let hs := s.l2.filter fun l => l.line == line
  let s1 := hs.foldl (fun s l => s.restoreOld l) (s.forgetSizes (s.homeVent line) line)
  ({ s1 with
      l2 := (s1.l2.filter fun (l : L2Line) => l.line != line || l.pinned.isSome).map fun (l : L2Line) =>
        if l.line == line then l.emptied else l
      ports := s1.ports.map fun (p : Port) => { p with held := p.held.filter fun h => h.1 != line }
      monitors := s1.monitors.map fun (m : Monitor) => if m.key / 1024 == line then { m with held := false } else m
      ownReqs := s1.ownReqs.map fun (r : OwnReq) => if r.line == line then { r with toInv := [], toAck := [] } else r }).markLost
    line Cause.coherencePoison

/-- The contexts with stores to some lines that have not been written back. -/
def State.writersOf (s : State) (lines : List Nat) : List (Nat × Nat) :=
  ((s.l2.filter fun l => lines.contains l.line).flatMap (·.writers)).foldl
    (fun r w => if r.contains w ∨ 127 ≤ w.1 then r else r ++ [w]) []

/-- COHERENCE_POISON of some lines. -/
def State.poisonLines (s : State) (lines : List Nat) : State :=
  let ws := s.writersOf lines
  let s1 := lines.foldl (fun s l => s.forceInvalid l) s
  ws.foldl (fun s w => s.contextFault w.1 w.2 Cause.coherencePoison) s1

/-- The lines of a directory bank that a holder holds or for which a request is in flight. -/
def State.bankLines (s : State) (banks : List Nat) : List Nat :=
  ((s.l2.map (·.line)) ++ (s.ports.flatMap fun p => p.held.map (·.1)) ++ (s.ownReqs.map (·.line))).foldl
    (fun r l => if banks.contains (l % 64) ∧ !r.contains l then r ++ [l] else r) []

/-- The line that a directory flit names. -/
def flitLine : FlitBody → Option Nat
  | .time _ => none
  | .invAck l => some l
  | .dirUpdate l => some l

/-- The directory banks with traffic outstanding on a link. -/
def Link.banks (l : Link) : List Nat :=
  l.lanes.flatMap fun x => (x.inflight ++ x.replay).filterMap fun f => (flitLine f.body).map (· % 64)

/-- A flit that no retraining can deliver (R351). -/
def State.loseFlit (s : State) (l : Link) (f : Flit) (header trailer : Bool) : State :=
  match flitLine f.body with
  | none => s
  | some line =>
    if header then s.poisonLines [line]
    else if trailer then s.poisonLines (s.bankLines [line % 64])
    else s.poisonLines (s.bankLines l.banks)

/-- FLIT_DELIVERY: the flit at the head of a lane of a die's link arrives so. -/
def execFlitDelivery (d : DieId) (toDie : Bool) (ch : Channel) (fate : FlitFate) (s : State) : Out :=
  .next (
    match s.link? d with
    | none => s
    | some l =>
      match l.lane? toDie ch with
      | none => s
      | some x =>
        match x.inflight with
        | [] => s
        | f :: _ =>
          match fate with
          | .ok => if l.st = .active then s.acceptFlit d toDie ch x f else s
          | .crcError => if l.st = .active then s.onLink d fun l => l.onLane toDie ch fun x => x.resend else s
          | .exhausted => if l.st = .active then s.onLink d fun l => l.retrain s.now 0 else s
          | .undeliverable h t =>
            if l.st = .dead then
              (s.onLink d fun l => l.onLane toDie ch fun x => { x with inflight := x.inflight.tail }).loseFlit l f h t
            else s)

/-- HANDSHAKE_TOKEN: the sender of a lane frees the replay copies up to `ack`, takes the credits, with which it sends what it
holds, and raises its time register to the token's stamp. A token that is due on a sleeping link starts a wake (R25). -/
def execHandshakeToken (d : DieId) (toDie : Bool) (ch : Channel) (ack credits stamp : Nat) (s : State) : Out :=
  .next (
    match s.link? d with
    | none => s
    | some l =>
      match l.lane? toDie ch with
      | none => s
      | some x =>
        if l.st = .sleep then s.wakeLink d
        else if l.st ≠ .active ∨ x.expect ≤ ack ∨ Config.flitCredits < x.credits + credits + (x.nextSeq - x.expect) ∨
            (s.time (receiverOf d toDie)).value < stamp then s
        else
          ((s.raiseTime (senderOf d toDie) stamp).onLink d fun l => l.onLane toDie ch fun x =>
            { x with credits := x.credits + credits, replay := x.replay.filter fun f => decide (ack < f.seq) }).sendHeld d)

/-! ## Link power and training (R25 to R27) -/

/-- Whether traffic needs a die's link: flits in flight, held or not acknowledged, directory requests, or outstanding
operations of its cores. -/
def State.linkBusy (s : State) (l : Link) : Bool :=
  (l.lanes.any fun x => !x.inflight.isEmpty || !x.waiting.isEmpty || !x.replay.isEmpty) || !s.ownReqs.isEmpty || s.ops.any fun o => dieOf o.core == l.die

/-- LINK_IDLE_TIMEOUT. -/
def execLinkIdleTimeout (d : DieId) (s : State) : Out :=
  .next (
    match s.link? d with
    | none => s
    | some l =>
      if l.st = .active ∧ !s.linkBusy l then s.onLink d fun l => { l with st := .sleep, since := s.now } else s)

/-- A wake's bound and the least time in RETRAIN before a die is declared dead (R25, R26), in time units. -/
def wakeBound : Nat := 64000
def deadBound : Nat := 800000

/-- The link carries traffic again. -/
def Link.activate (l : Link) (now : Nat) : Link := { l with st := .active, since := now, failed := 0 }

/-- A die's link changes state; where it carries traffic again, what was held leaves in order, and the device's own writes that
waited for the link follow (R25, R27). -/
def State.linkRises (s : State) (d : DieId) (f : Link → Link) : State := ((s.onLink d f).sendHeld d).drainDevWrites

/-- LINK_UP: a wake in time, or a retraining link, is active again; a wake that is late has missed its bound. -/
def execLinkUp (d : DieId) (s : State) : Out :=
  .next (s.linkRises d fun l =>
    match l.st with
    | .waking => if s.now ≤ l.since + wakeBound then l.activate s.now else l.retrain s.now 1
    | .retrain => l.activate s.now
    | _ => l)

/-- WAKE_TIMEOUT. -/
def execWakeTimeout (d : DieId) (s : State) : Out :=
  .next (s.onLink d fun l => if l.st = .waking ∧ l.since + wakeBound < s.now then l.retrain s.now 1 else l)

end Sys2Proof.Machine
end

