-- ==== Sys2Proof/Machine/Partition.lean ====
section
/-! DEFINITION. Partitions and keys: quiescence, commits of descriptors, kernel entry, the discard of a key (R314 to
R319, R323, R324, R346). -/

namespace Sys2Proof.Machine

/-! ## Queues by number -/

/-- A queue context; one that was never opened is CLOSED (R289). -/
def State.queue (s : State) (q : Nat) : Queue := (s.queues.find? fun x => x.num == q).getD (Queue.closed q)

def State.onQueue (s : State) (q : Nat) (f : Queue → Queue) : State :=
  { s with queues := upsert (fun x => x.num == q) f (Queue.closed q) s.queues }

/-- Word 1 of a queue's status block (R289). -/
def Queue.statusWord (q : Queue) : Nat := q.status * 2 ^ 56 + q.code * 2 ^ 48

/-- The partition of a queue, none while it holds no descriptor. -/
def Queue.part (q : Queue) : Option Nat := q.desc.map (·.part)

/-! ## Partition tables (R314 to R317) -/

/-- A partition that holds clusters, memory and a key: ACTIVE or KFAIL. -/
def State.partOn (s : State) (p : Nat) : Bool := ((s.part? p).map fun x => x.status != 0).getD false

/-- Take the interval `[b, b + n)` out of intervals. -/
def cutRange (l : List (Nat × Nat)) (b n : Nat) : List (Nat × Nat) :=
  if n = 0 then l
  else
    l.flatMap fun r =>
      let lo := max r.1 b
      let hi := min (r.1 + r.2) (b + n)
      if hi ≤ lo then [r]
      else [(r.1, lo - r.1), (hi, r.1 + r.2 - hi)].filter fun x => decide (0 < x.2)

/-- The two ranges of a descriptor. -/
def PartDesc.ranges (d : PartDesc) : List (Nat × Nat) :=
  [(d.m0base, d.m0size), (d.m1base, d.m1size)].filter fun x => decide (0 < x.2)

/-- The memory under a partition's own key: its ranges without those of its active children (R317, R323). -/
def State.keyRanges (s : State) (p : Nat) : List (Nat × Nat) :=
  match s.part? p with
  | none => []
  | some x =>
    (childrenOf p).foldl
      (fun l c =>
        match s.part? c with
        | none => l
        | some y => if y.status = 0 then l else y.desc.ranges.foldl (fun l r => cutRange l r.1 r.2) l)
      x.desc.ranges

/-- Whether an address lies in one of some intervals. -/
def inRanges (l : List (Nat × Nat)) (a : Nat) : Bool := l.any fun r => decide (r.1 ≤ a) && decide (a < r.1 + r.2)

/-- Quiescent (R316): no team is placed, no queue is ACTIVE and no context is saved in shadow storage. A team whose image has been
moved away is placed nowhere. -/
def State.quiescent (s : State) (p : Nat) : Bool :=
  !(s.teams.any fun t => !(isService t.core) && !t.swapped && ((s.grid? t.grid).map fun g => g.part == p).getD false) &&
    !(s.queues.any fun q => q.part == some p && q.status == 1) &&
    !(s.preempts.any fun x => x.req.part == p && (x.saved.map fun y => decide (0 < y.1)).getD false)

def State.allQuiescent (s : State) (p : Nat) : Bool := (p :: childrenOf p).all s.quiescent

/-! ## Keys (R323, R324) -/

/-- The lowest free key ID. -/
def State.freeKeyId (s : State) : Option Nat :=
  ((List.range 4095).map (· + 1)).find? fun k => !(s.keys.any fun e => e.1 == k)

/-- Draw a key under a key ID (R323). -/
def State.newKey (s : State) (k : Nat) : State :=
  { s with keys := (k, Config.freeKey s.fresh) :: s.keys, fresh := s.fresh + 1 }

/-- Discard a partition's key (R324): the lines that were filled under it, and the hosts' copies of such lines, are dropped
without write-back, wherever they lie; the partition's memory reads as free values until it is written, and the key ID is
free again. -/
def State.discardKey (s : State) (p : Nat) : State :=
  let rs := s.keyRanges p
  let id := ((s.part? p).map (·.keyId)).getD 0
  let k := ((s.part? p).map (·.keySer)).getD 0
  let gone := s.l2.filter fun l => l.key == k && isDeviceLine l.line
  let s : State := gone.foldl (fun s l => s.forgetSizes l.vent l.line) s
  { s with
      l2 := s.l2.filter fun l => l.key != k || !isDeviceLine l.line
      cores := s.cores.map fun c => { c with l1 := c.l1.filter fun x => x.key != k || !isDeviceLine (x.sector / 8) }
      ports := s.ports.map fun x =>
        { x with
            held := x.held.filter fun h => !x.heldKeys.contains (h.1, k)
            heldKeys := x.heldKeys.filter fun h => h.2 != k }
      scrambled := (rs.map fun r => (⟨r.1, r.2, s.fresh, []⟩ : Scrambled)) ++ s.scrambled
      fresh := s.fresh + 1
      keys := s.keys.filter fun e => e.1 != id }

/-! ## Commits (R315, R316) -/

/-- 1 GiB. -/
def gibBytes : Nat := 2 ^ 30

/-- The descriptor's bytes as a descriptor. -/
def descOf (l : List Byte) : PartDesc :=
  { min := fld l 2 2
    bw := fld l 4 7
    clmask := BitVec.ofNat 64 (fld l 8 15)
    m0base := fld l 16 23
    m0size := fld l 24 31
    m1base := fld l 32 39
    m1size := fld l 40 47
    tb := fld l 48 51
    qbase := fld l 52 53
    qcount := fld l 54 55
    kimg := fld l 56 63
    owndig := (l.drop 64).take 32 }

/-- LEVEL of a partition number, 0 for a number that no partition has. -/
def levelOf (p : Nat) : Nat := if p < 8 then 1 else if p < 72 then 2 else 0

/-- The clusters of admitted Vents. -/
def State.admittedClusters (s : State) : Nat := (s.info.bootVents.map fun v => 255 * 2 ^ (8 * v)).sum

/-- The limits of a descriptor's fields (R315), of its clusters and of its ranges (R316). -/
def State.descOk (s : State) (p : Nat) (l : List Byte) : Bool :=
  let d := descOf l
  decide (fld l 0 0 ≤ 1 ∧ fld l 1 1 = levelOf p ∧ levelOf p ≠ 0 ∧ d.min ≤ 64 ∧ 65536 ≤ d.bw ∧ d.bw ≤ 2 ^ 31) &&
    zeros l 3 3 && zeros l 96 127 &&
    decide (d.m0base % gibBytes = 0 ∧ d.m0size % gibBytes = 0 ∧ gibBytes ≤ d.m0size ∧ d.m1base % gibBytes = 0 ∧
      d.m1size % gibBytes = 0 ∧ d.m0base + d.m0size ≤ s.gib * gibBytes) &&
    decide (d.m1size = 0 ∨ d.m1base + d.m1size ≤ s.gib * gibBytes) &&
    decide (d.qcount ≤ 16384 ∧ d.qbase + d.qcount ≤ 16384) &&
    decide (d.kimg % 64 = 0 ∧ d.m0base ≤ d.kimg ∧ d.kimg < d.m0base + d.m0size) &&
    (List.range 64).all fun i => !d.clmask.getLsbD i || s.admittedClusters.testBit i

/-- Whether two intervals share a number. -/
def rangesMeet (a n b m : Nat) : Bool := decide (a < b + m) && decide (b < a + n)

/-- Whether two descriptors share a cluster, a range byte or a queue context (R316). -/
def PartDesc.shares (d e : PartDesc) : Bool :=
  d.clmask &&& e.clmask != 0 || (d.ranges.any fun r => e.ranges.any fun q => rangesMeet r.1 r.2 q.1 q.2) ||
    rangesMeet d.qbase d.qcount e.qbase e.qcount

/-- Whether an interval lies in the union of some intervals. -/
def covered (l : List (Nat × Nat)) (b n : Nat) : Bool := (l.foldl (fun r x => cutRange r x.1 x.2) [(b, n)]).isEmpty

/-- Whether a child's holdings lie inside its parent's (R316); a range may span the parent's two. -/
def PartDesc.inside (d e : PartDesc) : Bool :=
  d.clmask &&& ~~~e.clmask == 0 && (d.ranges.all fun r => covered e.ranges r.1 r.2) &&
    (d.qcount == 0 || decide (e.qbase ≤ d.qbase) && decide (d.qbase + d.qcount ≤ e.qbase + e.qcount))

/-- The descriptor last committed: its BW, MIN and TB may still wait for their boundary (R316). -/
def Part.committed (x : Part) : PartDesc :=
  match x.next with
  | none => x.desc
  | some (m, b, t, _) => { x.desc with min := m, bw := b, tb := t }

/-- The descriptors of the active partitions if `p` had `d`, or were free. -/
def State.tableWith (s : State) (p : Nat) (d : Option PartDesc) : List (Nat × PartDesc) :=
  ((s.parts.filter fun x => x.status != 0 && x.num != p && x.num < 72).map fun x => (x.num, x.committed)) ++
    (match d with | none => [] | some d => [(p, d)])

/-- No two level-one partitions share, children lie inside their parents, and siblings share nothing (R316). -/
def tableDisjoint (t : List (Nat × PartDesc)) : Bool :=
  t.all fun x =>
    (t.all fun y => x.1 == y.1 || parentOf x.1 != parentOf y.1 || !x.2.shares y.2) &&
      (match parentOf x.1 with
       | none => true
       | some q => t.any fun y => y.1 == q && x.2.inside y.2)

/-- The sums of R316 over children and over the level-one partitions. -/
def tableSums (t : List (Nat × PartDesc)) : Bool :=
  let sum (q : Nat) (f : PartDesc → Nat) := ((t.filter fun x => parentOf x.1 == some q).map fun x => f x.2).sum
  (t.all fun x =>
    8 ≤ x.1 ||
      decide (sum x.1 (·.bw) ≤ x.2.bw) && decide (sum x.1 (·.min) ≤ x.2.min) &&
        (x.2.tb == 0 || decide (sum x.1 (·.tb) ≤ x.2.tb))) &&
    decide (((t.filter fun x => x.1 < 8).map fun x => x.2.min).sum ≤ 64)

/-- Whether a commit changes what only a quiescent partition may change (R316). -/
def PartDesc.moves (d e : PartDesc) : Bool :=
  d.clmask != e.clmask || d.ranges != e.ranges || d.qbase != e.qbase || d.qcount != e.qcount || d.kimg != e.kimg ||
    d.owndig != e.owndig

/-- The outcome of a commit, as SPSTAT shows it (R322): 0 accepted, 1 limits, 2 overlap, 3 not quiescent. -/
def State.commitCode (s : State) (p : Nat) (l : List Byte) : Nat :=
  let d := descOf l
  let on := fld l 0 0 == 1
  let t := s.tableWith p (if on then some d else none)
  let old := ((s.part? p).map (·.desc)).getD PartDesc.empty
  if !s.descOk p l then 1
  else if !tableDisjoint t then 2
  else if !tableSums t then 1
  else if s.partOn p ∧ (!on ∨ d.moves old) ∧ !s.allQuiescent p then 3
  else 0

/-- 1 µs in time units (R316). -/
def boundaryUnits : Nat := 16000

/-- An active partition takes a new descriptor: BW, MIN and TB take effect at the next 1 µs boundary (R316). -/
def Part.recommit (x : Part) (now : Nat) (d : PartDesc) : Part :=
  { x with
      desc := { d with min := x.desc.min, bw := x.desc.bw, tb := x.desc.tb }
      next := some (d.min, d.bw, d.tb, (now / boundaryUnits + 1) * boundaryUnits) }

/-- At its boundary what a commit left waiting takes effect (R316). -/
def Part.settle (x : Part) (now : Nat) : Part :=
  match x.next with
  | some (_, _, _, t) => if t ≤ now then { x with desc := x.committed, next := none } else x
  | none => x

/-- A partition becomes active: a key is drawn, its supervisor registers stand at reset, and its service core waits
for kernel entry (R319, R323). -/
def State.activate (s : State) (p : Nat) (d : PartDesc) : State :=
  let k := (s.freeKeyId).getD 0
  let x : Part := { Part.reset p with status := 1, keyId := k, desc := d, halted := true, keySer := s.fresh + 1 }
  { (s.newKey k) with parts := x :: s.parts.filter fun y => y.num != p }

/-- Whether a queue context is one of a partition's. -/
def PartDesc.hasQueue (d : PartDesc) (q : Nat) : Bool := decide (d.qbase ≤ q) && decide (q < d.qbase + d.qcount)

/-- A partition is freed: its key is discarded, its service core stops with all that runs or is parked there, and it has no queue
and no context any more, nor what these had begun: monitor entries, grids that wait, images in the save area, graph instances and
launches, child launches (R314, R316). -/
def State.release (s : State) (p : Nat) : State :=
  let s1 := (s.discardKey p).haltService p
  let d := ((s.part? p).map (·.desc)).getD PartDesc.empty
  let gone := (s.grids.filter fun x => x.part == p).map (·.key)
  let mine (q : Nat) : Bool := (s.queue q).part == some p || d.hasQueue q
  { s1 with
      groups := s1.groups.filter fun g => g.core != .service p && (isService g.core || !gone.contains g.grid)
      teams := s1.teams.filter fun t => t.core != .service p && (isService t.core || !gone.contains t.grid)
      grids := s1.grids.filter fun x => x.part != p
      parkings := s1.parkings.filter fun x => x.part != p
      preempts := s1.preempts.filter fun x => x.req.part != p
      monitors := s1.monitors.filter fun m => m.part != p
      insts := s1.insts.filter fun i => i.part != p
      launches := s1.launches.filter fun l => l.inst.part != p && !mine l.queue
      scheds := s1.scheds.map fun d => { d with children := d.children.filter fun c => c.part != p }
      parts := Part.reset p :: s1.parts.filter fun y => y.num != p
      queues := s1.queues.filter fun q => !mine q.num }

/-- Note the outcome of a commit. -/
def State.noteCommit (s : State) (p code : Nat) : State :=
  let s1 := if (s.part? p).isSome then s else { s with parts := s.parts ++ [Part.reset p] }
  s1.onPart p fun x => { x with commit := code }

/-- PARTITION_COMMIT (R316, R322): the root monitor core's commit of the descriptor at `desc`. An unbacked descriptor is
an uncorrectable memory error of that core (R20, R351). -/
def execPartitionCommit (p : Nat) (desc : W64) (s : State) : Out :=
  .next (
    if !s.inReach 127 desc.toNat 128 ∨ (s.lostAt desc.toNat 128).isSome then s.haltService 127
    else if 72 ≤ p then s
    else
      let l := (s.seenBy 127).readBytes desc.toNat 128
      let c := s.commitCode p l
      let s1 :=
        if c ≠ 0 then s
        else if fld l 0 0 = 1 then
          if s.partOn p then s.onPart p fun x => x.recommit s.now (descOf l) else s.activate p (descOf l)
        else if s.partOn p then s.release p
        else s
      s1.noteCommit p c)

/-! ## Kernel entry (R319, R320, R346) -/

/-- Whether some line of `n` bytes at `a` carries a lost-line mark (R351). -/
def State.lostWithin (s : State) (a n : Nat) : Bool :=
  (List.range ((a + n - 1) / 1024 - a / 1024 + 1)).any fun i => (s.lostCause (a / 1024 + i)).isSome

/-- Whether a kernel image is accepted. Its body must lie in the partition's ranges (R317). -/
def State.imageOk (s : State) (k : Nat) (d : PartDesc) : Bool :=
  let l := s.readBytes d.kimg 192
  let len := fld l 4 7
  let body := s.readBytes (d.kimg + 192) len
  decide (fld l 0 3 = 0x4B494D47 ∧ len % 4 = 0 ∧ len ≤ 2 ^ 26 ∧ fld l 8 11 % 4 = 0 ∧ fld l 8 11 < len) &&
    zeros l 12 63 && s.inReach k d.kimg (192 + len) && !s.lostWithin d.kimg (192 + len) &&
    decide (Config.sm3 ((l.drop 64).take 64) = d.owndig) &&
    Config.sm2Verify ((l.drop 64).take 64) (Config.sm3 (l.take 64 ++ body)) ((l.drop 128).take 64)

/-- A team without a grid: the scratchpad of a service core (R319). The spec does not say what a barrier is on a service core, which
runs no grid: its team's barrier has one member, which entry to the supervisor does not add to, and BARR and BTST at the levels
above raise ILLEGAL_STATE, DESIGN CHOICE (log 106). -/
def Team.ofService (key k : Nat) : Team :=
  { key := key, grid := 0, num := 0, core := .service k, tslot := 0, scratch := [], w := [], a := [], tiles := []
    poison := 0, barrier := ⟨0, 0, 1⟩, ended := 0, charge := 0, reported := 0, dead := none, swapped := false
    badSc := [], badW := [], badA := [] }

/-- KERNEL_ENTRY: a service core whose partition is active and that stands halted verifies its kernel image and starts a
supervisor group at ENTRY; an image that is not accepted leaves KFAIL. -/
def execKernelEntry (k : Nat) (s : State) : Out :=
  .next (
    match s.part? k with
    | none => s
    | some x =>
      if x.status ≠ 1 ∨ !x.halted ∨ 72 ≤ k then s
      else if !s.imageOk k x.desc then s.onPart k fun x => { x with status := 2 }
      else
        let cb : W64 := BitVec.ofNat 64 (x.desc.kimg + 192)
        let s1 := s.onPart k fun x => { x with cb := cb, halted := false }
        let s2 : State :=
          if s1.teams.any fun t => t.core == .service k then s1
          else { s1 with nextKey := s1.nextKey + 1, teams := s1.teams ++ [Team.ofService s1.nextKey k] }
        s2.enterSupervisor k (cb + BitVec.ofNat 64 (s.readNat (x.desc.kimg + 8) 4)))

end Sys2Proof.Machine
end

