-- ==== Sys2Proof/Machine/Boot.lean ====
section
/-! DEFINITION. Bring-up: cold reset, the replacement of the firmware image, and admission (R2, R14, R16 to R21, R26,
R30). -/

namespace Sys2Proof.Machine

/-- A die's link just trained: every lane at its first number, with all its credits (R22, R25). -/
def Link.trained (d : DieId) : Link :=
  let lanes := [false, true].flatMap fun t =>
    [Channel.request, .response, .snoop, .timing].map fun c => (⟨t, c, 0, 0, Config.flitCredits, [], [], [], 0⟩ : Lane)
  { die := d, st := .active, since := 0, failed := 0, lanes := lanes }

/-- The numbers below `n` whose bit is set in every mask. -/
def admitted (n : Nat) (x y : Nat) : List Nat := (List.range n).filter fun i => x.testBit i && y.testBit i

/-- The Vents that may be admitted: all, but for the fused-off one of a GL9600-P7 (R2). -/
def State.ventAllowed (s : State) (v : Nat) : Bool := s.code != .p7 || v != s.fused

/-- STATE at the end of admission (R16, R17). -/
def State.bootState (s : State) (springs vents : List Nat) : Nat :=
  let expected := if s.code = .p7 then 7 else 8
  if springs.length = 16 ∧ vents.length = expected then 1
  else if springs.isEmpty ∨ vents.isEmpty then 3
  else 2

/-- The root monitor core's own entry among the partitions (R314, R322). -/
def Part.root : Part := { Part.reset 127 with status := 1 }

/-- Steps 3 to 7 of R16: training, attestation, the tables and STATE, and the key pair of key ID 0, Caldera's own (R323).
Caldera's time register runs on (R28, R30). -/
def State.admitDies (s : State) (o : BootOutcome) : State :=
  let springs := admitted 16 o.springsTrained.toNat o.springsAttested.toNat
  let vents := (admitted 8 o.ventsTrained.toNat o.ventsAttested.toNat).filter s.ventAllowed
  let bit (l : List Nat) (n : Nat) : Nat := (l.map fun i => if i < n then 2 ^ i else 0).sum
  ({ s with
      inRom := false
      info :=
        { springs := BitVec.ofNat 16 (bit springs 16)
          vents := BitVec.ofNat 8 (bit vents 8)
          bootSprings := springs
          bootVents := vents
          valid := true
          gen := s.info.gen + 1
          state := s.bootState springs vents }
      links := springs.map (fun n => Link.trained (.spring n)) ++ vents.map fun v => Link.trained (.vent v)
      times := s.time .caldera :: vents.map fun v => TimeReg.reset (.vent v)
      parts := [Part.root] } : State).newKey 0

/-- STATE := FAILED. -/
def State.fail (s : State) : State := { s with info := { s.info with state := 3 } }

/-- Step 2 of R16 and what follows it. -/
def State.bootFrom2 (s : State) (o : BootOutcome) : State :=
  if o.fwOk then s.admitDies o else { s.fail with inRom := true }

/-- COLD_RESET: everything is at reset but for what is fused into the part and the count of admissions; then R16. -/
def execColdReset (o : BootOutcome) (s : State) : Out :=
  let s0 : State :=
    { State.reset with
        agenda := s.agenda
        fresh := s.fresh
        code := s.code
        fused := s.fused
        inRom := false
        info := { State.reset.info with gen := s.info.gen } }
  .next (if o.romOk then s0.bootFrom2 o else s0.fail)

/-- FIRMWARE_IMAGE_REPLACEMENT: while Caldera stays in ROM after a failed check, the image that came is checked. -/
def execFirmwareImageReplacement (o : BootOutcome) (s : State) : Out :=
  .next (if s.inRom ∧ s.info.state = 3 then { s with info := { s.info with state := 0 } }.bootFrom2 o else s)

end Sys2Proof.Machine
end

