-- ==== Sys2Proof/Machine/Hob.lean ====
section
/-! DEFINITION. Class 16: helped objects, as words (R198, R200) and as operations on a line (R193 to R208). The step
at the home slice is HOB_PERFORM. -/

namespace Sys2Proof.Machine

/-! ## The object in its line (R193 to R197) -/

/-- A slot of an object (R194). -/
structure HSlot where
  state  : Nat
  op     : Nat
  ticket : Nat
  owner  : Nat
  w1     : W64
  a      : W64
  b      : W64
  deriving DecidableEq, Repr

/-- An object (R193), with its reserved header bits. -/
structure HObj where
  version : W64
  magic   : Nat
  kind    : Nat
  nslot   : Nat
  rsv     : Bool
  nextt   : Nat
  v0      : W64
  v1      : W64
  slots   : List HSlot
  deriving DecidableEq, Repr

def HSlot.free : HSlot := ⟨0, 0, 0, 0, 0, 0, 0⟩

def word64 (l : List Byte) (i : Nat) : W64 := BitVec.ofNat 64 (natOfBytes ((l.drop (8 * i)).take 8))

/-- A slot from its four words. -/
def slotOfWords (w0 w1 a b : W64) : HSlot :=
  let x := w0.toNat
  ⟨bitsOf x 63 62, bitsOf x 61 54, bitsOf x 53 27, bitsOf x 21 0, w1, a, b⟩

/-- The object that 1,024 bytes hold. -/
def objOfBytes (l : List Byte) : HObj :=
  let h := (word64 l 1).toNat
  { version := word64 l 0, magic := bitsOf h 63 56, kind := bitsOf h 55 48, nslot := bitsOf h 36 32
    rsv := bitsOf h 47 37 != 0 || bitsOf h 31 27 != 0, nextt := bitsOf h 26 0, v0 := word64 l 2, v1 := word64 l 3
    slots := (List.range 31).map fun k =>
      slotOfWords (word64 l (4 + 4 * k)) (word64 l (5 + 4 * k)) (word64 l (6 + 4 * k)) (word64 l (7 + 4 * k)) }

def bytesOf64 (x : W64) : List Byte := bytesOfNat 8 x.toNat

/-- Word 0 of a slot, its reserved bits [26:22] as they stand in `old`. -/
def HSlot.word0 (k : HSlot) (old : Nat) : Nat :=
  k.state * 2 ^ 62 + k.op * 2 ^ 54 + k.ticket * 2 ^ 27 + bitsOf old 26 22 * 2 ^ 22 + k.owner

/-- The 32 bytes of a slot over its old word 0; a slot that is FREE by a class 16 step is all zeros, and one that an
announcement takes starts from zeros. -/
def HSlot.bytes (k : HSlot) (old : Nat) : List Byte :=
  if k = HSlot.free then List.replicate 32 0
  else
    bytesOfNat 8 (k.word0 (if bitsOf old 63 62 = 0 then 0 else old)) ++ bytesOf64 k.w1 ++ bytesOf64 k.a ++ bytesOf64 k.b

/-- Header word 1. -/
def HObj.word1 (o : HObj) (old : Nat) : Nat :=
  o.magic * 2 ^ 56 + o.kind * 2 ^ 48 + bitsOf old 47 37 * 2 ^ 37 + o.nslot * 2 ^ 32 + bitsOf old 31 27 * 2 ^ 27 + o.nextt

/-- A valid object (R195). -/
def HObj.valid (o : HObj) : Bool := o.magic == 0x48 && decide (1 ≤ o.nslot) && decide (o.nslot ≤ 31) && !o.rsv

/-- The 1,024 bytes of an object, over the bytes `old` of the line: what a step leaves alone keeps its bytes. -/
def HObj.bytes (o : HObj) (old : List Byte) : List Byte :=
  bytesOf64 o.version ++ bytesOfNat 8 (if o.valid then o.word1 0 else o.word1 (word64 old 1).toNat) ++ bytesOf64 o.v0 ++
    bytesOf64 o.v1 ++
    ((List.range 31).flatMap fun k =>
      if o.slots.getD k HSlot.free = (objOfBytes old).slots.getD k HSlot.free then (old.drop (32 + 32 * k)).take 32
      else (o.slots.getD k HSlot.free).bytes (word64 old (4 + 4 * k)).toNat)

def HSlot.live (k : HSlot) : Bool := k.state == 1 || k.state == 3

def HObj.slot (o : HObj) (k : Nat) : HSlot := o.slots.getD k HSlot.free
def HObj.setSlot (o : HObj) (k : Nat) (x : HSlot) : HObj := { o with slots := o.slots.set k x }

/-- (NEXTT - t) mod 2^27. -/
def HObj.lag (o : HObj) (t : Nat) : Nat := (o.nextt + 2 ^ 27 - t) % 2 ^ 27

/-- The first live slot (R196): the greatest lag, the lowest number on a tie. -/
def HObj.firstLive (o : HObj) : Option Nat :=
  (List.range 31).foldl
    (fun (b : Option Nat) k =>
      if !(o.slot k).live then b
      else
        match b with
        | none => some k
        | some j => if o.lag (o.slot j).ticket < o.lag (o.slot k).ticket then some k else some j) none

/-- commit(k, x, y) of R197. -/
def HObj.commit (o : HObj) (k : Nat) (x y : W64) : HObj :=
  let sl := o.slot k
  { o.setSlot k (if sl.state = 3 then HSlot.free else { sl with state := 2, a := x, b := y }) with
      version := o.version + 1 }

/-- The new value words of a hardware operation (R197). -/
def hobApply (op : Nat) (a b v0 v1 : W64) : W64 × W64 :=
  if op = 1 then (v0 + a, v1)
  else if op = 2 then (v0 &&& a, v1)
  else if op = 3 then (v0 ||| a, v1)
  else if op = 4 then (v0 ^^^ a, v1)
  else if op = 5 then (if v0.toInt ≤ a.toInt then v0 else a, v1)
  else if op = 6 then (if v0.toInt ≤ a.toInt then a else v0, v1)
  else if op = 7 then (a, v1)
  else if op = 8 then (if v0 = a then b else v0, v1)
  else if op = 9 then (if v0 = a then (b, v1 + 1) else (v0, v1))
  else (v0, v1)

/-- Pre-application (R197), at most `n` commits: at most 31 slots are live. -/
def HObj.preApplyN : Nat → HObj → HObj
  | 0, o => o
  | n + 1, o =>
    match o.firstLive with
    | none => o
    | some k =>
      let sl := o.slot k
      if 0x80 ≤ sl.op then o
      else
        let v := hobApply sl.op sl.a sl.b o.v0 o.v1
        HObj.preApplyN n ({ o with v0 := v.1, v1 := v.2 }.commit k o.v0 o.v1)

/-- Pre-application, which comes before every class 16 instruction (R197), a HINIT that gives BADOBJ and one on a line that
holds no object included, and whether or not the object is valid (R202, R204, R205): DEDUCED (log 98). -/
def HObj.preApply (o : HObj) : HObj := HObj.preApplyN 31 o

/-! ## The steps of R201 to R207, on an object after pre-application -/

/-- Status values (R199). -/
def Status.ok : Nat := 0
def Status.full : Nat := 1
def Status.already : Nat := 2
def Status.stale : Nat := 3
def Status.busy : Nat := 4
def Status.badObj : Nat := 5

/-- A 64-bit operand from the block, registers k and k + 1. -/
def blk64 (ws : List W32) (k : Nat) : W64 := pairOf (ws.getD k 0) (ws.getD (k + 1) 0)

/-- HINIT (R201). -/
def hinitStep (o : HObj) (ws : List W32) : HObj × Nat :=
  let dsc := (ws.getD 0 0).toNat
  let n := bitsOf dsc 4 0
  if bitsOf dsc 31 24 ≠ 0 ∨ bitsOf dsc 15 5 ≠ 0 ∨ n = 0 then (o, Status.badObj)
  else if o.valid ∧ (o.slots.any fun k => k.state != 0) then (o, Status.busy)
  else
    ({ version := if o.valid then o.version + 1 else 0, magic := 0x48, kind := bitsOf dsc 23 16, nslot := n
       rsv := false, nextt := if o.valid then o.nextt else 0, v0 := blk64 ws 2, v1 := blk64 ws 4
       slots := List.replicate 31 HSlot.free }, Status.ok)

/-- A handle (R199). -/
def handleOf (slot ticket : Nat) : W32 := BitVec.ofNat 32 (slot * 2 ^ 27 + ticket)

/-- LDA's image of 8 registers (R204). -/
def ldaImage (o : HObj) (n : Nat) (word1 : W64) : List W32 :=
  let n := if n = 32 then (o.firstLive).getD 31 else n
  if n < o.nslot ∧ n < 31 then
    let k := o.slot n
    [handleOf n k.ticket, BitVec.ofNat 32 (k.state * 2 ^ 30 + k.op * 2 ^ 22 + k.owner), lowHalf o.version,
      highHalf o.version, lowHalf k.a, highHalf k.a, lowHalf k.b, highHalf k.b]
  else
    [BitVec.ofNat 32 (0xF8000000 + o.nextt), highHalf word1, lowHalf o.version, highHalf o.version, lowHalf o.v0,
      highHalf o.v0, lowHalf o.v1, highHalf o.v1]

/-- APPLY (R205). -/
def applyStep (o : HObj) (ws : List W32) : HObj × Nat :=
  let k := (ws.getD 0 0).toNat / 2 ^ 27
  let t := (ws.getD 0 0).toNat % 2 ^ 27
  let sl := o.slot k
  if !o.valid then (o, Status.badObj)
  else if o.nslot ≤ k ∨ !sl.live ∨ sl.ticket ≠ t then (o, Status.already)
  else if sl.op < 0x80 ∨ o.version ≠ blk64 ws 2 ∨ o.firstLive ≠ some k then (o, Status.stale)
  else
    let m := ws.getD 1 0
    ({ o with
        v0 := if m.getLsbD 0 then blk64 ws 4 else o.v0
        v1 := if m.getLsbD 1 then blk64 ws 6 else o.v1 }.commit k (blk64 ws 8) (blk64 ws 10), Status.ok)

/-- ARES (R206): the result, or none, which raises ILLEGAL_STATE. -/
def aresStep (o : HObj) (h : W32) : Option W64 :=
  let sl := o.slot (h.toNat / 2 ^ 27)
  if o.valid ∧ h.toNat / 2 ^ 27 < 31 ∧ sl.state = 2 ∧ sl.ticket = h.toNat % 2 ^ 27 then some sl.a else none

/-- AREL (R207). -/
def arelStep (o : HObj) (h : W32) : HObj :=
  let k := h.toNat / 2 ^ 27
  let sl := o.slot k
  if !o.valid ∨ 31 ≤ k ∨ sl.ticket ≠ h.toNat % 2 ^ 27 then o
  else if sl.state = 2 then { o.setSlot k HSlot.free with version := o.version + 1 }
  else if sl.state = 1 then o.setSlot k { sl with state := 3 }
  else o

/-- ANN (R202): the object with the announcement, and the handle. -/
def annStep (o : HObj) (op owner : Nat) (a b : W64) : HObj × W32 :=
  if !o.valid then (o, 0xFFFFFFF5)
  else
    match (List.range o.nslot).find? fun k => (o.slot k).state == 0 with
    | none => (o, 0xFFFFFFF1)
    | some k =>
      ({ o.setSlot k ⟨1, op, o.nextt, owner, 0, a, b⟩ with nextt := (o.nextt + 1) % 2 ^ 27 }, handleOf k o.nextt)

/-! ## The words (R198, R200) -/

/-- The checks of a class 16 word (R200). -/
def hobChecks (a : RegNum) : List LaneCheck := [(Cause.misaligned, fun t => (t.get64 a.toNat).toNat % 1024 == 0)]

/-- The issue of a class 16 word: `rel` when, its positions checked, it waits as FENCE.rel.device does and is a release; `ops`
are the operand words. -/
def hobWord (p : Pred) (op : HobOp) (ctr : Ctr) (rel : Bool) (d a : RegNum) (len : Nat) (named reads : List Nat)
    (ops : Group → Nat → List W32) (s : State) : Out :=
  issueWord p len (regsFrom a 2 ++ named) (regsFrom a 2 ++ reads) s fun g A s =>
    if g.held ctr ∨ s.lsuHeld g then s
    else
      lsuChecked g A (fun t => (t.get64 a.toNat).toNat) (hobChecks a)
        (fun t => [.va (t.get64 a.toNat).toNat 1024 0]) .atomic s fun ps s =>
          if rel ∧ s.releaseWaits g .device then s
          else
            s.issueOp g A .lsu ctr (.hob op d.toNat)
              (s.atomicAccs g ps (fun t => (t.get64 a.toNat).toNat) (if rel then scopeBit .device else 0) (ops g))
              (g.commandTeam A) len

/-- HINIT. -/
def execHinit (p : Pred) (d a b : RegNum) (s : State) : Out :=
  hobWord p .hinit .ld true d a 1 (d.toNat :: regsFrom b 8) (regsFrom b 8) (fun g i => operandWords g b 8 i) s

/-- HELP (R203). -/
def execHelp (p : Pred) (a : RegNum) (s : State) : Out := hobWord p .help .st true 0 a 1 [] [] (fun _ _ => []) s

/-- LDA (R204): the index is operand b. -/
def execLda (p : Pred) (d a : RegNum) (b : OpB) (s : State) : Out :=
  hobWord p .lda .ld false d a (opBLen b) (regsFrom d 8 ++ opBRegs 1 b) (opBRegs 1 b)
    (fun g i => match g.thread? i with | none => [] | some t => [opBWord g t b]) s

/-- APPLY. -/
def execApply (p : Pred) (d a b : RegNum) (s : State) : Out :=
  hobWord p .apply .ld true d a 1 (d.toNat :: regsFrom b 12) (regsFrom b 12) (fun g i => operandWords g b 12 i) s

/-- ARES. -/
def execAres (p : Pred) (d a b : RegNum) (s : State) : Out :=
  hobWord p .ares .ld false d a 1 (regsFrom d 2 ++ regsFrom b 1) (regsFrom b 1) (fun g i => operandWords g b 1 i) s

/-- AREL. -/
def execArel (p : Pred) (a b : RegNum) (s : State) : Out :=
  hobWord p .arel .st true 0 a 1 (regsFrom b 1) (regsFrom b 1) (fun g i => operandWords g b 1 i) s

/-- ANN with a block of `n` registers. -/
def annWord (p : Pred) (op n : Nat) (d a b : RegNum) (s : State) : Out :=
  hobWord p (.ann op) .ld true d a 1 (d.toNat :: regsFrom b n) (regsFrom b n) (fun g i => operandWords g b n i) s

/-- ANN.add. -/
def execAnnAdd (p : Pred) (d a b : RegNum) (s : State) : Out := annWord p 1 2 d a b s
/-- ANN.and. -/
def execAnnAnd (p : Pred) (d a b : RegNum) (s : State) : Out := annWord p 2 2 d a b s
/-- ANN.or. -/
def execAnnOr (p : Pred) (d a b : RegNum) (s : State) : Out := annWord p 3 2 d a b s
/-- ANN.xor. -/
def execAnnXor (p : Pred) (d a b : RegNum) (s : State) : Out := annWord p 4 2 d a b s
/-- ANN.min. -/
def execAnnMin (p : Pred) (d a b : RegNum) (s : State) : Out := annWord p 5 2 d a b s
/-- ANN.max. -/
def execAnnMax (p : Pred) (d a b : RegNum) (s : State) : Out := annWord p 6 2 d a b s
/-- ANN.swap. -/
def execAnnSwap (p : Pred) (d a b : RegNum) (s : State) : Out := annWord p 7 2 d a b s
/-- ANN.cas. -/
def execAnnCas (p : Pred) (d a b : RegNum) (s : State) : Out := annWord p 8 4 d a b s
/-- ANN.cas2. -/
def execAnnCas2 (p : Pred) (d a b : RegNum) (s : State) : Out := annWord p 9 4 d a b s
/-- ANN.sw: the OP code is v[d][7:0], read before v[d] is written (R202). -/
def execAnnSw (p : Pred) (d a b : RegNum) (s : State) : Out :=
  hobWord p .annSw .ld true d a 1 (d.toNat :: regsFrom b 4) (d.toNat :: regsFrom b 4)
    (fun g i => operandWords g b 4 i ++ operandWords g d 1 i) s

end Sys2Proof.Machine
end

