-- ==== Sys2Proof/Machine/CmdProc.lean ====
section
/-! DEFINITION. The command processor's accesses and reports: reads and writes under a PASID, the status block, queue
errors, and the launch record (R289, R296 to R299, R322). -/

namespace Sys2Proof.Machine

/-! ## Accesses (R296, R297) -/

/-- The command processor as a party that translates. It keeps no translation cache. -/
def cpCore : CoreId := .vent 8 0 0

/-- The valid context of a partition that has a PASID (R322). -/
def Part.ctxOf (x : Part) (pasid : Nat) : Option Nat :=
  (x.ctxp.find? fun e => bitsOf e.2.toNat 31 31 == 1 && bitsOf e.2.toNat 19 0 == pasid).map (·.1)

/-- The context of a queue. -/
def State.queueCtx (s : State) (d : QDesc) : Option Nat := (s.part? d.part).bind fun x => x.ctxOf d.pasid

/-- What an access of the command processor meets: its place, a refusal code (R297), or a wait, with the dies whose links
it needs (R25). -/
inductive CpPlace where
  | ok (key : Nat)
  | err (code : Nat)
  | wait (dies : List DieId)
  deriving DecidableEq, Repr

/-- Refusal codes (R297). -/
def Code.badCmd : Nat := 0x01
def Code.badRec : Nat := 0x02
def Code.badGraph : Nat := 0x03
def Code.overrun : Nat := 0x04
def Code.noFit : Nat := 0x05
def Code.unsync : Nat := 0x06
def Code.late : Nat := 0x07
def Code.timeout : Nat := 0x08
def Code.translation : Nat := 0x09
def Code.permission : Nat := 0x0A
def Code.failed : Nat := 0x0B
def Code.noPeer : Nat := 0x0C
def Code.badQueue : Nat := 0x0D
def Code.lost : Nat := 0x0E

/-- Translate an access of `n` bytes that lie in one page. It waits for the links of the line's home, and of the Spring or the
Vent that has what the home lacks (R25). -/
def State.cpPlace (s : State) (part ctx va n : Nat) (need : Need) : CpPlace :=
  match s.xlate ⟨cpCore, part, ctx⟩ va n need with
  | .translation => .err Code.translation
  | .permission => .err Code.permission
  | .lost _ => .err Code.lost
  | .wait ds => .wait ds
  | .ok key =>
    match s.readBar cpCore key n with
    | some (.lost _) => .err Code.lost
    | some (.wait ds) => .wait ds
    | some _ => .wait []
    | none => .ok key

/-- The command processor's access to a line has crossed the links that it needs (R24). -/
def State.cpCross (s : State) (key : Nat) : State := s.causal (s.readDies cpCore key 1)

/-- The code of a lost line where R297 names none: only a SIGNAL and an AFTER are refused with LOST. DEDUCED (log 99). -/
def codeOfLost (code : Nat) : Nat := if code = Code.lost then Code.translation else code

/-- What a read gives. -/
inductive CpRead where
  | ok (l : List Byte)
  | err (code : Nat)
  | wait (dies : List DieId)
  deriving DecidableEq, Repr

/-- Read `n` bytes of one page, as a command, a record, a descriptor or a watched line. -/
def State.cpReadIn (s : State) (part ctx va n : Nat) : CpRead :=
  match s.cpPlace part ctx va n .read with
  | .err c => .err (codeOfLost c)
  | .wait ds => .wait ds
  | .ok key => if (s.lostAt key n).isSome then .err Code.translation else .ok (s.readBytes key n)

/-- Read `n` pieces of 64 bytes. -/
def State.cpRead (s : State) (part ctx va : Nat) : Nat → CpRead
  | 0 => .ok []
  | n + 1 =>
    match s.cpReadIn part ctx va 64 with
    | .ok l =>
      match s.cpRead part ctx (va + 64) n with
      | .ok r => .ok (l ++ r)
      | x => x
    | x => x

/-- The command processor has read `n` bytes at `va`, all that follows is after what it read (R24). -/
def State.cpCrossAt (s : State) (part ctx va n : Nat) : State :=
  match s.cpPlace part ctx va n .read with
  | .ok key => (s.causal (s.walkDies cpCore part ctx va)).cpCross key
  | _ => s

/-- A write of bytes of one line by the command processor, atomic and a release at SYSTEM scope: it waits for ownership
of the line at its home (R157, R191); `fail` is what a failed translation does. -/
def State.cpStore (s : State) (part ctx va : Nat) (bs : List Byte) (fail : Nat → State → State) (k : State → State) :
    State :=
  match s.cpPlace part ctx va bs.length .write with
  | .err c => fail c s
  | .wait ds => s.wakeLinks ds
  | .ok key =>
    let s1 := (s.causal (s.walkDies cpCore part ctx va)).cpCross key
    let vent := s1.homeVent (lineOf key)
    if s1.mayWrite vent (lineOf key) then k ((s1.storeAt vent (part, ctx) key bs).clearNarrow (lineOf key))
    else s1.askOwn vent (lineOf key)

/-- The cause that a queue write report names (R296). -/
def reportCause (code : Nat) : Nat := if code = Code.permission then Cause.permission else Cause.translation

/-- A queue write report, KIND 6 (R296). -/
def State.queueReport (s : State) (part ctx code : Nat) (faddr : W64) (queue : Nat) (grid : W32) : State :=
  s.addPost part
    { kind := 6, cause := reportCause code, flags := 0, state := 2, active := 0, fmask := 0, faddr := faddr, waddr := 0
      kaddr := 0, hdr := 0, svc := 0, team := BitVec.ofNat 32 queue, ctx := ctx, core := 0, place := 0, grid := grid
      blocks := [], parking := none }

/-- A completion word (R104): the grid's identity over its cause. -/
def doneWord (id : W32) (cause : Nat) : List Byte := bytesOfNat 8 (id.toNat * 2 ^ 32 + cause % 256)

/-- Write a DONE or completion word, if there is one; where it cannot be written the report takes its place. -/
def State.writeDone (s : State) (part ctx : Nat) (queue : Option Nat) (addr : W64) (id : W32) (cause : Nat)
    (k : State → State) : State :=
  if addr = 0 then k s
  else
    s.cpStore part ctx addr.toNat (doneWord id cause)
      (fun c s => k (s.queueReport part ctx c addr (queue.getD 0) id)) k

/-! ## Queues: status blocks and errors (R289, R297) -/

/-- The queue enters ERROR with a code. What has started runs on, a started AFTER too. -/
def State.queueError (s : State) (q code : Nat) : State :=
  s.onQueue q fun x => { x with status := 3, code := code, eligible := 0 }

/-- A status block could not be written: the queue enters ERROR and is reported, once; no write of it is due any more. -/
def State.statusFails (s : State) (q : Nat) (d : QDesc) (ctx code : Nat) : State :=
  ((s.queueError q code).onQueue q fun x => { x with statusDue := false }).queueReport d.part ctx code d.ridxa q 0

/-- Write the status block of a queue that holds a descriptor. A write that fails puts the queue into ERROR and is reported,
with context 0 where no valid context has the queue's PASID any more, DESIGN CHOICE (log 100). A write that has to wait is
due until it is made. -/
def State.writeStatus (s : State) (q : Nat) : State :=
  let x := s.queue q
  match x.desc with
  | none => s
  | some d =>
    match s.queueCtx d with
    | none => s.statusFails q d 0 Code.translation
    | some c =>
      match s.cpPlace d.part c d.ridxa.toNat 16 .write with
      | .err code => s.statusFails q d c (codeOfLost code)
      | .wait ds => (s.onQueue q fun x => { x with statusDue := true }).wakeLinks ds
      | .ok key =>
        (((if x.statusDue then s.onQueue q fun x => { x with statusDue := false } else s)).cpCross key).deviceWrite (128 + q)
          key (bytesOf64 x.ridx ++ bytesOfNat 8 x.statusWord)

/-- Whether the write of a queue's status block would have to wait. -/
def State.statusWaits (s : State) (q : Nat) : Bool :=
  match (s.queue q).desc with
  | none => false
  | some d =>
    match s.queueCtx d with
    | none => false
    | some c =>
      match s.cpPlace d.part c d.ridxa.toNat 16 .write with
      | .wait _ => true
      | _ => false

/-- A command is refused (R297): RIDX stays. -/
def State.refuse (s : State) (q code : Nat) : State := (s.queueError q code).writeStatus q

/-! ## The launch record (R82, R298) -/

/-- The role entries of a record. -/
def rolesOf (l : List Byte) : List RoleRec :=
  let role (k : Nat) : RoleRec :=
    ⟨BitVec.ofNat 32 (fld l (80 + 8 * k) (83 + 8 * k)), fld l (84 + 8 * k) (85 + 8 * k), fld l (86 + 8 * k) (86 + 8 * k)⟩
  if fld l 18 18 = 0 then [⟨(role 0).start, fld l 16 17, (role 0).cap⟩] else (List.range (fld l 18 18)).map role

def launchOf (l : List Byte) : LaunchRec :=
  { cb := BitVec.ofNat 64 (fld l 0 7)
    d := fld l 8 8
    cl := fld l 9 9
    width := fld l 10 10
    cor := fld l 11 11 % 2 == 1
    t := fld l 12 15
    threads := fld l 16 17
    nroles := fld l 18 18
    tiles := fld l 19 19
    scratch := fld l 20 23
    cws := fld l 24 27
    wsize := fld l 28 31
    asize := fld l 32 35
    dws := fld l 36 39
    dwb := BitVec.ofNat 64 (fld l 40 47)
    pvb := BitVec.ofNat 64 (fld l 48 55)
    pvs := fld l 56 59
    splim := BitVec.ofNat 32 (fld l 60 63)
    seed := BitVec.ofNat 32 (fld l 64 67)
    sptn := fld l 68 71
    spta := BitVec.ofNat 64 (fld l 72 79)
    roles := rolesOf l }

/-- The ENDs rise strictly from `b`. -/
def endsRise : Nat → List RoleRec → Bool
  | _, [] => true
  | b, r :: l => decide (b < r.stop) && endsRise r.stop l

/-- The limits of R298. -/
def recordOk (l : List Byte) : Bool :=
  let x := launchOf l
  let nr := x.nroles
  decide (fld l 0 7 % 4 = 0 ∧ 1 ≤ x.d ∧ x.d ≤ 8 ∧ 1 ≤ x.cl ∧ x.cl ≤ 8 ∧ fld l 11 11 < 2 ∧ 1 ≤ x.t ∧ x.t ≤ 65536 ∧
      1 ≤ x.threads ∧ x.threads ≤ 2048 ∧ nr ≤ 4 ∧ x.tiles ≤ 16 ∧ x.scratch ≤ 524288) &&
    [8, 16, 32, 64].contains x.width &&
    decide (x.cws % 256 = 0 ∧ x.cws ≤ x.scratch ∧ x.wsize % 4096 = 0 ∧ x.wsize ≤ 262144 ∧ x.asize % 4096 = 0 ∧
      x.asize ≤ 131072 ∧ x.dws % 65536 = 0 ∧ x.dws ≤ 67108864 ∧ fld l 40 47 % 65536 = 0) &&
    decide ((x.dws = 0 → fld l 40 47 = 0) ∧ fld l 48 55 % 256 = 0 ∧ x.pvs % 16 = 0 ∧ 16 ≤ x.pvs ∧ x.pvs ≤ 1048576 ∧
      fld l 72 79 % 8 = 0) &&
    zeros l 112 127 && endsRise 0 x.roles && ((x.roles.getLast?).map fun r => r.stop == x.threads).getD false &&
    (x.roles.all fun r => decide (r.start.toNat % 4 = 0 ∧ 8 ≤ r.cap ∧ r.cap ≤ 64 ∧ r.cap % 8 = 0)) &&
    (List.range 4).all fun k =>
      zeros l (87 + 8 * k) (87 + 8 * k) && (decide (k < nr) || zeros l (80 + 8 * k) (87 + 8 * k) ||
        (nr == 0 && k == 0 && zeros l 84 85))

end Sys2Proof.Machine
end

