-- ==== Sys2Proof/Machine/Flow.lean ====
section
/-! DEFINITION. Classes 10 and 11: control words (R97 to R104, R223, R225 to R230). -/

namespace Sys2Proof.Machine

/-! ## Branches, calls and returns -/

/-- The address of the word that issues. -/
def Group.wordAddr (g : Group) : W64 := (g.clause.map (·.kept)).getD 0

/-- The target of a B22 word (R49). -/
def branchTarget (g : Group) (off : BitVec 22) : W64 := g.wordAddr + 4 * off.signExtend 64

/-- The lanes of `A` whose threads `f` accepts. -/
def Group.lanesWhere (g : Group) (A : Mask) (f : Thread → Bool) : Mask :=
  maskOf fun i => A.getLsbD i && ((g.thread? i).map f).getD false

/-- Lanes of `A` go to `t`, the others to next. -/
def goTo (A : Mask) (t next : W64) : Nat → Option W64 := fun i => some (if A.getLsbD i then t else next)

/-- A branch of the active lanes to `t` (R97). -/
def branchTo (t : W64) (g : Group) (e : Entry) (next : W64) (A : Mask) (s : State) : State :=
  s.control g g e A (goTo A t next)

/-- A call of the active lanes to `t` (R97): link and depth, with the depth checked first. -/
def callTo (t : W64) (g : Group) (e : Entry) (next : W64) (A : Mask) (s : State) : State :=
  let deep := g.lanesWhere A fun u => u.depth == 65535
  if deep ≠ 0 then s.trap g A Cause.stackLimit deep 0
  else
    let link := s.offsetOf g next
    s.control g (g.onLanes A fun _ u => { u.put 1 link with depth := u.depth + 1 }) e A (goTo A t next)

/-- BRA. -/
def execBra (p : Pred) (off : BitVec 22) (s : State) : Out :=
  issueControl p [] [] s fun g e next A s => branchTo (branchTarget g off) g e next A s

/-- CALL. -/
def execCall (p : Pred) (off : BitVec 22) (s : State) : Out :=
  issueControl p [] [] s fun g e next A s => callTo (branchTarget g off) g e next A s

/-- A uniform target (R95, R98): misaligned offsets trap first. -/
def uniformTarget (sa : RegNum) (k : W64 → Group → Entry → W64 → Mask → State → State) (g : Group) (e : Entry)
    (next : W64) (A : Mask) (s : State) : State :=
  let o := g.sGet sa.toNat
  if o.toNat % 4 ≠ 0 then s.trap g A Cause.misaligned A 0
  else k (s.cbOf g + o.setWidth 64) g e next A s

/-- JMP. -/
def execJmp (p : Pred) (sa : RegNum) (s : State) : Out := issueControl p [] [] s (uniformTarget sa branchTo)

/-- CALL with a uniform target. -/
def execCallUniform (p : Pred) (sa : RegNum) (s : State) : Out := issueControl p [] [] s (uniformTarget sa callTo)

/-- RET (R98): each active lane goes to CB + v1. -/
def execRet (p : Pred) (s : State) : Out :=
  issueControl p [1] [1] s fun g e next A s =>
    let under := g.lanesWhere A fun u => u.depth == 0
    let odd := g.lanesWhere A fun u => (u.get 1).toNat % 4 != 0
    if under ≠ 0 then s.trap g A Cause.retUnderflow under 0
    else if odd ≠ 0 then s.trap g A Cause.misaligned odd 0
    else
      s.control g (g.onLanes A fun _ u => { u with depth := u.depth - 1 }) e A fun i =>
        if A.getLsbD i then (g.thread? i).map fun u => s.cbOf g + (u.get 1).setWidth 64 else some next

/-! ## NOP, YIELD and TAIL -/

/-- NOP. -/
def execNop (p : Pred) (s : State) : Out :=
  issueControl p [] [] s fun g e next A s => s.control g g e A fun _ => some next

/-- YIELD (R102): the group does not count as ready for its slot's next 16 turns. -/
def execYield (p : Pred) (s : State) : Out :=
  issueControl p [] [] s fun g e next A s =>
    s.control g { g with run := .yielding 16 } e A fun _ => some next

/-- The threads of the lanes in `A` end (R99, R101, R215). -/
def endThreads (g : Group) (A : Mask) (s : State) : State :=
  ((lanesOf A).filterMap g.thread?).foldl
    (fun s t => (s.leaveBarriers t).onTeam t.team fun x => { x with ended := x.ended + 1 }) s

/-- The lanes in `A` are live no longer, by TAIL or by REGROUP: the operand latch empties (R244). -/
def Group.dropLanes (g : Group) (A : Mask) : Group :=
  { g with
    latch := if A = 0 then g.latch else none
    lanes := g.lanes.mapIdx fun i o => if A.getLsbD i then none else o }

/-- The lanes outside `A` go to next, those in `A` nowhere. -/
def leave (A : Mask) (next : W64) : Nat → Option W64 := fun i => if A.getLsbD i then none else some next

/-- TAIL (R99). -/
def execTail (p : Pred) (s : State) : Out :=
  issueControl p [] [] s fun g e next A s =>
    s.controlThen g (g.dropLanes A) e A (leave A next) (endThreads g A)

/-! ## SPAWN (R103, R104) -/

/-- The Vent whose child ring a core's SPAWN uses: its own (R308). A service core lies on no Vent; R320 has its SPAWN form groups
all the same: the lowest live Vent on which its partition has a cluster, DESIGN CHOICE (log 14). -/
def State.childVent (s : State) (c : CoreId) : Option Nat :=
  match c with
  | .vent v _ _ => some v
  | .service k =>
    (s.part? k).bind fun x => s.liveVents.find? fun v => (List.range 8).any fun i => x.desc.clmask.getLsbD (8 * v + i)

/-- Whether that ring, or its adopter for it, can take a child launch (R308, R309). -/
def State.childRoom (s : State) (c : CoreId) : Bool :=
  match s.childVent c with
  | none => false
  | some v => decide ((((s.scheds.find? fun d => d.vent == v).map fun d => d.children.length).getD 0) < Config.childRingSize)

/-- A die scheduler core that has nothing to do. -/
def Scheduler.idle (v : Nat) : Scheduler := ⟨v, 0, false, none, []⟩

def State.onSched (s : State) (v : Nat) (f : Scheduler → Scheduler) : State :=
  { s with scheds := upsert (fun d => d.vent == v) f (Scheduler.idle v) s.scheds }

/-- The child launch of a thread's SPAWN (R104, R320). That of a service core belongs to context 0 of its partition, at the
highest priority level, in which its LREC and DONE are read and its grid runs: DESIGN CHOICE (log 14). -/
def State.childOf (s : State) (g : Group) (t : Thread) (lrec done : W64) : Option Child :=
  match g.core, s.grid? g.grid with
  | .vent _ _ _, some x =>
    some ⟨s.nextGrid, lrec, done, x.depth + 1, t.team, x.part, x.ctx, x.pasid, x.level, x.queue, false, g.supervisor⟩
  | .service k, _ =>
    some ⟨s.nextGrid, lrec, done, 1, t.team, k, 0, ((s.part? k).map fun x => x.ctxpOf 0 % 2 ^ 20).getD 0, 0, none, false,
      g.supervisor⟩
  | _, _ => none

/-- Queue a child launch (R104). -/
def State.queueChild (s : State) (g : Group) (t : Thread) (lrec done : W64) : State :=
  match s.childVent g.core, s.childOf g t lrec done with
  | some v, some c => ({ s with nextGrid := s.nextGrid + 1 }).onSched v fun d => { d with children := d.children ++ [c] }
  | _, _ => s

/-- `sr.depth` of a group's threads (R81). -/
def State.depthOf (s : State) (g : Group) : Nat := ((s.grid? g.grid).map (·.depth)).getD 0

/-- SPAWN, once its block is read. -/
def spawnBlock (sd ps : RegNum) (g : Group) (e : Entry) (next : W64) (A : Mask) (t : Thread) (l : List Byte)
    (s : State) : State :=
  let lrec := fld l 0 7
  let done := fld l 8 15
  match firstFail [(zeros l 16 31, Cause.illegalInstruction),
      (lrec % 64 == 0 && done % 8 == 0, Cause.misaligned), (s.depthOf g != 10, Cause.spawnDepth)] with
  | some c => s.trap g A c A (g.blockAddr ps)
  | none =>
    let put (g : Group) (x y : W32) := if sd.toNat < 62 then (g.sPut sd.toNat x).sPut (sd.toNat + 1) y else g
    if s.childRoom g.core then
      s.controlThen g (put g s.nextGrid 0) e A (fun _ => some next)
        (fun r => r.queueChild g t (BitVec.ofNat 64 lrec) (BitVec.ofNat 64 done))
    else s.control g (put g 0 1) e A fun _ => some next

/-- SPAWN. -/
def execSpawn (p : Pred) (sd ps : RegNum) (s : State) : Out :=
  issueControl p [] [] s fun g e next A s =>
    match (lanesOf A).filterMap g.thread? with
    | [t] =>
      if t.tid ≠ 0 then s.trap g A Cause.illegalState A 0
      else withBlock g A ps 32 s fun l => spawnBlock sd ps g e next A t l s
    | _ => s.trap g A Cause.illegalState A 0

/-! ## REGROUP (R220 to R230) -/

/-- Record slots of a core's continuation store (R220, R319). -/
def contSlots (c : CoreId) : Nat := if isService c then 1024 else 4096

/-- Slots in use. -/
def CoreState.usedSlots (c : CoreState) : Nat := (c.bins.map fun b => (b.recs.map (·.slots)).sum).sum

/-- Whether a bin has the tuple of a record (R222, R225). -/
def Bin.matches (b c : Bin) : Bool :=
  b.grid == c.grid && b.sup == c.sup && b.resume == c.resume && b.prio == c.prio && b.key == c.key &&
    b.role == c.role && b.team == c.team

/-- Append a record to the bin of its tuple (R222). `b` is an empty bin with the tuple. -/
def CoreState.deposit (c : CoreState) (b : Bin) (r : Rec) : CoreState :=
  { c with bins := upsert (fun x => x.matches b) (fun x => { x with recs := x.recs ++ [r] }) b c.bins }

/-- The record that a lane deposits by REGROUP (R221, R227): live count L. -/
def regroupRec (t : Thread) (L age : Nat) : Rec :=
  ⟨t.keep L, true, L, 2 + (L + 7) / 8, age, false⟩

/-- The bin of a lane's record, with no record in it. -/
def regroupBin (g : Group) (t : Thread) (vkey : RegNum) (resume : W32) (prio : Nat) (mix : Bool) : Bin :=
  { grid := g.grid, sup := g.supervisor, resume := resume, prio := prio, key := (t.get vkey.toNat).setWidth 16
    role := g.role, team := if mix && !(isService g.core) then none else some t.team, recs := [], flushed := false
    waiting := none, room := false }

/-- The distinct tuples among `l` that no bin of `bins` has. -/
def newBins (bins : List Bin) : List Bin → List Bin → List Bin
  | acc, [] => acc
  | acc, b :: l => newBins bins (if (bins ++ acc).any fun x => x.matches b then acc else acc ++ [b]) l

/-- REGROUP with its priority read (R227). -/
def regroupAt (L : Nat) (vkey : RegNum) (mix : Bool) (prio : Nat) (g : Group) (e : Entry) (next : W64) (A : Mask)
    (s : State) : State :=
  let ts := (lanesOf A).filterMap g.thread?
  let bin (t : Thread) := regroupBin g t vkey (s.offsetOf g next) prio mix
  let need := ts.length * (2 + (L + 7) / 8)
  let c := s.core g.core
  if contSlots g.core < c.usedSlots + need ∨ 1024 < c.bins.length + (newBins c.bins [] (ts.map bin)).length then
    s.trap g A Cause.contFull A 0
  else
    let age := s.cyclesOf g.core
    s.controlThen g (g.dropLanes A) e A (leave A next) fun s =>
      s.setCore g.core fun c => ts.foldl (fun c t => c.deposit (bin t) (regroupRec t L age)) c

/-- REGROUP. -/
def execRegroup (p : Pred) (l vkey : RegNum) (b : OpS) (s : State) : Out :=
  issueControl p [vkey.toNat, l.toNat] (vkey.toNat :: List.range (l.toNat + 1)) s fun g e next A s =>
    let desc := opSWord g b
    if desc.toNat / 2 ≠ 0 then s.trap g A Cause.illegalState A 0
    else if !g.cnt.allZero then s
    else
      match s.fetchWord (s.whoOf g) next with
      | .wait ds => s.wakeLinks ds
      | .lost c => s.terminateOf g A c
      | .fault c => s.trap g A c A next
      | .word h => regroupAt (l.toNat + 1) vkey (desc.toNat % 2 == 1) (prioOf h) g e next A s

/-- REGROUP.FLUSH (R223, R230). -/
def execRegroupFlush (p : Pred) (s : State) : Out :=
  issueControl p [] [] s fun g e next A s =>
    s.controlThen g g e A (fun _ => some next) fun s =>
      s.setCore g.core fun c =>
        { c with
            bins := c.bins.map fun b =>
              if b.grid == g.grid && b.sup == g.supervisor then { b with flushed := true } else b }

end Sys2Proof.Machine
end

