-- ==== Sys2Proof/WellFormed.lean ====
section
/-! DEFINITION. Which instruction terms stand for words (03 R46 to R53): the limits on register numbers, fields and
operands that do not depend on the machine's state. A word outside them meets a fate of R53. -/

namespace Sys2Proof

/-- The pair pred = 7, inv = 1 is reserved (R46). -/
def Pred.wf (p : Pred) : Bool := !(p.reg == 7 && p.inv)

/-- An even register, the lower of a pair (R127). -/
def evenR (r : RegNum) : Bool := r.toNat % 2 == 0

/-- A register number that is a multiple of n (R166, R198). -/
def multR (n : Nat) (r : RegNum) : Bool := r.toNat % n == 0

/-- Operand b names no s63: with U = 1 that is the literal (R47). -/
def opBOk : OpB → Bool
  | .v _ => true
  | .s r => r != 63
  | .lit _ => true

/-- As `opBOk`, for the uniform forms. -/
def opSOk : OpS → Bool
  | .s r => r != 63
  | .lit _ => true

/-- A 64-bit operand b (R127): an even pair, s62 for zero, or a literal. -/
def pairB : OpB → Bool
  | .v r => evenR r
  | .s r => evenR r
  | .lit _ => true

/-- A uniform pair destination: even, 0 to 60, or 62 to discard (R107, R103, R332). -/
def pairD (r : RegNum) : Bool := evenR r

/-- A uniform pair: even, 0 to 60 (R34, R332). -/
def pairS (r : RegNum) : Bool := evenR r && r != 62

/-- A uniform source s0 to s61 of class 24 (R332). -/
def srcS (r : RegNum) : Bool := r.toNat < 62

/-- Memory operand limits (R51): a base pair of `.gl` is even. -/
def memOk (m : MemOp) : Bool := m.space != .gl || evenR m.base

/-- What every ATOM keeps (R185): an even pair base for `.gl`, an even d for `.b64`. -/
def atomBase (x : AtomArgs) : Bool := (x.sc || evenR x.a) && (!x.b64 || evenR x.d)

/-- ATOM operations that take all orders (R183). -/
def atomOkAll (x : AtomArgs) : Bool := atomBase x

/-- ATOM.ld takes rlx and acq (R183). -/
def atomOkLd (x : AtomArgs) : Bool := atomBase x && (x.ord == .rlx || x.ord == .acq)

/-- ATOM.st takes rlx and rel (R183). -/
def atomOkSt (x : AtomArgs) : Bool := atomBase x && (x.ord == .rlx || x.ord == .rel)

/-- ATOM.cas takes a pair for `.b32` and a block of four for `.b64` (R183). -/
def atomOkCas (x : AtomArgs) : Bool := atomBase x && multR (if x.b64 then 4 else 2) x.d

/-- A space that CPY may name (R274). -/
def cpySpace : Space → Bool
  | .gl | .sc | .w | .a => true
  | .pv | .rs => false

/-- The limits of R274 that do not depend on the cap. -/
def cpyOk (x : CpyArgs) : Bool :=
  cpySpace x.dsp && cpySpace x.ssp && !(x.sw && x.dsp == .gl) &&
    (x.dsp != .gl || evenR x.d) && (x.ssp != .gl || evenR x.a)

/-- Whether a term stands for an instruction word. No event does. -/
def Instr.wf : Instr → Bool
  | .iadd p _ _ b => p.wf && opBOk b
  | .isub p _ _ b => p.wf && opBOk b
  | .iaddSatI32 p _ _ b => p.wf && opBOk b
  | .isubSatI32 p _ _ b => p.wf && opBOk b
  | .imul p _ _ b => p.wf && opBOk b
  | .imulhI32 p _ _ b => p.wf && opBOk b
  | .imulhN32 p _ _ b => p.wf && opBOk b
  | .imad p _ _ b => p.wf && opBOk b
  | .iminI32 p _ _ b => p.wf && opBOk b
  | .iminN32 p _ _ b => p.wf && opBOk b
  | .imaxI32 p _ _ b => p.wf && opBOk b
  | .imaxN32 p _ _ b => p.wf && opBOk b
  | .iabs p _ _ => p.wf
  | .ineg p _ _ => p.wf
  | .iaddSatN32 p _ _ b => p.wf && opBOk b
  | .isubSatN32 p _ _ b => p.wf && opBOk b
  | .shlB32 p _ _ b => p.wf && opBOk b
  | .shrN32 p _ _ b => p.wf && opBOk b
  | .shrI32 p _ _ b => p.wf && opBOk b
  | .rolB32 p _ _ b => p.wf && opBOk b
  | .popc p _ _ => p.wf
  | .clz p _ _ => p.wf
  | .brev p _ _ => p.wf
  | .bfeN32 p _ _ b => p.wf && opBOk b
  | .bfeI32 p _ _ b => p.wf && opBOk b
  | .bfi p _ _ b => p.wf && opBOk b
  | .iaddI64 p d a b => p.wf && evenR d && evenR a && pairB b
  | .isubI64 p d a b => p.wf && evenR d && evenR a && pairB b
  | .imulI64 p d a b => p.wf && evenR d && evenR a && pairB b
  | .shlB64 p d a b => p.wf && evenR d && evenR a && opBOk b
  | .shrN64 p d a b => p.wf && evenR d && evenR a && opBOk b
  | .shrI64 p d a b => p.wf && evenR d && evenR a && opBOk b
  | .iand p _ _ b => p.wf && opBOk b
  | .ior p _ _ b => p.wf && opBOk b
  | .ixor p _ _ b => p.wf && opBOk b
  | .iandn p _ _ b => p.wf && opBOk b
  | .cmpI32 p _ pd _ b => p.wf && pd != 7 && opBOk b
  | .cmpN32 p _ pd _ b => p.wf && pd != 7 && opBOk b
  | .cmpI64 p _ pd a b => p.wf && pd != 7 && evenR a && pairB b
  | .cmpN64 p _ pd a b => p.wf && pd != 7 && evenR a && pairB b
  | .mov p _ b => p.wf && opBOk b
  | .fmin p _ _ b => p.wf && opBOk b
  | .fmax p _ _ b => p.wf && opBOk b
  | .fabs p _ _ => p.wf
  | .fneg p _ _ => p.wf
  | .fcmp p _ pd _ b => p.wf && pd != 7 && opBOk b
  | .fclass p _ _ => p.wf
  | .frcp p _ _ => p.wf
  | .fsqrt p _ _ => p.wf
  | .frsq p _ _ => p.wf
  | .fexp2 p _ _ => p.wf
  | .flog2 p _ _ => p.wf
  | .paddBf16 p _ _ b => p.wf && opBOk b
  | .psubBf16 p _ _ b => p.wf && opBOk b
  | .pmulBf16 p _ _ b => p.wf && opBOk b
  | .pfmaBf16 p _ _ b => p.wf && opBOk b
  | .pminBf16 p _ _ b => p.wf && opBOk b
  | .pmaxBf16 p _ _ b => p.wf && opBOk b
  | .pdotBf16 p _ _ b => p.wf && opBOk b
  | .pdotE4m3 p _ _ b => p.wf && opBOk b
  | .pdotE5m2 p _ _ b => p.wf && opBOk b
  | .pminE4m3 p _ _ b => p.wf && opBOk b
  | .pmaxE4m3 p _ _ b => p.wf && opBOk b
  | .pminE5m2 p _ _ b => p.wf && opBOk b
  | .pmaxE5m2 p _ _ b => p.wf && opBOk b
  | .cvtBf16F32 p _ _ _ => p.wf
  | .cvtE4m3F32 p _ _ _ => p.wf
  | .cvtE5m2F32 p _ _ _ => p.wf
  | .cvtF32Bf16 p _ _ => p.wf
  | .cvtF32E4m3 p _ _ => p.wf
  | .cvtF32E5m2 p _ _ => p.wf
  | .cvtI32F32 p _ _ _ => p.wf
  | .cvtN32F32 p _ _ _ => p.wf
  | .cvtF32I32 p _ _ _ => p.wf
  | .cvtF32N32 p _ _ _ => p.wf
  | .cvtF32I64 p _ _ a => p.wf && evenR a
  | .packBf16 p _ _ a => p.wf && evenR a
  | .packE4m3 p _ _ a => p.wf && multR 4 a
  | .packE5m2 p _ _ a => p.wf && multR 4 a
  | .pand p pd _ _ => p.wf && pd != 7
  | .por p pd _ _ => p.wf && pd != 7
  | .pxor p pd _ _ => p.wf && pd != 7
  | .pandn p pd _ _ => p.wf && pd != 7
  | .psave p _ => p.wf
  | .prest p _ => p.wf
  | .voteAny p pd _ => p.wf && pd != 7
  | .voteAll p pd _ => p.wf && pd != 7
  | .voteBallot p sd _ => p.wf && pairD sd
  | .voteEq p pd _ => p.wf && pd != 7
  | .shflIdx p _ _ b => p.wf && opBOk b
  | .shflUp p _ _ b => p.wf && opBOk b
  | .shflDown p _ _ b => p.wf && opBOk b
  | .shflXor p _ _ b => p.wf && opBOk b
  | .rdfl p sd _ => p.wf && sd != 63
  | .rdln p sd _ b => p.wf && sd != 63 && opSOk b
  | .nop p => p.wf
  | .tail p => p.wf
  | .yield p => p.wf
  | .spawn p sd ps => p.wf && pairD sd && ps != 63
  | .regroup p _ _ b => p.wf && opSOk b
  | .regroupFlush p => p.wf
  | .ret p => p.wf
  | .jmp p sa => p.wf && sa != 63
  | .callUniform p sa => p.wf && sa != 63
  | .ldB8 p d x => p.wf && memOk x && multR 1 d
  | .ldB16 p d x => p.wf && memOk x && multR 1 d
  | .ldB32 p d x => p.wf && memOk x && multR 1 d
  | .ldB64 p d x => p.wf && memOk x && multR 2 d
  | .ldB128 p d x => p.wf && memOk x && multR 4 d
  | .ldI8 p d x => p.wf && memOk x && multR 1 d
  | .ldI16 p d x => p.wf && memOk x && multR 1 d
  | .stB8 p d x => p.wf && memOk x && multR 1 d
  | .stB16 p d x => p.wf && memOk x && multR 1 d
  | .stB32 p d x => p.wf && memOk x && multR 1 d
  | .stB64 p d x => p.wf && memOk x && multR 2 d
  | .stB128 p d x => p.wf && memOk x && multR 4 d
  | .atomLd p x => p.wf && atomOkLd x
  | .atomSt p x => p.wf && atomOkSt x
  | .atomAdd p x => p.wf && atomOkAll x
  | .atomAnd p x => p.wf && atomOkAll x
  | .atomOr p x => p.wf && atomOkAll x
  | .atomXor p x => p.wf && atomOkAll x
  | .atomMinI p x => p.wf && atomOkAll x
  | .atomMinN p x => p.wf && atomOkAll x
  | .atomMaxI p x => p.wf && atomOkAll x
  | .atomMaxN p x => p.wf && atomOkAll x
  | .atomSwap p x => p.wf && atomOkAll x
  | .atomCas p x => p.wf && atomOkCas x
  | .atomLdRemote p d a b64 => p.wf && evenR a && (!b64 || evenR d)
  | .fence p _ _ => p.wf
  | .xfence p x y => p.wf && x != 0 && y != 0
  | .cflush p a => p.wf && evenR a
  | .cinv p a => p.wf && evenR a
  | .cpref p a => p.wf && evenR a
  | .czero p a => p.wf && evenR a
  | .iinv p => p.wf
  | .hinit p _ a b => p.wf && evenR a && multR 8 b
  | .help p a => p.wf && evenR a
  | .lda p d a b => p.wf && multR 8 d && evenR a && opBOk b
  | .apply p _ a b => p.wf && evenR a && multR 4 b
  | .ares p d a _ => p.wf && evenR d && evenR a
  | .arel p a _ => p.wf && evenR a
  | .annAdd p _ a b => p.wf && evenR a && multR 2 b
  | .annAnd p _ a b => p.wf && evenR a && multR 2 b
  | .annOr p _ a b => p.wf && evenR a && multR 2 b
  | .annXor p _ a b => p.wf && evenR a && multR 2 b
  | .annMin p _ a b => p.wf && evenR a && multR 2 b
  | .annMax p _ a b => p.wf && evenR a && multR 2 b
  | .annSwap p _ a b => p.wf && evenR a && multR 2 b
  | .annCas p _ a b => p.wf && evenR a && multR 4 b
  | .annCas2 p _ a b => p.wf && evenR a && multR 4 b
  | .annSw p _ a b => p.wf && evenR a && multR 4 b
  | .barrTeam p _ => p.wf
  | .barrCluster p _ => p.wf
  | .barrDie p _ => p.wf
  | .barrGrid p _ => p.wf
  | .btstTeam p pd b => p.wf && pd != 7 && opBOk b
  | .btstCluster p pd b => p.wf && pd != 7 && opBOk b
  | .btstDie p pd b => p.wf && pd != 7 && opBOk b
  | .btstGrid p pd b => p.wf && pd != 7 && opBOk b
  | .swset p _ b => p.wf && opBOk b
  | .swtst p pd _ b => p.wf && pd != 7 && opBOk b
  | .wait p _ _ _ _ => p.wf
  | .cpyB32 p x => p.wf && cpyOk x
  | .cpyB64 p x => p.wf && cpyOk x
  | .cpyB128 p x => p.wf && cpyOk x
  | .bcpy p ps => p.wf && ps != 63
  | .get p ps => p.wf && ps != 63
  | .mma p _ ps => p.wf && ps != 63
  | .tld p ps => p.wf && ps != 63
  | .tst p ps => p.wf && ps != 63
  | .tzero p _ => p.wf
  | .epi p ps => p.wf && ps != 63
  | .bfly p ps => p.wf && ps != 63
  | .gather p ps => p.wf && ps != 63
  | .dist p ps => p.wf && ps != 63
  | .topk p ps => p.wf && ps != 63
  | .rdsr p _ _ => p.wf
  | .wrsr p n b => p.wf && (n == 12 || n == 13) && opBOk b
  | .trap p _ _ b => p.wf && opSOk b
  | .timeNow p sd => p.wf && pairS sd
  | .timeErr p sd => p.wf && pairS sd
  | .timeAfter p pd sa => p.wf && pd != 7 && pairS sa
  | .resume p sd sa b => p.wf && sd != 63 && srcS sa && opSOk b
  | .kill p sd sa b => p.wf && sd != 63 && srcS sa && opSOk b
  | .srdsr p sd _ b => p.wf && pairD sd && opSOk b
  | .swrsr p _ sa b => p.wf && pairS sa && opSOk b
  | .sret p sa => p.wf && srcS sa
  | .tlbinv p m sa sb => p.wf && m != 3 && srcS sa && (if m == 1 then pairS sb else sb == 62)
  | .keynew p sd sa => p.wf && sd != 63 && srcS sa
  | .fadd p m _ _ b => p.wf && m != .rs && opBOk b
  | .fsub p m _ _ b => p.wf && m != .rs && opBOk b
  | .fmul p m _ _ b => p.wf && m != .rs && opBOk b
  | .ffma p m _ _ b => p.wf && m != .rs && opBOk b
  | .frint p m _ _ => p.wf && m != .rs
  | .sel p k _ _ b => p.wf && k != 7 && opBOk b
  | .ldi p u d _ => p.wf && !(u && d == 63)
  | .bra p _ => p.wf
  | .call p _ => p.wf
  | .coldReset _ => false
  | .firmwareImageReplacement _ => false
  | .flitDelivery _ _ _ _ => false
  | .handshakeToken _ _ _ _ _ _ => false
  | .linkIdleTimeout _ => false
  | .linkUp _ => false
  | .wakeTimeout _ => false
  | .trainingAttemptEnd _ _ => false
  | .timeTick _ => false
  | .syncInterval => false
  | .sync _ _ => false
  | .followUp _ _ => false
  | .pdelayReq _ _ => false
  | .pdelayResp _ _ => false
  | .pdelayRespFollowUp _ _ => false
  | .holdover _ => false
  | .boundSaturation _ => false
  | .masterTimeWrite _ => false
  | .issueTurn _ _ _ => false
  | .starvationPromotion _ => false
  | .haltWordLimit _ => false
  | .groupHaltComplete _ => false
  | .yieldExpiry _ => false
  | .loadCompletion _ _ _ => false
  | .storeCompletion _ _ => false
  | .atomicPerform _ _ => false
  | .promotionRequest _ _ => false
  | .promotionAnswer _ => false
  | .hobPerform _ _ => false
  | .l1LogicalTick _ => false
  | .directoryInvalidation _ _ => false
  | .invalidationAck _ _ => false
  | .pageWalkComplete _ _ _ _ => false
  | .patrolScrub _ _ => false
  | .bankGate _ => false
  | .bankWake _ => false
  | .bankWakeComplete _ _ => false
  | .tlbinvComplete _ => false
  | .groupFormation _ => false
  | .binAgeFlush _ => false
  | .binIdleFlush _ => false
  | .binRoomReserve _ => false
  | .teamPlacement _ _ _ _ _ => false
  | .groupRetirement _ => false
  | .teamComplete _ => false
  | .chargeReport _ _ => false
  | .gridComplete _ => false
  | .childLaunch _ => false
  | .matrixCommandComplete _ _ => false
  | .copyTransfer _ _ _ => false
  | .copyComplete _ => false
  | .copyFault _ _ => false
  | .getTimeout _ => false
  | .gatherCommandComplete _ => false
  | .faultAfterIssue _ => false
  | .ringPost _ => false
  | .lockstepMismatchServiceCore _ => false
  | .lockstepMismatchCommandProcessor => false
  | .lockstepMismatchRootMonitor => false
  | .kernelEntry _ => false
  | .launch _ _ _ _ => false
  | .launchAt _ _ _ _ _ _ _ _ => false
  | .graph _ _ _ _ => false
  | .signal _ _ _ _ => false
  | .after _ _ _ _ _ => false
  | .dispatch => false
  | .watchedLineRead _ => false
  | .afterPoll _ => false
  | .afterTimeout _ => false
  | .launchAtStart _ _ => false
  | .replicatedCopyReceive _ _ => false
  | .graphNodeStart _ _ => false
  | .queueOpen _ _ _ => false
  | .queueStop _ => false
  | .queueRestart _ => false
  | .queueClose _ => false
  | .queueReset _ _ _ => false
  | .heartbeat _ _ => false
  | .schedulerHung _ => false
  | .commandLinkMessage _ _ _ => false
  | .preemptRequest _ => false
  | .placementWaitTimeout _ => false
  | .preemptHalt _ => false
  | .preemptKill _ => false
  | .contextSwapOut _ => false
  | .contextSwapIn _ _ => false
  | .partitionCommit _ _ => false
  | .keynewComplete _ => false
  | .tbWindow => false
  | .supervisorRegisterWrite _ _ _ _ => false
  | .hostCxlMemAccess _ _ => false
  | .backInvalidateAck _ _ => false
  | .hostLinkDown _ => false
  | .hostLinkReturn _ => false
  | .hostQuarantineExpiry _ => false
  | .cxlCacheSnoop _ _ _ => false
  | .portTraining _ _ _ => false

end Sys2Proof
end

