-- ==== Sys2Proof/Decode.lean ====
section
/-! DEFINITION. Decoding of instruction words and clause headers, total on any bits, rejecting by name; and the
encoder, written from the same tables (03 R37 to R53, and the encoding tables of the entries). -/

namespace Sys2Proof

/-- Why a word is no instruction (R53). All but the last are ILLEGAL_INSTRUCTION when active. -/
inductive Reject where
  /-- class 25 to 31 -/
  | reservedClass
  /-- a minor code that R52 leaves out -/
  | reservedMinor
  /-- pred = 7 with inv = 1 -/
  | reservedPred
  /-- a field outside its limits, a reserved register number, a nonzero field that must be 0 -/
  | fieldLimit
  /-- fewer bytes than the word and its literal take -/
  | truncated
  deriving DecidableEq, Repr

/-- The fields of the register format (R46, R47). -/
structure Fields where
  cls   : BitVec 5
  u     : Bool
  pred  : BitVec 3
  inv   : Bool
  minor : BitVec 4
  d     : RegNum
  a     : RegNum
  b     : RegNum
  deriving DecidableEq, Repr

/-- The fields of a word (R46, R47). -/
def fieldsOf (w : W32) : Fields where
  cls := w.extractLsb' 27 5
  u := w.getLsbD 26
  pred := w.extractLsb' 23 3
  inv := w.getLsbD 22
  minor := w.extractLsb' 18 4
  d := w.extractLsb' 12 6
  a := w.extractLsb' 6 6
  b := w.extractLsb' 0 6

/-- The word with given fields. -/
def wordOf (f : Fields) : W32 :=
  f.cls ++ BitVec.ofBool f.u ++ f.pred ++ BitVec.ofBool f.inv ++ f.minor ++ f.d ++ f.a ++ f.b

/-- Whether a literal word follows (R41). -/
def litFollows (w : W32) : Bool :=
  let f := fieldsOf w
  if f.cls == 3 || f.cls == 10 then false
  else if f.cls == 12 || f.cls == 13 then f.u
  else f.u && f.b == 63

/-- Operand b by U and the b field (R47). -/
def Fields.opB (f : Fields) (lit : W32) : OpB :=
  if !f.u then .v f.b else if f.b == 63 then .lit lit else .s f.b

/-- Operand b where only the uniform forms exist. -/
def Fields.opS (f : Fields) (lit : W32) : OpS := if f.b == 63 then .lit lit else .s f.b

/-- An instruction if its limits hold. -/
def mk (ok : Bool) (i : Instr) : Except Reject Instr := if ok then .ok i else .error .fieldLimit

/-- A single-source word has U = 0 and b = 0 (R128). -/
def noB (f : Fields) : Bool := !f.u && f.b == 0

/-- A field that names a predicate has bits [5:3] zero (R107). -/
def isPred (r : RegNum) : Bool := r.extractLsb' 3 3 == 0#3

/-- The predicate number of such a field. -/
def lowP (r : RegNum) : BitVec 3 := r.extractLsb' 0 3

/-- A path mask of XFENCE: nonzero, bit 5 clear (R169). -/
def maskOk (r : RegNum) : Bool := r != 0 && !r.getLsbD 5

/-- Condition and predicate destination of CMP and FCMP (R52). -/
def withCond (d : RegNum) (k : Cond → BitVec 3 → Except Reject Instr) : Except Reject Instr :=
  match d.extractLsb' 3 3 with
  | 0#3 => k .eq (lowP d)
  | 1#3 => k .ne (lowP d)
  | 2#3 => k .lt (lowP d)
  | 3#3 => k .le (lowP d)
  | 4#3 => k .gt (lowP d)
  | 5#3 => k .ge (lowP d)
  | _ => .error .fieldLimit

/-- Rounding code of CVT and PACK: U = 0, b[5:3] = 0, b[2:0] from 0 to 4 (R143). -/
def withRound (f : Fields) (k : RMode → Except Reject Instr) : Except Reject Instr :=
  if f.u then .error .fieldLimit
  else match f.b with
    | 0#6 => k .rn
    | 1#6 => k .rz
    | 2#6 => k .rd
    | 3#6 => k .ru
    | 4#6 => k .rs
    | _ => .error .fieldLimit

/-- Space codes of R51. -/
def spaceOf : BitVec 3 → Option Space
  | 0#3 => some .gl
  | 1#3 => some .pv
  | 2#3 => some .sc
  | 3#3 => some .rs
  | 4#3 => some .w
  | 5#3 => some .a
  | _ => none

/-- The memory operand of LD and ST (R51). -/
def withMem (f : Fields) (lit : W32) (k : MemOp → Except Reject Instr) : Except Reject Instr :=
  match spaceOf (f.b.extractLsb' 3 3) with
  | none => .error .fieldLimit
  | some sp =>
    let off := lowP f.b
    let x : MemOp := ⟨f.a, sp, if f.u then .lit lit else .scaled off⟩
    if (f.u && off != 0) || !memOk x then .error .fieldLimit else k x

/-- Order codes of R182. -/
def ordOf : BitVec 2 → AOrd
  | 0#2 => .rlx
  | 1#2 => .acq
  | 2#2 => .rel
  | 3#2 => .ar

/-- Scope codes of R169 and R182. -/
def scopeOf : BitVec 3 → Option Scope
  | 0#3 => some .core
  | 1#3 => some .cluster
  | 2#3 => some .die
  | 3#3 => some .device
  | 4#3 => some .system
  | _ => none

/-- The operands of an ATOM (R182). -/
def withAtom (f : Fields) (k : AtomArgs → Except Reject Instr) : Except Reject Instr :=
  match scopeOf (f.b.extractLsb' 1 3) with
  | none => .error .fieldLimit
  | some sc => k ⟨f.u, f.d, f.a, ordOf (f.b.extractLsb' 4 2), sc, f.b.getLsbD 0⟩

/-- Kind and scope of a FENCE (R169). -/
def withFence (f : Fields) (k : FenceKind → Scope → Except Reject Instr) : Except Reject Instr :=
  if !isPred f.a then .error .fieldLimit
  else match scopeOf (lowP f.a), f.d with
    | some sc, 1#6 => k .acq sc
    | some sc, 2#6 => k .rel sc
    | some sc, 3#6 => k .ar sc
    | _, _ => .error .fieldLimit

/-- The operands of a CPY (R273). -/
def withCpy (f : Fields) (k : CpyArgs → Except Reject Instr) : Except Reject Instr :=
  match spaceOf (f.b.extractLsb' 3 3), spaceOf (lowP f.b) with
  | some dsp, some ssp => k ⟨f.u, f.d, f.a, dsp, ssp⟩
  | _, _ => .error .fieldLimit

/-- Class 0 of R52. -/
def decodeClass0 (f : Fields) (p : Pred) (lit : W32) : Except Reject Instr :=
  let b := f.opB lit
  match f.minor with
  | 0#4 => mk (opBOk b) (.iadd p f.d f.a b)
  | 1#4 => mk (opBOk b) (.isub p f.d f.a b)
  | 2#4 => mk (opBOk b) (.iaddSatI32 p f.d f.a b)
  | 3#4 => mk (opBOk b) (.isubSatI32 p f.d f.a b)
  | 4#4 => mk (opBOk b) (.imul p f.d f.a b)
  | 5#4 => mk (opBOk b) (.imulhI32 p f.d f.a b)
  | 6#4 => mk (opBOk b) (.imulhN32 p f.d f.a b)
  | 7#4 => mk (opBOk b) (.imad p f.d f.a b)
  | 8#4 => mk (opBOk b) (.iminI32 p f.d f.a b)
  | 9#4 => mk (opBOk b) (.iminN32 p f.d f.a b)
  | 10#4 => mk (opBOk b) (.imaxI32 p f.d f.a b)
  | 11#4 => mk (opBOk b) (.imaxN32 p f.d f.a b)
  | 12#4 => mk (noB f) (.iabs p f.d f.a)
  | 13#4 => mk (noB f) (.ineg p f.d f.a)
  | 14#4 => mk (opBOk b) (.iaddSatN32 p f.d f.a b)
  | _ => mk (opBOk b) (.isubSatN32 p f.d f.a b)

/-- Class 1 of R52. -/
def decodeClass1 (f : Fields) (p : Pred) (lit : W32) : Except Reject Instr :=
  let b := f.opB lit
  match f.minor with
  | 0#4 => mk (opBOk b) (.shlB32 p f.d f.a b)
  | 1#4 => mk (opBOk b) (.shrN32 p f.d f.a b)
  | 2#4 => mk (opBOk b) (.shrI32 p f.d f.a b)
  | 3#4 => mk (opBOk b) (.rolB32 p f.d f.a b)
  | 4#4 => mk (noB f) (.popc p f.d f.a)
  | 5#4 => mk (noB f) (.clz p f.d f.a)
  | 6#4 => mk (noB f) (.brev p f.d f.a)
  | 7#4 => mk (opBOk b) (.bfeN32 p f.d f.a b)
  | 8#4 => mk (opBOk b) (.bfeI32 p f.d f.a b)
  | 9#4 => mk (opBOk b) (.bfi p f.d f.a b)
  | 10#4 => mk (evenR f.d && evenR f.a && pairB b) (.iaddI64 p f.d f.a b)
  | 11#4 => mk (evenR f.d && evenR f.a && pairB b) (.isubI64 p f.d f.a b)
  | 12#4 => mk (evenR f.d && evenR f.a && pairB b) (.imulI64 p f.d f.a b)
  | 13#4 => mk (evenR f.d && evenR f.a && opBOk b) (.shlB64 p f.d f.a b)
  | 14#4 => mk (evenR f.d && evenR f.a && opBOk b) (.shrN64 p f.d f.a b)
  | _ => mk (evenR f.d && evenR f.a && opBOk b) (.shrI64 p f.d f.a b)

/-- Class 2 of R52. -/
def decodeClass2 (f : Fields) (p : Pred) (lit : W32) : Except Reject Instr :=
  let b := f.opB lit
  match f.minor with
  | 0#4 => mk (opBOk b) (.iand p f.d f.a b)
  | 1#4 => mk (opBOk b) (.ior p f.d f.a b)
  | 2#4 => mk (opBOk b) (.ixor p f.d f.a b)
  | 3#4 => mk (opBOk b) (.iandn p f.d f.a b)
  | 4#4 => withCond f.d fun cc pd => mk (opBOk b && pd != 7) (.cmpI32 p cc pd f.a b)
  | 5#4 => withCond f.d fun cc pd => mk (opBOk b && pd != 7) (.cmpN32 p cc pd f.a b)
  | 6#4 => withCond f.d fun cc pd => mk (evenR f.a && pairB b && pd != 7) (.cmpI64 p cc pd f.a b)
  | 7#4 => withCond f.d fun cc pd => mk (evenR f.a && pairB b && pd != 7) (.cmpN64 p cc pd f.a b)
  | 8#4 => mk (opBOk b) (.sel p 0 f.d f.a b)
  | 9#4 => mk (opBOk b) (.sel p 1 f.d f.a b)
  | 10#4 => mk (opBOk b) (.sel p 2 f.d f.a b)
  | 11#4 => mk (opBOk b) (.sel p 3 f.d f.a b)
  | 12#4 => mk (opBOk b) (.sel p 4 f.d f.a b)
  | 13#4 => mk (opBOk b) (.sel p 5 f.d f.a b)
  | 14#4 => mk (opBOk b) (.sel p 6 f.d f.a b)
  | _ => mk (f.a == 0 && opBOk b) (.mov p f.d b)

/-- Class 4 of R52. -/
def decodeClass4 (f : Fields) (p : Pred) (lit : W32) : Except Reject Instr :=
  let b := f.opB lit
  match f.minor with
  | 0#4 => mk (opBOk b) (.fadd p .rn f.d f.a b)
  | 1#4 => mk (opBOk b) (.fadd p .rz f.d f.a b)
  | 2#4 => mk (opBOk b) (.fadd p .rd f.d f.a b)
  | 3#4 => mk (opBOk b) (.fadd p .ru f.d f.a b)
  | 4#4 => mk (opBOk b) (.fsub p .rn f.d f.a b)
  | 5#4 => mk (opBOk b) (.fsub p .rz f.d f.a b)
  | 6#4 => mk (opBOk b) (.fsub p .rd f.d f.a b)
  | 7#4 => mk (opBOk b) (.fsub p .ru f.d f.a b)
  | 8#4 => mk (opBOk b) (.fmul p .rn f.d f.a b)
  | 9#4 => mk (opBOk b) (.fmul p .rz f.d f.a b)
  | 10#4 => mk (opBOk b) (.fmul p .rd f.d f.a b)
  | 11#4 => mk (opBOk b) (.fmul p .ru f.d f.a b)
  | 12#4 => mk (opBOk b) (.ffma p .rn f.d f.a b)
  | 13#4 => mk (opBOk b) (.ffma p .rz f.d f.a b)
  | 14#4 => mk (opBOk b) (.ffma p .rd f.d f.a b)
  | _ => mk (opBOk b) (.ffma p .ru f.d f.a b)

/-- Class 5 of R52. -/
def decodeClass5 (f : Fields) (p : Pred) (lit : W32) : Except Reject Instr :=
  let b := f.opB lit
  match f.minor with
  | 0#4 => mk (opBOk b) (.fmin p f.d f.a b)
  | 1#4 => mk (opBOk b) (.fmax p f.d f.a b)
  | 2#4 => mk (noB f) (.fabs p f.d f.a)
  | 3#4 => mk (noB f) (.fneg p f.d f.a)
  | 4#4 => withCond f.d fun cc pd => mk (opBOk b && pd != 7) (.fcmp p cc pd f.a b)
  | 5#4 => mk (noB f) (.fclass p f.d f.a)
  | 6#4 => mk (noB f) (.frcp p f.d f.a)
  | 7#4 => mk (noB f) (.fsqrt p f.d f.a)
  | 8#4 => mk (noB f) (.frsq p f.d f.a)
  | 9#4 => mk (noB f) (.fexp2 p f.d f.a)
  | 10#4 => mk (noB f) (.flog2 p f.d f.a)
  | 12#4 => mk (noB f) (.frint p .rn f.d f.a)
  | 13#4 => mk (noB f) (.frint p .rz f.d f.a)
  | 14#4 => mk (noB f) (.frint p .rd f.d f.a)
  | 15#4 => mk (noB f) (.frint p .ru f.d f.a)
  | _ => .error .reservedMinor

/-- Class 6 of R52. -/
def decodeClass6 (f : Fields) (p : Pred) (lit : W32) : Except Reject Instr :=
  let b := f.opB lit
  match f.minor with
  | 0#4 => mk (opBOk b) (.paddBf16 p f.d f.a b)
  | 1#4 => mk (opBOk b) (.psubBf16 p f.d f.a b)
  | 2#4 => mk (opBOk b) (.pmulBf16 p f.d f.a b)
  | 3#4 => mk (opBOk b) (.pfmaBf16 p f.d f.a b)
  | 4#4 => mk (opBOk b) (.pminBf16 p f.d f.a b)
  | 5#4 => mk (opBOk b) (.pmaxBf16 p f.d f.a b)
  | 6#4 => mk (opBOk b) (.pdotBf16 p f.d f.a b)
  | 7#4 => mk (opBOk b) (.pdotE4m3 p f.d f.a b)
  | 8#4 => mk (opBOk b) (.pdotE5m2 p f.d f.a b)
  | 9#4 => mk (opBOk b) (.pminE4m3 p f.d f.a b)
  | 10#4 => mk (opBOk b) (.pmaxE4m3 p f.d f.a b)
  | 11#4 => mk (opBOk b) (.pminE5m2 p f.d f.a b)
  | 12#4 => mk (opBOk b) (.pmaxE5m2 p f.d f.a b)
  | _ => .error .reservedMinor

/-- Class 7 of R52. -/
def decodeClass7 (f : Fields) (p : Pred) : Except Reject Instr :=
  match f.minor with
  | 0#4 => withRound f fun m => mk true (.cvtBf16F32 p m f.d f.a)
  | 1#4 => withRound f fun m => mk true (.cvtE4m3F32 p m f.d f.a)
  | 2#4 => withRound f fun m => mk true (.cvtE5m2F32 p m f.d f.a)
  | 3#4 => mk (noB f) (.cvtF32Bf16 p f.d f.a)
  | 4#4 => mk (noB f) (.cvtF32E4m3 p f.d f.a)
  | 5#4 => mk (noB f) (.cvtF32E5m2 p f.d f.a)
  | 6#4 => withRound f fun m => mk true (.cvtI32F32 p m f.d f.a)
  | 7#4 => withRound f fun m => mk true (.cvtN32F32 p m f.d f.a)
  | 8#4 => withRound f fun m => mk true (.cvtF32I32 p m f.d f.a)
  | 9#4 => withRound f fun m => mk true (.cvtF32N32 p m f.d f.a)
  | 10#4 => withRound f fun m => mk (evenR f.a) (.cvtF32I64 p m f.d f.a)
  | 11#4 => withRound f fun m => mk (evenR f.a) (.packBf16 p m f.d f.a)
  | 12#4 => withRound f fun m => mk (multR 4 f.a) (.packE4m3 p m f.d f.a)
  | 13#4 => withRound f fun m => mk (multR 4 f.a) (.packE5m2 p m f.d f.a)
  | _ => .error .reservedMinor

/-- Class 8 of R52. -/
def decodeClass8 (f : Fields) (p : Pred) : Except Reject Instr :=
  match f.minor with
  | 0#4 => mk (!f.u && isPred f.d && isPred f.a && isPred f.b && lowP f.d != 7) (.pand p (lowP f.d) (lowP f.a) (lowP f.b))
  | 1#4 => mk (!f.u && isPred f.d && isPred f.a && isPred f.b && lowP f.d != 7) (.por p (lowP f.d) (lowP f.a) (lowP f.b))
  | 2#4 => mk (!f.u && isPred f.d && isPred f.a && isPred f.b && lowP f.d != 7) (.pxor p (lowP f.d) (lowP f.a) (lowP f.b))
  | 3#4 => mk (!f.u && isPred f.d && isPred f.a && isPred f.b && lowP f.d != 7) (.pandn p (lowP f.d) (lowP f.a) (lowP f.b))
  | 4#4 => mk (!f.u && f.a == 0 && f.b == 0) (.psave p f.d)
  | 5#4 => mk (!f.u && f.d == 0 && f.b == 0) (.prest p f.a)
  | 6#4 => mk (!f.u && isPred f.d && isPred f.a && f.b == 0 && lowP f.d != 7) (.voteAny p (lowP f.d) (lowP f.a))
  | 7#4 => mk (!f.u && isPred f.d && isPred f.a && f.b == 0 && lowP f.d != 7) (.voteAll p (lowP f.d) (lowP f.a))
  | 8#4 => mk (!f.u && pairD f.d && isPred f.a && f.b == 0) (.voteBallot p f.d (lowP f.a))
  | 9#4 => mk (!f.u && isPred f.d && f.b == 0 && lowP f.d != 7) (.voteEq p (lowP f.d) f.a)
  | _ => .error .reservedMinor

/-- Class 9 of R52. -/
def decodeClass9 (f : Fields) (p : Pred) (lit : W32) : Except Reject Instr :=
  let b := f.opB lit
  let bs := f.opS lit
  match f.minor with
  | 0#4 => mk (opBOk b) (.shflIdx p f.d f.a b)
  | 1#4 => mk (opBOk b) (.shflUp p f.d f.a b)
  | 2#4 => mk (opBOk b) (.shflDown p f.d f.a b)
  | 3#4 => mk (opBOk b) (.shflXor p f.d f.a b)
  | 4#4 => mk (!f.u && f.d != 63 && f.b == 0) (.rdfl p f.d f.a)
  | 5#4 => mk (f.u && f.d != 63) (.rdln p f.d f.a bs)
  | _ => .error .reservedMinor

/-- Class 11 of R52. -/
def decodeClass11 (f : Fields) (p : Pred) (lit : W32) : Except Reject Instr :=
  let bs := f.opS lit
  match f.minor with
  | 0#4 => mk (!f.u && f.d == 0 && f.a == 0 && f.b == 0) (.nop p)
  | 1#4 => mk (!f.u && f.d == 0 && f.a == 0 && f.b == 0) (.tail p)
  | 2#4 => mk (!f.u && f.d == 0 && f.a == 0 && f.b == 0) (.yield p)
  | 3#4 => mk (!f.u && f.d == 0 && pairD f.a && f.b != 63) (.spawn p f.a f.b)
  | 4#4 => mk f.u (.regroup p f.d f.a bs)
  | 5#4 => mk (!f.u && f.d == 0 && f.a == 0 && f.b == 0) (.regroupFlush p)
  | 6#4 => mk (!f.u && f.d == 0 && f.a == 0 && f.b == 0) (.ret p)
  | 7#4 => mk (!f.u && f.d == 0 && f.a != 63 && f.b == 0) (.jmp p f.a)
  | 8#4 => mk (!f.u && f.d == 0 && f.a != 63 && f.b == 0) (.callUniform p f.a)
  | _ => .error .reservedMinor

/-- Class 12 of R52. -/
def decodeClass12 (f : Fields) (p : Pred) (lit : W32) : Except Reject Instr :=
  match f.minor with
  | 0#4 => withMem f lit fun x => mk (multR 1 f.d) (.ldB8 p f.d x)
  | 1#4 => withMem f lit fun x => mk (multR 1 f.d) (.ldB16 p f.d x)
  | 2#4 => withMem f lit fun x => mk (multR 1 f.d) (.ldB32 p f.d x)
  | 3#4 => withMem f lit fun x => mk (multR 2 f.d) (.ldB64 p f.d x)
  | 4#4 => withMem f lit fun x => mk (multR 4 f.d) (.ldB128 p f.d x)
  | 5#4 => withMem f lit fun x => mk (multR 1 f.d) (.ldI8 p f.d x)
  | 6#4 => withMem f lit fun x => mk (multR 1 f.d) (.ldI16 p f.d x)
  | _ => .error .reservedMinor

/-- Class 13 of R52. -/
def decodeClass13 (f : Fields) (p : Pred) (lit : W32) : Except Reject Instr :=
  match f.minor with
  | 0#4 => withMem f lit fun x => mk (multR 1 f.d) (.stB8 p f.d x)
  | 1#4 => withMem f lit fun x => mk (multR 1 f.d) (.stB16 p f.d x)
  | 2#4 => withMem f lit fun x => mk (multR 1 f.d) (.stB32 p f.d x)
  | 3#4 => withMem f lit fun x => mk (multR 2 f.d) (.stB64 p f.d x)
  | 4#4 => withMem f lit fun x => mk (multR 4 f.d) (.stB128 p f.d x)
  | _ => .error .reservedMinor

/-- Class 14 of R52. -/
def decodeClass14 (f : Fields) (p : Pred) : Except Reject Instr :=
  match f.minor with
  | 0#4 => withAtom f fun x => mk (atomOkLd x) (.atomLd p x)
  | 1#4 => withAtom f fun x => mk (atomOkSt x) (.atomSt p x)
  | 2#4 => withAtom f fun x => mk (atomOkAll x) (.atomAdd p x)
  | 3#4 => withAtom f fun x => mk (atomOkAll x) (.atomAnd p x)
  | 4#4 => withAtom f fun x => mk (atomOkAll x) (.atomOr p x)
  | 5#4 => withAtom f fun x => mk (atomOkAll x) (.atomXor p x)
  | 6#4 => withAtom f fun x => mk (atomOkAll x) (.atomMinI p x)
  | 7#4 => withAtom f fun x => mk (atomOkAll x) (.atomMinN p x)
  | 8#4 => withAtom f fun x => mk (atomOkAll x) (.atomMaxI p x)
  | 9#4 => withAtom f fun x => mk (atomOkAll x) (.atomMaxN p x)
  | 10#4 => withAtom f fun x => mk (atomOkAll x) (.atomSwap p x)
  | 11#4 => withAtom f fun x => mk (atomOkCas x) (.atomCas p x)
  | 12#4 => withAtom f fun x => mk (x.ord == .acq && x.scope == .device && !x.sc && evenR x.a && (!x.b64 || evenR x.d)) (.atomLdRemote p x.d x.a x.b64)
  | _ => .error .reservedMinor

/-- Class 15 of R52. -/
def decodeClass15 (f : Fields) (p : Pred) : Except Reject Instr :=
  match f.minor with
  | 0#4 => withFence f fun k sc => mk (!f.u && f.b == 0) (.fence p k sc)
  | 1#4 => mk (!f.u && f.d == 0 && maskOk f.a && maskOk f.b) (.xfence p (f.a.setWidth 5) (f.b.setWidth 5))
  | 2#4 => mk (!f.u && f.d == 0 && evenR f.a && f.b == 0) (.cflush p f.a)
  | 3#4 => mk (!f.u && f.d == 0 && evenR f.a && f.b == 0) (.cinv p f.a)
  | 4#4 => mk (!f.u && f.d == 0 && evenR f.a && f.b == 0) (.cpref p f.a)
  | 5#4 => mk (!f.u && f.d == 0 && evenR f.a && f.b == 0) (.czero p f.a)
  | 6#4 => mk (!f.u && f.d == 0 && f.a == 0 && f.b == 0) (.iinv p)
  | _ => .error .reservedMinor

/-- Class 16 of R52. -/
def decodeClass16 (f : Fields) (p : Pred) (lit : W32) : Except Reject Instr :=
  let b := f.opB lit
  match f.minor with
  | 0#4 => mk (!f.u && evenR f.a && multR 8 f.b) (.hinit p f.d f.a f.b)
  | 1#4 => mk (!f.u && f.d == 0 && evenR f.a && f.b == 0) (.help p f.a)
  | 2#4 => mk (multR 8 f.d && evenR f.a && opBOk b) (.lda p f.d f.a b)
  | 3#4 => mk (!f.u && evenR f.a && multR 4 f.b) (.apply p f.d f.a f.b)
  | 4#4 => mk (!f.u && evenR f.d && evenR f.a) (.ares p f.d f.a f.b)
  | 5#4 => mk (!f.u && f.d == 0 && evenR f.a) (.arel p f.a f.b)
  | 6#4 => mk (!f.u && evenR f.a && multR 2 f.b) (.annAdd p f.d f.a f.b)
  | 7#4 => mk (!f.u && evenR f.a && multR 2 f.b) (.annAnd p f.d f.a f.b)
  | 8#4 => mk (!f.u && evenR f.a && multR 2 f.b) (.annOr p f.d f.a f.b)
  | 9#4 => mk (!f.u && evenR f.a && multR 2 f.b) (.annXor p f.d f.a f.b)
  | 10#4 => mk (!f.u && evenR f.a && multR 2 f.b) (.annMin p f.d f.a f.b)
  | 11#4 => mk (!f.u && evenR f.a && multR 2 f.b) (.annMax p f.d f.a f.b)
  | 12#4 => mk (!f.u && evenR f.a && multR 2 f.b) (.annSwap p f.d f.a f.b)
  | 13#4 => mk (!f.u && evenR f.a && multR 4 f.b) (.annCas p f.d f.a f.b)
  | 14#4 => mk (!f.u && evenR f.a && multR 4 f.b) (.annCas2 p f.d f.a f.b)
  | _ => mk (!f.u && evenR f.a && multR 4 f.b) (.annSw p f.d f.a f.b)

/-- Class 17 of R52. -/
def decodeClass17 (f : Fields) (p : Pred) (lit : W32) : Except Reject Instr :=
  let b := f.opB lit
  match f.minor with
  | 0#4 => mk (!f.u && f.a == 0 && f.b == 0) (.barrTeam p f.d)
  | 1#4 => mk (!f.u && f.a == 0 && f.b == 0) (.barrCluster p f.d)
  | 2#4 => mk (!f.u && f.a == 0 && f.b == 0) (.barrDie p f.d)
  | 3#4 => mk (!f.u && f.a == 0 && f.b == 0) (.barrGrid p f.d)
  | 4#4 => mk (isPred f.d && lowP f.d != 7 && f.a == 0 && opBOk b) (.btstTeam p (lowP f.d) b)
  | 5#4 => mk (isPred f.d && lowP f.d != 7 && f.a == 0 && opBOk b) (.btstCluster p (lowP f.d) b)
  | 6#4 => mk (isPred f.d && lowP f.d != 7 && f.a == 0 && opBOk b) (.btstDie p (lowP f.d) b)
  | 7#4 => mk (isPred f.d && lowP f.d != 7 && f.a == 0 && opBOk b) (.btstGrid p (lowP f.d) b)
  | 8#4 => mk (f.d == 0 && opBOk b) (.swset p f.a b)
  | 9#4 => mk (isPred f.d && lowP f.d != 7 && opBOk b) (.swtst p (lowP f.d) f.a b)
  | 10#4 => mk (!f.u && f.d == 0) (.wait p (f.a.extractLsb' 3 3) (f.a.extractLsb' 0 3) (f.b.extractLsb' 3 3) (f.b.extractLsb' 0 3))
  | _ => .error .reservedMinor

/-- Class 18 of R52. -/
def decodeClass18 (f : Fields) (p : Pred) : Except Reject Instr :=
  match f.minor with
  | 0#4 => withCpy f fun x => mk (cpyOk x) (.cpyB32 p x)
  | 1#4 => withCpy f fun x => mk (cpyOk x) (.cpyB64 p x)
  | 2#4 => withCpy f fun x => mk (cpyOk x) (.cpyB128 p x)
  | 3#4 => mk (!f.u && f.d == 0 && f.a == 0 && f.b != 63) (.bcpy p f.b)
  | 4#4 => mk (!f.u && f.d == 0 && f.a == 0 && f.b != 63) (.get p f.b)
  | _ => .error .reservedMinor

/-- Class 19 of R52. -/
def decodeClass19 (f : Fields) (p : Pred) : Except Reject Instr :=
  match f.minor with
  | 0#4 => mk (!f.u && f.d == 0 && f.a.extractLsb' 1 5 == 0#5 && f.b != 63) (.mma p (f.a.getLsbD 0) f.b)
  | 1#4 => mk (!f.u && f.d == 0 && f.a == 0 && f.b != 63) (.tld p f.b)
  | 2#4 => mk (!f.u && f.d == 0 && f.a == 0 && f.b != 63) (.tst p f.b)
  | 3#4 => mk (!f.u && f.d.extractLsb' 4 2 == 0#2 && f.a == 0 && f.b == 0) (.tzero p (f.d.setWidth 4))
  | _ => .error .reservedMinor

/-- Class 20 of R52. -/
def decodeClass20 (f : Fields) (p : Pred) : Except Reject Instr :=
  match f.minor with
  | 0#4 => mk (!f.u && f.d == 0 && f.a == 0 && f.b != 63) (.epi p f.b)
  | _ => .error .reservedMinor

/-- Class 21 of R52. -/
def decodeClass21 (f : Fields) (p : Pred) : Except Reject Instr :=
  match f.minor with
  | 0#4 => mk (!f.u && f.d == 0 && f.a == 0 && f.b != 63) (.bfly p f.b)
  | _ => .error .reservedMinor

/-- Class 22 of R52. -/
def decodeClass22 (f : Fields) (p : Pred) : Except Reject Instr :=
  match f.minor with
  | 0#4 => mk (!f.u && f.d == 0 && f.a == 0 && f.b != 63) (.gather p f.b)
  | 1#4 => mk (!f.u && f.d == 0 && f.a == 0 && f.b != 63) (.dist p f.b)
  | 2#4 => mk (!f.u && f.d == 0 && f.a == 0 && f.b != 63) (.topk p f.b)
  | _ => .error .reservedMinor

/-- Class 23 of R52. -/
def decodeClass23 (f : Fields) (p : Pred) (lit : W32) : Except Reject Instr :=
  let b := f.opB lit
  let bs := f.opS lit
  match f.minor with
  | 0#4 => mk (!f.u && f.a.extractLsb' 4 2 == 0#2 && f.b == 0) (.rdsr p f.d (f.a.setWidth 4))
  | 1#4 => mk (f.d == 0 && (f.a == 12 || f.a == 13) && opBOk b) (.wrsr p (f.a.setWidth 4) b)
  | 2#4 => mk f.u (.trap p f.d f.a bs)
  | 12#4 => mk (!f.u && pairS f.d && f.a == 0 && f.b == 0) (.timeNow p f.d)
  | 13#4 => mk (!f.u && pairS f.d && f.a == 0 && f.b == 0) (.timeErr p f.d)
  | 14#4 => mk (!f.u && isPred f.d && lowP f.d != 7 && pairS f.a && f.b == 0) (.timeAfter p (lowP f.d) f.a)
  | _ => .error .reservedMinor

/-- Class 24 of R52. -/
def decodeClass24 (f : Fields) (p : Pred) (lit : W32) : Except Reject Instr :=
  let bs := f.opS lit
  match f.minor with
  | 0#4 => mk (f.u && f.d != 63 && srcS f.a) (.resume p f.d f.a bs)
  | 1#4 => mk (f.u && f.d != 63 && srcS f.a) (.kill p f.d f.a bs)
  | 2#4 => mk (f.u && pairD f.d) (.srdsr p f.d f.a bs)
  | 3#4 => mk (f.u && pairS f.a) (.swrsr p f.d f.a bs)
  | 4#4 => mk (f.u && f.d == 0 && srcS f.a && f.b == 62) (.sret p f.a)
  | 5#4 => mk (f.u && f.d.extractLsb' 2 4 == 0#4 && f.d.toNat < 3 && srcS f.a && (if f.d == 1 then pairS f.b else f.b == 62)) (.tlbinv p (f.d.setWidth 2) f.a f.b)
  | 6#4 => mk (f.u && f.d != 63 && srcS f.a && f.b == 62) (.keynew p f.d f.a)
  | _ => .error .reservedMinor

/-- The predicate prefix of a word. -/
def Fields.prefixOf (f : Fields) : Pred := ⟨f.pred, f.inv⟩

/-- Decodes a word, given the word that follows it, which is used only where `litFollows` says so (R41, R52). -/
def decodeWord (w lit : W32) : Except Reject Instr :=
  let f := fieldsOf w
  let p := f.prefixOf
  if f.cls.toNat ≥ 25 then .error .reservedClass
  else if !p.wf then .error .reservedPred
  else match f.cls with
    | 0#5 => decodeClass0 f p lit
    | 1#5 => decodeClass1 f p lit
    | 2#5 => decodeClass2 f p lit
    | 3#5 =>
      let d := w.extractLsb' 16 6
      mk (!(f.u && d == 63)) (.ldi p f.u d (w.extractLsb' 0 16))
    | 4#5 => decodeClass4 f p lit
    | 5#5 => decodeClass5 f p lit
    | 6#5 => decodeClass6 f p lit
    | 7#5 => decodeClass7 f p
    | 8#5 => decodeClass8 f p
    | 9#5 => decodeClass9 f p lit
    | 10#5 => .ok (if f.u then .call p (w.extractLsb' 0 22) else .bra p (w.extractLsb' 0 22))
    | 11#5 => decodeClass11 f p lit
    | 12#5 => decodeClass12 f p lit
    | 13#5 => decodeClass13 f p lit
    | 14#5 => decodeClass14 f p
    | 15#5 => decodeClass15 f p
    | 16#5 => decodeClass16 f p lit
    | 17#5 => decodeClass17 f p lit
    | 18#5 => decodeClass18 f p
    | 19#5 => decodeClass19 f p
    | 20#5 => decodeClass20 f p
    | 21#5 => decodeClass21 f p
    | 22#5 => decodeClass22 f p
    | 23#5 => decodeClass23 f p lit
    | _ => decodeClass24 f p lit

/-! ## Bytes -/

/-- Little-endian word of four bytes (R5). -/
def word4 (b0 b1 b2 b3 : Byte) : W32 := b3 ++ b2 ++ b1 ++ b0

/-- The four bytes of a word, lowest address first (R5). -/
def bytes4 (w : W32) : List Byte :=
  [w.extractLsb' 0 8, w.extractLsb' 8 8, w.extractLsb' 16 8, w.extractLsb' 24 8]

/-- Decodes an instruction and its literal from the front of a byte list; the rest follows. -/
def decodeBytes : List Byte → Except Reject (Instr × List Byte)
  | b0 :: b1 :: b2 :: b3 :: rest =>
    let w := word4 b0 b1 b2 b3
    if litFollows w then
      match rest with
      | c0 :: c1 :: c2 :: c3 :: rest' => (decodeWord w (word4 c0 c1 c2 c3)).map (·, rest')
      | _ => .error .truncated
    else (decodeWord w 0).map (·, rest)
  | _ => .error .truncated

/-- The instruction that the decoder reads from bits numbered as spec/opcode_table.json numbers them: the first
word in bits 31 to 0, a literal word above it, every bit from nbits up being 0. -/
def decodeTableWord (nbits w : Nat) : Option Instr :=
  let x := w % 2 ^ nbits
  let bytes := bytes4 (BitVec.ofNat 32 x) ++ bytes4 (BitVec.ofNat 32 (x / 2 ^ 32))
  match decodeBytes bytes with
  | .ok (i, _) => some i
  | .error _ => none

/-! ## Clause headers -/

/-- A clause header's fields (R38). -/
structure Header where
  count : Nat
  cls   : Nat
  safe  : Bool
  rsv   : Bool
  ld    : Nat
  st    : Nat
  cp    : Nat
  tl    : Nat
  prio  : Nat
  deriving DecidableEq, Repr

/-- The fields of a header word (R38). -/
def headerOf (w : W32) : Header where
  count := (w.extractLsb' 28 4).toNat
  cls := (w.extractLsb' 26 2).toNat
  safe := w.getLsbD 25
  rsv := w.getLsbD 24
  ld := (w.extractLsb' 21 3).toNat
  st := (w.extractLsb' 18 3).toNat
  cp := (w.extractLsb' 15 3).toNat
  tl := (w.extractLsb' 12 3).toNat
  prio := (w.extractLsb' 0 12).toNat

/-- The control words (R40): classes 10 and 11, and TRAP, which is class 23 minor 2. -/
def isControl (w : W32) : Bool :=
  let f := fieldsOf w
  f.cls == 10 || f.cls == 11 || (f.cls == 23 && f.minor == 2)

/-- The clause class of a word that is no control word (R40): ALU 0, MEMORY 1, ASYNC 2; none for 25 to 31. -/
def clauseClass (w : W32) : Option Nat :=
  let c := (fieldsOf w).cls.toNat
  if c ≤ 9 || c = 23 || c = 24 then some 0
  else if 12 ≤ c && c ≤ 17 then some 1
  else if 18 ≤ c && c ≤ 22 then some 2
  else none

/-- The checks of R42 on the words after a header, given the header's clause class: literals stay inside the count,
classes agree, and nothing follows a control word but its own literal. -/
def clauseWordsOk (cls : Nat) : List W32 → Bool
  | [] => true
  | w :: rest =>
    if litFollows w then
      match rest with
      | [] => false
      | _ :: rest' =>
        if isControl w then rest'.isEmpty
        else (clauseClass w).all (· == cls) && clauseWordsOk cls rest'
    else if isControl w then rest.isEmpty
    else (clauseClass w).all (· == cls) && clauseWordsOk cls rest

/-- All checks of R42 on a fetched clause. -/
def clauseOk (h : Header) (words : List W32) : Bool :=
  h.count != 0 && h.cls != 3 && !h.rsv && clauseWordsOk h.cls words

/-! ## The encoder -/

/-- A word of the register format. -/
def encFields (cls minor : Nat) (u : Bool) (p : Pred) (d a b : RegNum) : W32 :=
  wordOf ⟨BitVec.ofNat 5 cls, u, p.reg, p.inv, BitVec.ofNat 4 minor, d, a, b⟩

/-- A register-format word with U = 0. -/
def encR (cls minor : Nat) (p : Pred) (d a b : RegNum) : List W32 := [encFields cls minor false p d a b]

/-- A register-format word with operand b and its literal (R47). -/
def encB (cls minor : Nat) (p : Pred) (d a : RegNum) : OpB → List W32
  | .v r => [encFields cls minor false p d a r]
  | .s r => [encFields cls minor true p d a r]
  | .lit w => [encFields cls minor true p d a 63, w]

/-- As `encB` with the minor code as bits. -/
def encRaw (cls : Nat) (minor : BitVec 4) (p : Pred) (d a : RegNum) (b : OpB) : List W32 :=
  encB cls minor.toNat p d a b

/-- A register-format word with U = 1. -/
def encS (cls minor : Nat) (p : Pred) (d a : RegNum) : OpS → List W32
  | .s r => [encFields cls minor true p d a r]
  | .lit w => [encFields cls minor true p d a 63, w]

/-- Codes of the conditions (R52). -/
def condCode : Cond → BitVec 3
  | .eq => 0
  | .ne => 1
  | .lt => 2
  | .le => 3
  | .gt => 4
  | .ge => 5

/-- Codes of the rounding modes in b (R52). -/
def roundCode : RMode → RegNum
  | .rn => 0
  | .rz => 1
  | .rd => 2
  | .ru => 3
  | .rs => 4

/-- Minor code 4 * op + rounding (R136, R140). -/
def fpMinor (op : BitVec 2) (m : RMode) : BitVec 4 := op ++ (roundCode m).extractLsb' 0 2

/-- A predicate number as a register field. -/
def predReg (p : BitVec 3) : RegNum := 0#3 ++ p

/-- Codes of the spaces (R51). -/
def spaceCode : Space → BitVec 3
  | .gl => 0
  | .pv => 1
  | .sc => 2
  | .rs => 3
  | .w => 4
  | .a => 5

/-- Codes of the orders (R182). -/
def ordCode : AOrd → BitVec 2
  | .rlx => 0
  | .acq => 1
  | .rel => 2
  | .ar => 3

/-- Codes of the scopes (R182). -/
def scopeCode : Scope → BitVec 3
  | .core => 0
  | .cluster => 1
  | .die => 2
  | .device => 3
  | .system => 4

/-- Codes of the fence kinds (R169). -/
def fenceCode : FenceKind → RegNum
  | .acq => 1
  | .rel => 2
  | .ar => 3

/-- An LD or ST word (R51). -/
def encMem (cls minor : Nat) (p : Pred) (d : RegNum) (m : MemOp) : List W32 :=
  match m.off with
  | .scaled k => [encFields cls minor false p d m.base (spaceCode m.space ++ k)]
  | .lit w => [encFields cls minor true p d m.base (spaceCode m.space ++ 0#3), w]

/-- An ATOM word (R182). -/
def encAtom (cls minor : Nat) (p : Pred) (x : AtomArgs) : List W32 :=
  [encFields cls minor x.sc p x.d x.a (ordCode x.ord ++ scopeCode x.scope ++ BitVec.ofBool x.b64)]

/-- A CPY word (R273). -/
def encCpy (cls minor : Nat) (p : Pred) (x : CpyArgs) : List W32 :=
  [encFields cls minor x.sw p x.d x.a (spaceCode x.dsp ++ spaceCode x.ssp)]

/-- The words of an instruction: one, or one and its literal. Events have none. -/
def encode : Instr → List W32
  | .iadd p d a b => encB 0 0 p d a b
  | .isub p d a b => encB 0 1 p d a b
  | .iaddSatI32 p d a b => encB 0 2 p d a b
  | .isubSatI32 p d a b => encB 0 3 p d a b
  | .imul p d a b => encB 0 4 p d a b
  | .imulhI32 p d a b => encB 0 5 p d a b
  | .imulhN32 p d a b => encB 0 6 p d a b
  | .imad p d a b => encB 0 7 p d a b
  | .iminI32 p d a b => encB 0 8 p d a b
  | .iminN32 p d a b => encB 0 9 p d a b
  | .imaxI32 p d a b => encB 0 10 p d a b
  | .imaxN32 p d a b => encB 0 11 p d a b
  | .iabs p d a => encR 0 12 p d a 0
  | .ineg p d a => encR 0 13 p d a 0
  | .iaddSatN32 p d a b => encB 0 14 p d a b
  | .isubSatN32 p d a b => encB 0 15 p d a b
  | .shlB32 p d a b => encB 1 0 p d a b
  | .shrN32 p d a b => encB 1 1 p d a b
  | .shrI32 p d a b => encB 1 2 p d a b
  | .rolB32 p d a b => encB 1 3 p d a b
  | .popc p d a => encR 1 4 p d a 0
  | .clz p d a => encR 1 5 p d a 0
  | .brev p d a => encR 1 6 p d a 0
  | .bfeN32 p d a b => encB 1 7 p d a b
  | .bfeI32 p d a b => encB 1 8 p d a b
  | .bfi p d a b => encB 1 9 p d a b
  | .iaddI64 p d a b => encB 1 10 p d a b
  | .isubI64 p d a b => encB 1 11 p d a b
  | .imulI64 p d a b => encB 1 12 p d a b
  | .shlB64 p d a b => encB 1 13 p d a b
  | .shrN64 p d a b => encB 1 14 p d a b
  | .shrI64 p d a b => encB 1 15 p d a b
  | .iand p d a b => encB 2 0 p d a b
  | .ior p d a b => encB 2 1 p d a b
  | .ixor p d a b => encB 2 2 p d a b
  | .iandn p d a b => encB 2 3 p d a b
  | .cmpI32 p cc pd a b => encB 2 4 p (condCode cc ++ pd) a b
  | .cmpN32 p cc pd a b => encB 2 5 p (condCode cc ++ pd) a b
  | .cmpI64 p cc pd a b => encB 2 6 p (condCode cc ++ pd) a b
  | .cmpN64 p cc pd a b => encB 2 7 p (condCode cc ++ pd) a b
  | .mov p d b => encB 2 15 p d 0 b
  | .fmin p d a b => encB 5 0 p d a b
  | .fmax p d a b => encB 5 1 p d a b
  | .fabs p d a => encR 5 2 p d a 0
  | .fneg p d a => encR 5 3 p d a 0
  | .fcmp p cc pd a b => encB 5 4 p (condCode cc ++ pd) a b
  | .fclass p d a => encR 5 5 p d a 0
  | .frcp p d a => encR 5 6 p d a 0
  | .fsqrt p d a => encR 5 7 p d a 0
  | .frsq p d a => encR 5 8 p d a 0
  | .fexp2 p d a => encR 5 9 p d a 0
  | .flog2 p d a => encR 5 10 p d a 0
  | .paddBf16 p d a b => encB 6 0 p d a b
  | .psubBf16 p d a b => encB 6 1 p d a b
  | .pmulBf16 p d a b => encB 6 2 p d a b
  | .pfmaBf16 p d a b => encB 6 3 p d a b
  | .pminBf16 p d a b => encB 6 4 p d a b
  | .pmaxBf16 p d a b => encB 6 5 p d a b
  | .pdotBf16 p d a b => encB 6 6 p d a b
  | .pdotE4m3 p d a b => encB 6 7 p d a b
  | .pdotE5m2 p d a b => encB 6 8 p d a b
  | .pminE4m3 p d a b => encB 6 9 p d a b
  | .pmaxE4m3 p d a b => encB 6 10 p d a b
  | .pminE5m2 p d a b => encB 6 11 p d a b
  | .pmaxE5m2 p d a b => encB 6 12 p d a b
  | .cvtBf16F32 p m d a => encR 7 0 p d a (roundCode m)
  | .cvtE4m3F32 p m d a => encR 7 1 p d a (roundCode m)
  | .cvtE5m2F32 p m d a => encR 7 2 p d a (roundCode m)
  | .cvtF32Bf16 p d a => encR 7 3 p d a 0
  | .cvtF32E4m3 p d a => encR 7 4 p d a 0
  | .cvtF32E5m2 p d a => encR 7 5 p d a 0
  | .cvtI32F32 p m d a => encR 7 6 p d a (roundCode m)
  | .cvtN32F32 p m d a => encR 7 7 p d a (roundCode m)
  | .cvtF32I32 p m d a => encR 7 8 p d a (roundCode m)
  | .cvtF32N32 p m d a => encR 7 9 p d a (roundCode m)
  | .cvtF32I64 p m d a => encR 7 10 p d a (roundCode m)
  | .packBf16 p m d a => encR 7 11 p d a (roundCode m)
  | .packE4m3 p m d a => encR 7 12 p d a (roundCode m)
  | .packE5m2 p m d a => encR 7 13 p d a (roundCode m)
  | .pand p pd pa pb => encR 8 0 p (predReg pd) (predReg pa) (predReg pb)
  | .por p pd pa pb => encR 8 1 p (predReg pd) (predReg pa) (predReg pb)
  | .pxor p pd pa pb => encR 8 2 p (predReg pd) (predReg pa) (predReg pb)
  | .pandn p pd pa pb => encR 8 3 p (predReg pd) (predReg pa) (predReg pb)
  | .psave p d => encR 8 4 p d 0 0
  | .prest p a => encR 8 5 p 0 a 0
  | .voteAny p pd pa => encR 8 6 p (predReg pd) (predReg pa) 0
  | .voteAll p pd pa => encR 8 7 p (predReg pd) (predReg pa) 0
  | .voteBallot p sd pa => encR 8 8 p sd (predReg pa) 0
  | .voteEq p pd a => encR 8 9 p (predReg pd) a 0
  | .shflIdx p d a b => encB 9 0 p d a b
  | .shflUp p d a b => encB 9 1 p d a b
  | .shflDown p d a b => encB 9 2 p d a b
  | .shflXor p d a b => encB 9 3 p d a b
  | .rdfl p sd a => encR 9 4 p sd a 0
  | .rdln p sd a b => encS 9 5 p sd a b
  | .nop p => encR 11 0 p 0 0 0
  | .tail p => encR 11 1 p 0 0 0
  | .yield p => encR 11 2 p 0 0 0
  | .spawn p sd ps => encR 11 3 p 0 sd ps
  | .regroup p l k b => encS 11 4 p l k b
  | .regroupFlush p => encR 11 5 p 0 0 0
  | .ret p => encR 11 6 p 0 0 0
  | .jmp p sa => encR 11 7 p 0 sa 0
  | .callUniform p sa => encR 11 8 p 0 sa 0
  | .ldB8 p d x => encMem 12 0 p d x
  | .ldB16 p d x => encMem 12 1 p d x
  | .ldB32 p d x => encMem 12 2 p d x
  | .ldB64 p d x => encMem 12 3 p d x
  | .ldB128 p d x => encMem 12 4 p d x
  | .ldI8 p d x => encMem 12 5 p d x
  | .ldI16 p d x => encMem 12 6 p d x
  | .stB8 p d x => encMem 13 0 p d x
  | .stB16 p d x => encMem 13 1 p d x
  | .stB32 p d x => encMem 13 2 p d x
  | .stB64 p d x => encMem 13 3 p d x
  | .stB128 p d x => encMem 13 4 p d x
  | .atomLd p x => encAtom 14 0 p x
  | .atomSt p x => encAtom 14 1 p x
  | .atomAdd p x => encAtom 14 2 p x
  | .atomAnd p x => encAtom 14 3 p x
  | .atomOr p x => encAtom 14 4 p x
  | .atomXor p x => encAtom 14 5 p x
  | .atomMinI p x => encAtom 14 6 p x
  | .atomMinN p x => encAtom 14 7 p x
  | .atomMaxI p x => encAtom 14 8 p x
  | .atomMaxN p x => encAtom 14 9 p x
  | .atomSwap p x => encAtom 14 10 p x
  | .atomCas p x => encAtom 14 11 p x
  | .atomLdRemote p d a b64 => encAtom 14 12 p ⟨false, d, a, .acq, .device, b64⟩
  | .fence p k sc => encR 15 0 p (fenceCode k) (predReg (scopeCode sc)) 0
  | .xfence p x y => encR 15 1 p 0 (x.setWidth 6) (y.setWidth 6)
  | .cflush p a => encR 15 2 p 0 a 0
  | .cinv p a => encR 15 3 p 0 a 0
  | .cpref p a => encR 15 4 p 0 a 0
  | .czero p a => encR 15 5 p 0 a 0
  | .iinv p => encR 15 6 p 0 0 0
  | .hinit p d a b => encR 16 0 p d a b
  | .help p a => encR 16 1 p 0 a 0
  | .lda p d a b => encB 16 2 p d a b
  | .apply p d a b => encR 16 3 p d a b
  | .ares p d a b => encR 16 4 p d a b
  | .arel p a b => encR 16 5 p 0 a b
  | .annAdd p d a b => encR 16 6 p d a b
  | .annAnd p d a b => encR 16 7 p d a b
  | .annOr p d a b => encR 16 8 p d a b
  | .annXor p d a b => encR 16 9 p d a b
  | .annMin p d a b => encR 16 10 p d a b
  | .annMax p d a b => encR 16 11 p d a b
  | .annSwap p d a b => encR 16 12 p d a b
  | .annCas p d a b => encR 16 13 p d a b
  | .annCas2 p d a b => encR 16 14 p d a b
  | .annSw p d a b => encR 16 15 p d a b
  | .barrTeam p d => encR 17 0 p d 0 0
  | .barrCluster p d => encR 17 1 p d 0 0
  | .barrDie p d => encR 17 2 p d 0 0
  | .barrGrid p d => encR 17 3 p d 0 0
  | .btstTeam p pd b => encB 17 4 p (predReg pd) 0 b
  | .btstCluster p pd b => encB 17 5 p (predReg pd) 0 b
  | .btstDie p pd b => encB 17 6 p (predReg pd) 0 b
  | .btstGrid p pd b => encB 17 7 p (predReg pd) 0 b
  | .swset p a b => encB 17 8 p 0 a b
  | .swtst p pd a b => encB 17 9 p (predReg pd) a b
  | .wait p x y z w => encR 17 10 p 0 (x ++ y) (z ++ w)
  | .cpyB32 p x => encCpy 18 0 p x
  | .cpyB64 p x => encCpy 18 1 p x
  | .cpyB128 p x => encCpy 18 2 p x
  | .bcpy p ps => encR 18 3 p 0 0 ps
  | .get p ps => encR 18 4 p 0 0 ps
  | .mma p r ps => encR 19 0 p 0 ((BitVec.ofBool r).setWidth 6) ps
  | .tld p ps => encR 19 1 p 0 0 ps
  | .tst p ps => encR 19 2 p 0 0 ps
  | .tzero p t => encR 19 3 p (t.setWidth 6) 0 0
  | .epi p ps => encR 20 0 p 0 0 ps
  | .bfly p ps => encR 21 0 p 0 0 ps
  | .gather p ps => encR 22 0 p 0 0 ps
  | .dist p ps => encR 22 1 p 0 0 ps
  | .topk p ps => encR 22 2 p 0 0 ps
  | .rdsr p d n => encR 23 0 p d (n.setWidth 6) 0
  | .wrsr p n b => encB 23 1 p 0 (n.setWidth 6) b
  | .trap p d a b => encS 23 2 p d a b
  | .timeNow p sd => encR 23 12 p sd 0 0
  | .timeErr p sd => encR 23 13 p sd 0 0
  | .timeAfter p pd sa => encR 23 14 p (predReg pd) sa 0
  | .resume p sd sa b => encS 24 0 p sd sa b
  | .kill p sd sa b => encS 24 1 p sd sa b
  | .srdsr p sd n b => encS 24 2 p sd n b
  | .swrsr p n sa b => encS 24 3 p n sa b
  | .sret p sa => encS 24 4 p 0 sa (.s 62)
  | .tlbinv p m sa sb => encS 24 5 p (m.setWidth 6) sa (.s sb)
  | .keynew p sd sa => encS 24 6 p sd sa (.s 62)
  | .fadd p m d a b => encRaw 4 (fpMinor 0 m) p d a b
  | .fsub p m d a b => encRaw 4 (fpMinor 1 m) p d a b
  | .fmul p m d a b => encRaw 4 (fpMinor 2 m) p d a b
  | .ffma p m d a b => encRaw 4 (fpMinor 3 m) p d a b
  | .frint p m d a => encRaw 5 (fpMinor 3 m) p d a (.v 0)
  | .sel p k d a b => encRaw 2 (1#1 ++ k) p d a b
  | .ldi p u d imm => [(3#5 ++ BitVec.ofBool u ++ p.reg ++ BitVec.ofBool p.inv ++ d ++ imm : BitVec 32)]
  | .bra p off => [(10#5 ++ 0#1 ++ p.reg ++ BitVec.ofBool p.inv ++ off : BitVec 32)]
  | .call p off => [(10#5 ++ 1#1 ++ p.reg ++ BitVec.ofBool p.inv ++ off : BitVec 32)]
  | .coldReset _ => []
  | .firmwareImageReplacement _ => []
  | .flitDelivery _ _ _ _ => []
  | .handshakeToken _ _ _ _ _ _ => []
  | .linkIdleTimeout _ => []
  | .linkUp _ => []
  | .wakeTimeout _ => []
  | .trainingAttemptEnd _ _ => []
  | .timeTick _ => []
  | .syncInterval => []
  | .sync _ _ => []
  | .followUp _ _ => []
  | .pdelayReq _ _ => []
  | .pdelayResp _ _ => []
  | .pdelayRespFollowUp _ _ => []
  | .holdover _ => []
  | .boundSaturation _ => []
  | .masterTimeWrite _ => []
  | .issueTurn _ _ _ => []
  | .starvationPromotion _ => []
  | .haltWordLimit _ => []
  | .groupHaltComplete _ => []
  | .yieldExpiry _ => []
  | .loadCompletion _ _ _ => []
  | .storeCompletion _ _ => []
  | .atomicPerform _ _ => []
  | .promotionRequest _ _ => []
  | .promotionAnswer _ => []
  | .hobPerform _ _ => []
  | .l1LogicalTick _ => []
  | .directoryInvalidation _ _ => []
  | .invalidationAck _ _ => []
  | .pageWalkComplete _ _ _ _ => []
  | .patrolScrub _ _ => []
  | .bankGate _ => []
  | .bankWake _ => []
  | .bankWakeComplete _ _ => []
  | .tlbinvComplete _ => []
  | .groupFormation _ => []
  | .binAgeFlush _ => []
  | .binIdleFlush _ => []
  | .binRoomReserve _ => []
  | .teamPlacement _ _ _ _ _ => []
  | .groupRetirement _ => []
  | .teamComplete _ => []
  | .chargeReport _ _ => []
  | .gridComplete _ => []
  | .childLaunch _ => []
  | .matrixCommandComplete _ _ => []
  | .copyTransfer _ _ _ => []
  | .copyComplete _ => []
  | .copyFault _ _ => []
  | .getTimeout _ => []
  | .gatherCommandComplete _ => []
  | .faultAfterIssue _ => []
  | .ringPost _ => []
  | .lockstepMismatchServiceCore _ => []
  | .lockstepMismatchCommandProcessor => []
  | .lockstepMismatchRootMonitor => []
  | .kernelEntry _ => []
  | .launch _ _ _ _ => []
  | .launchAt _ _ _ _ _ _ _ _ => []
  | .graph _ _ _ _ => []
  | .signal _ _ _ _ => []
  | .after _ _ _ _ _ => []
  | .dispatch => []
  | .watchedLineRead _ => []
  | .afterPoll _ => []
  | .afterTimeout _ => []
  | .launchAtStart _ _ => []
  | .replicatedCopyReceive _ _ => []
  | .graphNodeStart _ _ => []
  | .queueOpen _ _ _ => []
  | .queueStop _ => []
  | .queueRestart _ => []
  | .queueClose _ => []
  | .queueReset _ _ _ => []
  | .heartbeat _ _ => []
  | .schedulerHung _ => []
  | .commandLinkMessage _ _ _ => []
  | .preemptRequest _ => []
  | .placementWaitTimeout _ => []
  | .preemptHalt _ => []
  | .preemptKill _ => []
  | .contextSwapOut _ => []
  | .contextSwapIn _ _ => []
  | .partitionCommit _ _ => []
  | .keynewComplete _ => []
  | .tbWindow => []
  | .supervisorRegisterWrite _ _ _ _ => []
  | .hostCxlMemAccess _ _ => []
  | .backInvalidateAck _ _ => []
  | .hostLinkDown _ => []
  | .hostLinkReturn _ => []
  | .hostQuarantineExpiry _ => []
  | .cxlCacheSnoop _ _ _ => []
  | .portTraining _ _ _ => []

/-- The bytes of an instruction, lowest address first. -/
def encodeBytes (i : Instr) : List Byte := (encode i).flatMap bytes4

end Sys2Proof
end

