-- ==== Sys2Proof/Machine/Fetch.lean ====
section
/-! DEFINITION. What comes before a word's effect: the fetch and check of a clause, the safe-point halt, the wait
condition, starvation counts, and the fate of words that are no instructions (R42 to R44, R53, R86, R89, R92,
R105). -/

namespace Sys2Proof.Machine

/-! ## Selection (R89, R92) -/

/-- Entries whose count has reached 1,024 join the promotion queue in frontier order, once (R92). -/
def Group.promote (g : Group) : Group :=
  let due := g.frontier.filter fun (e : Entry) => decide (1024 ≤ e.starve) && !g.promo.contains e.addr
  { g with promo := g.promo ++ due.map fun (e : Entry) => e.addr }

/-- The group issues a clause from entry `e` (R92): its count returns to 0, it is no longer promoted, the others'
counts rise. -/
def Group.countClause (g : Group) (e : Entry) : Group :=
  ({ g with
      frontier := g.frontier.map fun (f : Entry) =>
        { f with starve := if f.addr == e.addr then 0 else f.starve + 1 }
      promo := g.promo.filter fun a => a != e.addr }).promote

/-- The wait condition of a header (R38, R43). -/
def waitMet (h : Header) (c : Counters) : Bool :=
  (h.ld == 7 || decide (c.ld ≤ h.ld)) && (h.st == 7 || decide (c.st ≤ h.st)) &&
    (h.cp == 7 || decide (c.cp ≤ h.cp)) && (h.tl == 7 || decide (c.tl ≤ h.tl))

/-! ## Fetching a clause (R42) -/

/-- The words of a clause, or the first word that cannot be fetched. -/
inductive ClauseFetch where
  | ok (h : W32) (words : List W32)
  | fault (cause : Nat) (addr : W64)
  | lost (cause : Nat)
  | wait (dies : List DieId)
  deriving DecidableEq, Repr

def State.fetchWords (s : State) (w : Who) (a : W64) : Nat → List W32 → ClauseFetch
  | 0, l => .ok 0 l.reverse
  | n + 1, l =>
    match s.fetchWord w a with
    | .fault c => .fault c a
    | .lost c => .lost c
    | .wait ds => .wait ds
    | .word x => s.fetchWords w (a + 4) n (x :: l)

def State.fetchClause (s : State) (w : Who) (a : W64) : ClauseFetch :=
  match s.fetchWord w a with
  | .fault c => .fault c a
  | .lost c => .lost c
  | .wait ds => .wait ds
  | .word h =>
    match s.fetchWords w (a + 4) (headerOf h).count [] with
    | .ok _ l => .ok h l
    | x => x

/-- The dies whose flits bring a core the `n` words of a clause, once it opens (R24): DEDUCED (log 115). -/
def State.clauseDies (s : State) (w : Who) (a : W64) (n : Nat) : List DieId :=
  (List.range n).flatMap fun i => s.fetchDies w (a + BitVec.ofNat 64 (4 * i))

/-- Keep a clause's words in the instruction cache, with the translation of its page (R163, R173); the flits that brought them
have raised the registers of the dies on their way (R24). -/
def State.cacheClause (s : State) (w : Who) (a : W64) (words : List W32) : State :=
  ((List.range words.length).zip words).foldl (fun s e => s.cacheWord w (a + BitVec.ofNat 64 (4 * e.1)) e.2)
    ((s.causal (s.clauseDies w a words.length)).learn w a.toNat)

/-- What comes of readying a group's next word: it issues, or the state after what happened instead. -/
inductive Ready where
  | run (i : Instr) (s : State)
  | done (s : State)
  deriving DecidableEq, Repr

/-- A group halts at once (R105); at a safe point it stands before a header, else it keeps its clause. -/
def Group.haltNow (g : Group) : Group :=
  { g with run := .halted, sret := none, clause := g.clause.map fun c => { c with isOpen := false } }

/-- The positions at which a word that is no instruction is active: with the reserved prefix, every position of the entry
(R46, R53). -/
def Group.activeAt (g : Group) (x : W32) : Mask :=
  let p := (fieldsOf x).prefixOf
  if p.wf then g.active p else g.entryMask

/-- The clause `c` of a group has ended, and the read of the next header is made again (R43, R90): where it has to wait, the
links that it needs are woken (R25). -/
def State.readNext (s : State) (g : Group) (c : Clause) : State :=
  let s1 := s.fallThrough g c
  match g.entry? with
  | none => s1
  | some e =>
    match s.rebuild g e (some e.prio) fun _ => some c.next with
    | .wait ds => s1.wakeLinks ds
    | _ => s1

/-- The next word of an open clause, among those that were fetched and checked, decoded; a word that is no instruction meets
its fate (R53). The turn counts as an issue of the group also where the word is then held at issue, or where a read of code
has to wait (R39, R86): DESIGN CHOICE (log 89). Past the last word the clause ends, also where a clause that was stopped has
fewer words than before: DESIGN CHOICE (log 87). -/
def State.readyWord (s : State) (g : Group) (c : Clause) : Ready :=
  let h : Group := { g with lastTurn := s.turn }
  match c.word? 0 with
  | none => .done (s.popIssue.readNext h c)
  | some x =>
    match decodeWord x (if litFollows x then (c.word? 1).getD 0 else 0) with
    | .ok i => .run i (s.setGroup h)
    | .error _ =>
      let A := g.activeAt x
      if A = 0 then .done (s.popIssue.advance h (if litFollows x then 2 else 1))
      else .done (s.popIssue.trap g A Cause.illegalInstruction A 0)

/-- Open the clause at `a` for entry `e` (R42, R43); `kept` is the word at which a stopped clause goes on. In a trap that R42
raises no lane has failed a check: FMASK is the entry's mask, DESIGN CHOICE (log 88). A group that halts before the header
keeps its frontier as it is, so that this header is the one at which it stands; the entry takes the header's priority when
the clause is fetched again for issue, DEDUCED (log 117). -/
def State.openClause (s : State) (g : Group) (e : Entry) (kept : W64) : Ready :=
  let w := s.whoOf g
  let begun : Nat := (g.clause.map (·.count)).getD 0
  let fresh : Bool := kept = e.addr ∨ (kept = e.addr + 4 ∧ begun = 0)
  let stopped : Group :=
    { g with clause := some ⟨e.addr, if fresh then 0 else begun, if fresh then e.addr else kept, false, []⟩ }
  match s.fetchClause w e.addr with
  | .wait ds => .done ((s.popIssue.setGroup { g with lastTurn := s.turn }).wakeLinks ds)
  | .lost c => .done (s.popIssue.terminateOf stopped e.mask c)
  | .fault c a => .done (s.popIssue.trap stopped e.mask c e.mask a)
  | .ok hw words =>
    let h := headerOf hw
    if !clauseOk h words then .done (s.popIssue.trap stopped e.mask Cause.illegalClause e.mask 0)
    else
      let e1 : Entry := { e with prio := h.prio }
      let g1 := { g with frontier := insertEntry e1 (g.frontier.filter fun f => f.addr != e.addr) }
      if h.safe ∧ g.halt.isSome ∧ fresh then .done (s.popIssue.setGroup { g with run := .halted, clause := none })
      else if !waitMet h g.cnt then .done (s.popIssue.setGroup g1)
      else
        let first := if fresh then e.addr + 4 else kept
        let c : Clause := ⟨e.addr, h.count, first, true, words⟩
        let g2 := { (if fresh then g1.countClause e1 else g1) with clause := some c }
        ((s.cacheClause w e.addr (hw :: words)).setGroup g2).readyWord g2 c

/-- Ready the next word of the group at the head of the issue queue. -/
def State.readyNext (s : State) : Ready :=
  match s.issuing? with
  | none => .done s.popIssue
  | some g =>
    if g.ended ∨ g.run = .parked ∨ g.run = .halted ∨ g.seat.isNone then .done s.popIssue
    else
      match s.lateFor g.key with
      | some f => .done (s.popIssue.deliverLate f)
      | none =>
        if (g.halt.map fun n => decide (8192 ≤ n)).getD false then .done (s.popIssue.setGroup g.haltNow)
        else
          match g.clause with
          | some c =>
            if c.isOpen ∨ c.isPast then s.readyWord g c
            else
              match g.selected? with
              | some e => s.openClause g e c.kept
              | none => .done (s.popIssue.setGroup { g with clause := none })
          | none =>
            match g.selected? with
            | some e => s.openClause g e e.addr
            | none => .done s.popIssue

end Sys2Proof.Machine
end

