-- ==== Sys2Proof/Machine/Issue.lean ====
section
/-! DEFINITION. Issue turns, yielding, promotion and the halt of groups for pre-emption (R86, R87, R89, R92, R102, R105,
R106, R301). -/

namespace Sys2Proof.Machine

/-! ## Readiness (R86) -/

/-- Whether the wait condition of a group's selected entry holds. A clause that is under way, or over, has passed it; a
header that cannot be fetched is one whose trap is due; a fetch that waits is not ready. -/
def State.entryReady (s : State) (g : Group) : Bool :=
  match g.selected? with
  | none => false
  | some e =>
    if (g.clause.map fun c => c.isOpen || c.isPast).getD false then true
    else
      match s.fetchWord (s.whoOf g) e.addr with
      | .wait _ => false
      | .word h => waitMet (headerOf h) g.cnt
      | _ => true

/-- Teams of a grid (R80). -/
def LaunchRec.teams (l : LaunchRec) : Nat := l.d * l.cl * l.t

/-- Whether a grid's groups may issue on a core yet: a held grid has started on the core's Vent (R301), and every team of a
co-resident grid is placed (R300). -/
def State.gridOpen (s : State) (g : Group) : Bool :=
  match s.grid? g.grid, g.core with
  | some x, .vent v _ _ =>
    (x.held.isNone || x.started.contains v) && (!x.lrec.cor || x.placed.length == x.lrec.teams)
  | _, _ => true

/-- Ready, but for yielding: neither halted nor parked nor ended, seated, its grid started and its condition met. -/
def State.mayIssue (s : State) (g : Group) : Bool :=
  !g.ended && g.seat.isSome && g.run != .halted && g.run != .parked && s.gridOpen g && s.entryReady g

/-- The dies whose links the read of a group's next header waits for (R25). -/
def State.headerDies (s : State) (g : Group) : List DieId :=
  if g.ended ∨ g.seat.isNone ∨ g.run = .halted ∨ g.run = .parked ∨ !s.gridOpen g then []
  else
    match g.selected?.map fun e => s.fetchWord (s.whoOf g) e.addr with
    | some (.wait ds) => ds
    | _ => []

/-- Whether a group still yields (R102). -/
def Group.yields (g : Group) : Bool :=
  match g.run with
  | .yielding n => decide (0 < n)
  | _ => false

/-- The groups of a slot. -/
def State.slotGroups (s : State) (c : CoreId) (slot : Nat) : List Group :=
  s.groups.filter fun g => (g.seat.map fun x => x.core == c && x.slot == slot).getD false

/-- The ready groups of a slot: a yielding group counts only where no other is ready. -/
def State.readyGroups (s : State) (c : CoreId) (slot : Nat) : List Group :=
  let l := (s.slotGroups c slot).filter fun g => s.mayIssue g
  let m := l.filter fun g => !g.yields
  if m.isEmpty then l else m

def Group.gid (g : Group) : Nat := (g.seat.map (·.gid)).getD 0
def Group.row (g : Group) : Nat := (g.seat.map (·.row)).getD 0

/-- Insert a group in ascending order of `sr.gid`. -/
def insertGid (g : Group) : List Group → List Group
  | [] => [g]
  | h :: l => if g.gid < h.gid then g :: h :: l else h :: insertGid g l

def sortGid (l : List Group) : List Group := l.foldl (fun r g => insertGid g r) []

/-- The group that has gone longest without issuing, with the lowest `sr.gid` on a tie. -/
def longest (l : List Group) : Option Group :=
  (sortGid l).foldl
    (fun (b : Option Group) g =>
      match b with
      | none => some g
      | some x => if g.lastTurn < x.lastTurn then some g else some x) none

/-- The word at which a group stands: its partition and context, its selected entry's header and the next word of its
clause. -/
def State.standsAt (s : State) (g : Group) : Option (Nat × Nat × W64 × W64) :=
  g.selected?.map fun e => ((s.whoOf g).part, (s.whoOf g).ctx, e.addr, (g.clause.map (·.kept)).getD e.addr)

/-- The yielding groups of a slot have had one more turn. -/
def State.countYields (s : State) (c : CoreId) (slot : Nat) : State :=
  { s with groups := s.groups.map fun g =>
      if (g.seat.map fun x => x.core == c && x.slot == slot).getD false then
        match g.run with
        | .yielding n => { g with run := .yielding (n - 1) }
        | _ => g
      else g }

/-- The links that the slot's groups need to read their next headers are woken where they sleep (R25). -/
def State.wakeHeaders (s : State) (c : CoreId) (slot : Nat) : State :=
  s.wakeLinks ((s.slotGroups c slot).flatMap s.headerDies)

/-- ISSUE_TURN: the chosen group and those of its row that stand at the same word, which co-issue with it, are the next to
issue. `refetch` says that the core's instruction cache has dropped its words since the last turn (R173). -/
def execIssueTurn (core : CoreId) (slot : Nat) (refetch : Bool) (s : State) : Out :=
  let s0 := if refetch then s.setCore core fun c => { c with icache := [] } else s
  let ready := s0.readyGroups core slot
  let s1 : State := { (s0.countYields core slot).wakeHeaders core slot with turn := s.turn + 1 }
  .next (
    match longest ready with
    | none => s1
    | some g =>
      let co := ready.filter fun h => h.row == g.row && s0.standsAt h == s0.standsAt g
      { s1 with issueQ := s1.issueQ ++ (sortGid co).map (·.key) })

/-- STARVATION_PROMOTION (R92). -/
def execStarvationPromotion (g : Nat) (s : State) : Out := .next (s.onGroup g Group.promote)

/-- YIELD_EXPIRY (R102). -/
def execYieldExpiry (g : Nat) (s : State) : Out :=
  .next (s.onGroup g fun g => if g.run = .yielding 0 then { g with run := .running } else g)

/-! ## Halting (R105, R106) -/

/-- HALT_WORD_LIMIT: the group halts at the next instruction boundary. -/
def execHaltWordLimit (g : Nat) (s : State) : Out :=
  .next (s.onGroup g fun g =>
    if (g.halt.map fun n => decide (haltWords ≤ n)).getD false && (g.run != .parked) && !g.ended then g.haltNow
    else g)

/-- What a read of the safe-point table finds (R106). -/
inductive SafePoint where
  | live (v s : Nat)
  | full
  | wait (dies : List DieId)
  deriving DecidableEq, Repr

/-- Search the table's entries from number `k` on, `n` of them, for a code offset. -/
def State.searchTable (s : State) (w : Who) (spta : W64) (off cap : Nat) : Nat → Nat → SafePoint
  | 0, _ => .full
  | n + 1, k =>
    match s.xlate w (spta.toNat + 8 * k) 8 .read with
    | .wait ds => .wait ds
    | .ok key =>
      match s.readBar w.core key 8, s.lostAt key 8 with
      | some (.wait ds), _ => .wait ds
      | some _, _ => .full
      | _, some _ => .full
      | none, none =>
        let e := s.readNat key 8
        if bitsOf e 31 0 < off then s.searchTable w spta off cap n (k + 1)
        else if bitsOf e 31 0 ≠ off ∨ bitsOf e 63 48 ≠ 0 ∨ 62 < bitsOf e 47 40 ∨ 64 < bitsOf e 39 32 ∨
            cap < bitsOf e 39 32 then .full
        else .live (bitsOf e 39 32) (bitsOf e 47 40)
    | _ => .full

/-- The registers that a halted group saves: at a safe point those that the table names, else all. -/
def State.safePoint (s : State) (g : Group) : SafePoint :=
  match s.grid? g.grid, g.selected? with
  | some x, some e =>
    if g.clause.isSome ∨ (g.halt.map fun n => decide (haltWords ≤ n)).getD true then .full
    else s.searchTable (s.whoOf g) x.lrec.spta (s.offsetOf g e.addr).toNat g.cap x.lrec.sptn 0
  | _, _ => .full

/-- The dies whose flits bring what the table holds (R24). -/
def State.tableDies (s : State) (g : Group) : List DieId :=
  match s.grid? g.grid with
  | none => []
  | some x =>
    (List.range x.lrec.sptn).flatMap fun k =>
      match s.xlate (s.whoOf g) (x.lrec.spta.toNat + 8 * k) 8 .read with
      | .ok key => s.readDies g.core key 8
      | _ => []

/-- GROUP_HALT_COMPLETE: a halted group with nothing outstanding is saved; registers that are not saved read 0 from
then on. -/
def execGroupHaltComplete (g : Nat) (s : State) : Out :=
  .next (
    match s.group? g with
    | none => s
    | some g =>
      if g.run ≠ .halted ∨ !g.cnt.allZero ∨ g.halt.isNone then s
      else
        match s.safePoint g with
        | .wait ds => s.wakeLinks ds
        | .full => s.setGroup { g with halt := none }
        | .live v u =>
          (s.causal (s.tableDies g)).setGroup
            { g.onLanes g.live fun _ t => t.keep v with
                s := g.s.filter fun e => decide (e.1 < u)
                halt := none })

end Sys2Proof.Machine
end

