-- ==== Sys2Proof/Machine/FenceCache.lean ====
section
/-! DEFINITION. Class 15: FENCE and the cache instructions (R169 to R174, R186). -/

namespace Sys2Proof.Machine

/-- An acquire at a scope by the lanes `A` of a group ends the leases of the core's L1 (R186); at CORE scope none. -/
def State.acquireAt (s : State) (c : CoreId) (group : Nat) (A : Mask) (scope : Scope) : State :=
  (if scope = .core then s else s.endLeases c).acquiredBy group A

/-- An acquire that reads completion marks ends every lease, whatever its scope (R190). -/
def State.acquireAll (s : State) (c : CoreId) (group : Nat) (A : Mask) : State := (s.endLeases c).acquiredBy group A

/-- Whether a thread of the active positions has read a completion mark that an acquire fence is to order (R190). -/
def Group.marksRead (g : Group) (A : Mask) : Bool :=
  (lanesOf A).any fun i => ((g.thread? i).map (·.markRead)).getD false

/-- What a fence leaves in a thread that issues it (R177): a release fence its scope and where it stands; an acquire fence has
ordered the thread's earlier reads of completion marks. -/
def Thread.fenced (k : FenceKind) (scope : Scope) (now : Nat) (t : Thread) : Thread :=
  { t with
      fences := if k = .acq then t.fences else t.fences ||| scopeBit scope
      fenceAt := if k = .acq then t.fenceAt else now
      markRead := if k = .rel then t.markRead else false }

/-- FENCE (R170): the group is held until its condition is met. -/
def execFence (p : Pred) (k : FenceKind) (scope : Scope) (s : State) : Out :=
  issueWord p 1 [] [] s fun g A s =>
    let rel := decide (k ≠ .acq) && s.releaseWaits g scope
    let acq := decide (k ≠ .rel) && s.pendingOp g.key fun o => o.kind.isAtomicRead
    if rel ∨ acq ∨ s.lsuHeld g then s
    else
      (if k = .rel then s
       else if g.marksRead A then s.acquireAll g.core g.key A
       else s.acquireAt g.core g.key A scope).advance (g.onLanes A fun _ t => t.fenced k scope s.nextOp) 1

/-- Whether a path is in a path mask (R169). -/
def pathIn (m : BitVec 5) : Path → Bool
  | .lsu => m.getLsbD 0
  | .copy => m.getLsbD 1
  | .matrix => m.getLsbD 2
  | .gather => m.getLsbD 3
  | .host => m.getLsbD 4

/-- XFENCE (R171, R174): held until the group's operations on the from-paths have completed, and, as an LSU word, until its
acquires have been performed (R184); what happens before one of these has been performed by then, since a release is
performed after what it orders. With LSU among the to-paths the core's leases end. The group's later operations on the to-paths
are ordered after what has been performed by then. -/
def execXfence (p : Pred) (from_ to_ : BitVec 5) (s : State) : Out :=
  issueWord p 1 [] [] s fun g _ s =>
    if s.lsuHeld g ∨ s.pendingOp g.key fun o => pathIn from_ o.path then s
    else
      (([Path.lsu, .copy, .matrix, .gather, .host].filter (pathIn to_)).foldl (fun s p => s.acquiredOn p g.key (-1))
        (if pathIn to_ .lsu then s.endLeases g.core else s)).advance g 1

/-- The address that a line instruction names (R169). -/
def lineAddr (a : RegNum) (t : Thread) : Nat := (t.get64 a.toNat).toNat

/-- CFLUSH (R172): every dirty sector of the line is written back; needs P. -/
def execCflush (p : Pred) (a : RegNum) (s : State) : Out :=
  issueWord p 1 (regsFrom a 2) (regsFrom a 2) s fun g A s =>
    if g.held .st ∨ s.lsuHeld g then s
    else
      lsuChecked g A (lineAddr a) [] (fun t => [.va (lineAddr a t) 1 0]) .read s fun ps s =>
        s.issueOp g A .lsu .st .flush
          (accsOf g ps (lineAddr a) (fun _ _ _ => []) fun _ => []) (g.commandTeam A) 1

/-- The memory keys of the lanes whose addresses translate for reading. -/
def readableKeys (s : State) (g : Group) (A : Mask) (a : RegNum) : List Nat :=
  ((lanesOf A).filterMap g.thread?).filterMap fun t =>
    match s.xlate (s.whoOf g) (lineAddr a t) 1 .read with
    | .ok key => some key
    | _ => none

/-- The memory keys of the lanes whose addresses translate at all, whatever their pages permit (R172). -/
def namedKeys (s : State) (g : Group) (A : Mask) (a : RegNum) : List Nat :=
  ((lanesOf A).filterMap g.thread?).filterMap fun t => s.namedKey (s.whoOf g) (lineAddr a t)

/-- CINV (R172): the core's leases on the lines end, which needs no permission; an address that names no line is ignored. -/
def execCinv (p : Pred) (a : RegNum) (s : State) : Out :=
  issueWord p 1 (regsFrom a 2) (regsFrom a 2) s fun g A s =>
    if s.lsuHeld g then s
    else
      ((namedKeys s g A a).foldl (fun s key => s.setCore g.core fun c => c.dropLine (lineOf key)) s).advance g 1

/-- A core gets a lease on every sector of a line (R155, R172). -/
def State.leaseLine (s : State) (c : CoreId) (line : Nat) : State :=
  (List.range 8).foldl (fun s i => s.fillL1 c (1024 * line + 128 * i)) s

/-- What keeps CPREF from filling the lines of `keys` now, as the dies whose links are to carry the fills: a walk, a host link
that is down, a slice that wakes (R160), or links that carry no traffic (R25, R27). -/
def cprefBar (s : State) (g : Group) (A : Mask) (a : RegNum) (keys : List Nat) : Option (List DieId) :=
  let walks := ((lanesOf A).filterMap g.thread?).filterMap fun t =>
    match s.xlate (s.whoOf g) (lineAddr a t) 1 .read with
    | .wait ds => some ds
    | _ => none
  let fills := keys.filterMap fun key =>
    if s.sliceWaking (s.fillVent g.core (lineOf key)) (lineOf key) then some []
    else
      match s.readBar g.core (1024 * lineOf key) 1024 with
      | some (.wait ds) => some ds
      | _ => none
  if walks.isEmpty ∧ fills.isEmpty then none else some (walks.flatten ++ fills.flatten)

/-- CPREF (R172): the line comes into the Vent's L2 and the core gets a lease; an address that fails translation or permission
is dropped, and one whose line is lost. The word is held while a fill has to wait. -/
def execCpref (p : Pred) (a : RegNum) (s : State) : Out :=
  issueWord p 1 (regsFrom a 2) (regsFrom a 2) s fun g A s =>
    if s.lsuHeld g then s
    else
      let keys := if isService g.core then [] else (readableKeys s g A a).filter fun key => !inWindow key
      match cprefBar s g A a keys with
      | some ds => s.wakeLinks ds
      | none =>
        (keys.foldl (fun s key =>
          if (s.portBlock key).isSome ∨ (s.lostAt key 1).isSome then s
          else (s.causal (s.linePath g.core (1024 * lineOf key) 1024 false)).leaseLine g.core (lineOf key)) s).advance g 1

/-- CZERO (R172): 64 stores of 16 zero bytes; needs W. -/
def execCzero (p : Pred) (a : RegNum) (s : State) : Out :=
  issueWord p 1 (regsFrom a 2) (regsFrom a 2) s fun g A s =>
    if g.held .st ∨ s.lsuHeld g then s
    else
      lsuChecked g A (lineAddr a) [(Cause.misaligned, fun t => lineAddr a t % 1024 == 0)]
        (fun t => [.va (lineAddr a t) 1024 0]) .write s fun ps s =>
          let parts := ps.map fun x =>
            (x.1, x.2.flatMap fun q =>
              match q.1 with
              | .mem key => (List.range 64).map fun k => (Loc.mem (key + 16 * k), 16, 16 * k)
              | _ => [])
          s.issueOp g A .lsu .st .store (accsOf g parts (lineAddr a) (fun _ _ n => List.replicate n 0) fun _ => [])
            (g.commandTeam A) 1

/-- IINV (R173): the core's instruction cache is discarded. -/
def execIinv (p : Pred) (s : State) : Out :=
  issueWord p 1 [] [] s fun g _ s =>
    if s.lsuHeld g then s
    else (s.setCore g.core fun c => { c with icache := [] }).advance g 1

end Sys2Proof.Machine
end

