-- ==== Sys2Proof/Machine/LdSt.lean ====
section
/-! DEFINITION. Classes 12 and 13: LD and ST (R121, R123, R124, R166, R167). -/

namespace Sys2Proof.Machine

/-- The value of `z` loaded bytes in a register (R166). -/
def loadValue (z : Nat) (signed : Bool) (l : List Byte) : W32 :=
  let x := natOfBytes l
  if signed ∧ 2 ^ (8 * z - 1) ≤ x then BitVec.ofInt 32 ((x : Int) - 2 ^ (8 * z)) else BitVec.ofNat 32 x

/-- Write loaded bytes, which lie at offset `roff` of the data, into the destination registers (R166). -/
def Thread.putLoaded (t : Thread) (d z : Nat) (signed : Bool) (roff : Nat) (l : List Byte) : Thread :=
  if z ≤ 4 then t.put d (loadValue z signed l)
  else (List.range (l.length / 4)).foldl
    (fun t i => t.put (d + roff / 4 + i) (wordOfBytes ((l.drop (4 * i)).take 4))) t

/-- The bytes of a thread's registers from byte `o` of the register space (R121). -/
def Thread.regBytes (t : Thread) (o n : Nat) : List Byte :=
  (List.range n).map fun i => (t.get ((o + i) / 4)).extractLsb' (8 * ((o + i) % 4)) 8

/-- Write one byte of the register space. -/
def Thread.putByte (t : Thread) (o : Nat) (b : Byte) : Thread :=
  let x := t.get (o / 4)
  let k := 8 * (o % 4)
  t.put (o / 4) ((x &&& ~~~((0xFF : W32) <<< k)) ||| (b.setWidth 32 <<< k))

def Thread.putBytes (t : Thread) (o : Nat) : List Byte → Thread
  | [] => t
  | b :: l => (t.putByte o b).putBytes (o + 1) l

/-- The checks of a load or store (R167): stack limit, alignment, extent. -/
def memChecks (s : State) (g : Group) (m : MemOp) (z : Nat) (store : Bool) : List LaneCheck :=
  [ (Cause.stackLimit, fun t =>
      !(store && m.space == .pv && m.base == 0 && decide (memAddr m z t < t.splim.toNat))),
    (Cause.misaligned, fun t => memAddr m z t % z == 0),
    (Cause.permission, fun t =>
      match m.space with
      | .rs => decide (memAddr m z t + z ≤ 4 * g.cap)
      | sp => (s.piecesOf t sp (memAddr m z t) z).isSome) ]

/-- The pieces of a position's access. -/
def memPieces (s : State) (m : MemOp) (z : Nat) (t : Thread) : List Piece :=
  (s.piecesOf t m.space (memAddr m z t) z).getD []

/-- A load of `z` bytes (R166, R167). A `.rs` load acts within its issue (R121). -/
def loadWord (p : Pred) (d : RegNum) (m : MemOp) (z : Nat) (signed : Bool) (s : State) : Out :=
  issueWord p (memLen m) (regsFrom d ((z + 3) / 4) ++ memRegs m) (memRegs m) s fun g A s =>
    if g.held .ld ∨ s.lsuHeld g then s
    else
      lsuChecked g A (memAddr m z) (memChecks s g m z false) (memPieces s m z) .read s fun ps s =>
        if m.space = .rs then
          if (lanesOf A).any fun i => g.badRead (1 <<< i : Mask)
              (((g.thread? i).map fun t => (List.range ((z + 3) / 4)).map fun k => memAddr m z t / 4 + k).getD []) then
            s.terminateOf g A Cause.uncorrectable
          else
            s.advance (g.onLanes A fun _ t => t.putLoaded d.toNat z signed 0 (t.regBytes (memAddr m z t) z)) (memLen m)
        else
          s.issueOp g A .lsu .ld (.load z signed d.toNat) (accsOf g ps (memAddr m z) (fun _ _ _ => []) fun _ => [])
            (g.commandTeam A) (memLen m)

/-- The `z` bytes that a position stores (R166). -/
def storeBytes (g : Group) (d : RegNum) (z i roff n : Nat) : List Byte :=
  match g.thread? i with
  | none => []
  | some t => (((t.regBytes (4 * d.toNat) z).drop roff).take n)

/-- A store of `z` bytes (R166, R167). -/
def storeWord (p : Pred) (d : RegNum) (m : MemOp) (z : Nat) (s : State) : Out :=
  issueWord p (memLen m) (regsFrom d ((z + 3) / 4) ++ memRegs m) (regsFrom d ((z + 3) / 4) ++ memRegs m) s
    fun g A s =>
      if g.held .st ∨ s.lsuHeld g then s
      else
        lsuChecked g A (memAddr m z) (memChecks s g m z true) (memPieces s m z) .write s fun ps s =>
          if m.space = .rs then
            s.advance (g.onLanes A fun _ t => t.putBytes (memAddr m z t) (t.regBytes (4 * d.toNat) z)) (memLen m)
          else
            s.issueOp g A .lsu .st .store (accsOf g ps (memAddr m z) (fun i r n => storeBytes g d z i r n) fun _ => [])
              (g.commandTeam A) (memLen m)

/-- LD.b8. -/
def execLdB8 (p : Pred) (d : RegNum) (m : MemOp) (s : State) : Out := loadWord p d m 1 false s
/-- LD.b16. -/
def execLdB16 (p : Pred) (d : RegNum) (m : MemOp) (s : State) : Out := loadWord p d m 2 false s
/-- LD.b32. -/
def execLdB32 (p : Pred) (d : RegNum) (m : MemOp) (s : State) : Out := loadWord p d m 4 false s
/-- LD.b64. -/
def execLdB64 (p : Pred) (d : RegNum) (m : MemOp) (s : State) : Out := loadWord p d m 8 false s
/-- LD.b128. -/
def execLdB128 (p : Pred) (d : RegNum) (m : MemOp) (s : State) : Out := loadWord p d m 16 false s
/-- LD.i8. -/
def execLdI8 (p : Pred) (d : RegNum) (m : MemOp) (s : State) : Out := loadWord p d m 1 true s
/-- LD.i16. -/
def execLdI16 (p : Pred) (d : RegNum) (m : MemOp) (s : State) : Out := loadWord p d m 2 true s
/-- ST.b8. -/
def execStB8 (p : Pred) (d : RegNum) (m : MemOp) (s : State) : Out := storeWord p d m 1 s
/-- ST.b16. -/
def execStB16 (p : Pred) (d : RegNum) (m : MemOp) (s : State) : Out := storeWord p d m 2 s
/-- ST.b32. -/
def execStB32 (p : Pred) (d : RegNum) (m : MemOp) (s : State) : Out := storeWord p d m 4 s
/-- ST.b64. -/
def execStB64 (p : Pred) (d : RegNum) (m : MemOp) (s : State) : Out := storeWord p d m 8 s
/-- ST.b128. -/
def execStB128 (p : Pred) (d : RegNum) (m : MemOp) (s : State) : Out := storeWord p d m 16 s

end Sys2Proof.Machine
end

