-- ==== Sys2Proof/Machine/Numbers.lean ====
section
/-! DEFINITION. Number formats and exact arithmetic (04): exact values, the one rounding operation `rnd`, the
functions of R58, stochastic rounding, block codes, chunked sums, the twiddle generator of 12 R259. Every value is
computed in exact integers and rounded once. -/

namespace Sys2Proof.Machine

/-! ## Exact values (R64, R73) -/

/-- An exact value: NaN, an infinity, or (-1)^neg * m * 2^e. A zero keeps the sign its operation gives it. -/
inductive Ex where
  | nan
  | inf (neg : Bool)
  | fin (neg : Bool) (m : Nat) (e : Int)
  deriving DecidableEq, Repr

/-- A floating format (R55, R59): precision, exponent of the smallest subnormal, fraction and total bits, the
largest finite value nmax * 2^qmax, whether it has infinities, and its canonical NaN (R56). -/
structure Fmt where
  prec : Nat
  q0   : Int
  frac : Nat
  bits : Nat
  nmax : Nat
  qmax : Int
  infs : Bool
  nan  : Nat
  deriving DecidableEq, Repr

/-- FP32 (R55). -/
def f32 : Fmt := ⟨24, -149, 23, 32, 2 ^ 24 - 1, 104, true, 0x7FC00000⟩

/-- BF16 (R59). -/
def bf16 : Fmt := ⟨8, -133, 7, 16, 255, 120, true, 0x7FC0⟩

/-- E4M3 (R59): no infinities, one NaN code for each sign. -/
def e4m3 : Fmt := ⟨4, -9, 3, 8, 14, 5, false, 0x7F⟩

/-- E5M2 (R59). -/
def e5m2 : Fmt := ⟨3, -16, 2, 8, 7, 13, true, 0x7E⟩

/-- The exact value of an encoding (R59, R60). -/
def decodeFmt (f : Fmt) (x : Nat) : Ex :=
  let neg := x / 2 ^ (f.bits - 1) % 2 == 1
  let mag := x % 2 ^ (f.bits - 1)
  let ex := mag / 2 ^ f.frac
  let fr := mag % 2 ^ f.frac
  let top := 2 ^ (f.bits - 1 - f.frac) - 1
  if f.infs && ex == top then (if fr == 0 then .inf neg else .nan)
  else if !f.infs && mag == 2 ^ (f.bits - 1) - 1 then .nan
  else if ex == 0 then .fin neg fr f.q0
  else .fin neg (2 ^ f.frac + fr) (f.q0 + (ex - 1 : Nat))

/-- The sign bit of an encoding. -/
def signBit (f : Fmt) (neg : Bool) : Nat := if neg then 2 ^ (f.bits - 1) else 0

/-- The encoding of an infinity. -/
def infBits (f : Fmt) (neg : Bool) : Nat :=
  signBit f neg + (2 ^ (f.bits - 1 - f.frac) - 1) * 2 ^ f.frac

/-- The encoding of n * 2^q, with n below 2^prec and normal unless q = q0. -/
def finBits (f : Fmt) (neg : Bool) (n : Nat) (q : Int) : Nat :=
  signBit f neg + (q - f.q0).toNat * 2 ^ f.frac + n

/-- The encoding of the largest finite value. -/
def maxBits (f : Fmt) (neg : Bool) : Nat := finBits f neg f.nmax f.qmax

/-- Whether the neighbour away from zero is chosen (R64, R70), given the kept part, the discarded part out of
2^sh, and the random word of a draw. -/
def roundAway (mode : RMode) (neg : Bool) (lo rem sh w : Nat) : Bool :=
  match mode with
  | .rn => decide (2 ^ sh < 2 * rem) || (2 * rem == 2 ^ sh && lo % 2 == 1)
  | .rz => false
  | .rd => neg && rem != 0
  | .ru => !neg && rem != 0
  | .rs => decide (2 ^ 16 ≤ rem * 2 ^ 16 / 2 ^ sh + w)

/-- m * 2^e rounded to an integer number of units 2^q. -/
def roundUnits (mode : RMode) (neg : Bool) (m : Nat) (e q : Int) (w : Nat) : Nat :=
  if q ≤ e then m * 2 ^ (e - q).toNat
  else
    let sh := (q - e).toNat
    let lo := m / 2 ^ sh
    if roundAway mode neg lo (m % 2 ^ sh) sh w then lo + 1 else lo

/-- What overflow gives (R65). -/
def overflowBits (f : Fmt) (mode : RMode) (neg : Bool) : Nat :=
  if !f.infs then maxBits f neg
  else match mode with
    | .rn => infBits f neg
    | .rz | .rs => maxBits f neg
    | .rd => if neg then infBits f neg else maxBits f neg
    | .ru => if neg then maxBits f neg else infBits f neg

/-- `rnd` for a floating format (R64, R65, R70): the encoding of x rounded once. w is the random word of the draw,
read only under `.rs`. -/
def rnd (f : Fmt) (mode : RMode) (w : Nat) : Ex → Nat
  | .nan => f.nan
  | .inf neg => if f.infs then infBits f neg else maxBits f neg
  | .fin neg m e =>
    if m = 0 then signBit f neg
    else
      let q := max (e + (Nat.log2 m + 1 : Nat) - f.prec) f.q0
      let n := roundUnits mode neg m e q w
      let r : Nat × Int := if n = 2 ^ f.prec then (2 ^ (f.prec - 1), q + 1) else (n, q)
      if f.qmax < r.2 ∨ (r.2 = f.qmax ∧ f.nmax < r.1) then overflowBits f mode neg
      else finBits f neg r.1 r.2

/-- x rounded to an integer (R66, R70), as sign and magnitude. -/
def roundInt (mode : RMode) (w : Nat) (neg : Bool) (m : Nat) (e : Int) : Int :=
  let n : Int := roundUnits mode neg m e 0 w
  if neg then -n else n

/-- Rounding to an integer format with saturation (R66). -/
def rndInt (lo hi : Int) (mode : RMode) (w : Nat) : Ex → Int
  | .nan => 0
  | .inf neg => if neg then lo else hi
  | .fin neg m e => max lo (min hi (roundInt mode w neg m e))

/-- An integer as an exact value; zero is +0. -/
def exOfInt (n : Int) : Ex := .fin (decide (n < 0)) n.natAbs 0

/-! ## Exact operations (R57, R73) -/

/-- -x. -/
def Ex.neg : Ex → Ex
  | .nan => .nan
  | .inf n => .inf !n
  | .fin n m e => .fin (!n) m e

/-- Signed mantissa of a finite value in units of 2^q, q being no larger than its exponent. -/
def mantAt (neg : Bool) (m : Nat) (e q : Int) : Int :=
  let n : Int := (m * 2 ^ (e - q).toNat : Nat)
  if neg then -n else n

/-- x + y (R57, R73); an exact zero of operands of opposite signs is -0 only in `.rd`. -/
def Ex.add (mode : RMode) : Ex → Ex → Ex
  | .nan, _ => .nan
  | _, .nan => .nan
  | .inf a, .inf b => if a == b then .inf a else .nan
  | .inf a, .fin _ _ _ => .inf a
  | .fin _ _ _, .inf b => .inf b
  | .fin a m e, .fin b n g =>
    let q := min e g
    let s := mantAt a m e q + mantAt b n g q
    if s = 0 then .fin (if m = 0 ∧ n = 0 ∧ a = b then a else mode == .rd) 0 0
    else .fin (decide (s < 0)) s.natAbs q

/-- x * y (R73). -/
def Ex.mul : Ex → Ex → Ex
  | .nan, _ => .nan
  | _, .nan => .nan
  | .inf a, .inf b => .inf (xor a b)
  | .inf a, .fin b n _ => if n = 0 then .nan else .inf (xor a b)
  | .fin a m _, .inf b => if m = 0 then .nan else .inf (xor a b)
  | .fin a m e, .fin b n g => .fin (xor a b) (m * n) (e + g)

/-- Whether x is an exact zero. -/
def Ex.isZero : Ex → Bool
  | .fin _ m _ => m == 0
  | _ => false

/-- Comparison by value; none if either is NaN; the two zeros are equal (R138). -/
def Ex.cmp : Ex → Ex → Option Ordering
  | .nan, _ => none
  | _, .nan => none
  | .inf a, .inf b => some (if a == b then .eq else if a then .lt else .gt)
  | .inf a, .fin _ _ _ => some (if a then .lt else .gt)
  | .fin _ _ _, .inf b => some (if b then .gt else .lt)
  | .fin a m e, .fin b n g =>
    let q := min e g
    some (compare (mantAt a m e q) (mantAt b n g q))

/-- Whether x is negative, -0 included. -/
def Ex.isNeg : Ex → Bool
  | .nan => false
  | .inf n => n
  | .fin n _ _ => n

/-- Exact sum of terms extended to infinities and NaN (R73); a zero sum is +0. -/
def exSum (ts : List Ex) : Ex := ts.foldl (Ex.add .rn) (.fin false 0 0)

/-! ## FP32 words -/

/-- The exact value of an FP32 word. -/
def exF32 (x : W32) : Ex := decodeFmt f32 x.toNat

/-- x rounded to FP32 (R64). -/
def toF32 (mode : RMode) (x : Ex) : W32 := BitVec.ofNat 32 (rnd f32 mode 0 x)

/-- The canonical FP32 NaN (R56). -/
def nan32 : W32 := 0x7FC00000

/-- min or max by value with -0 less than +0 (R137) on encodings of a format. -/
def fmtMinMax (f : Fmt) (isMax : Bool) (x y : Nat) : Nat :=
  let a := decodeFmt f x
  let b := decodeFmt f y
  match a.cmp b with
  | none => f.nan
  | some .lt => if isMax then y else x
  | some .gt => if isMax then x else y
  | some .eq => if a.isNeg == isMax then y else x

/-- chunk_add (R72). R246 says that an inactive row of MMA receives C's row unchanged: where an element of C is a NaN with a
payload, or 0 meets an infinity or a NaN of B, R72 and R73 give 0x7FC00000 all the same, DEDUCED (log 112). -/
def chunkAdd (c : W32) (s : Ex) : W32 :=
  match exF32 c, s with
  | .nan, _ => nan32
  | _, .nan => nan32
  | x, s =>
    if s.isZero then c
    else if x.isZero then toF32 .rn s
    else toF32 .rn (x.add .rn s)

/-- chunk_sum (R72), with fuel for the number of chunks. -/
def chunkSumFuel : Nat → W32 → List Ex → W32
  | 0, c, _ => c
  | k + 1, c, ts =>
    if ts.isEmpty then c else chunkSumFuel k (chunkAdd c (exSum (ts.take 32))) (ts.drop 32)

/-- chunk_sum (R72): the terms in increasing k, 32 to a chunk. -/
def chunkSum (c : W32) (ts : List Ex) : W32 := chunkSumFuel (ts.length / 32 + 1) c ts

/-! ## Block 4-bit codes (R62, R63) -/

/-- decode_q4 (R63). A zero magnitude is the value 0 without a sign. -/
def decodeQ4 (c sb : Nat) : Ex :=
  let x := sb % 64
  let fam := sb / 64 % 4
  if x = 63 then .nan
  else if fam = 0 then
    let v : Int := if c ≥ 8 then (c : Int) - 16 else c
    .fin (decide (v < 0)) v.natAbs (x - 32)
  else
    let m := c % 8
    let mag2 : Nat :=                                   -- twice the magnitude, or 16 times for powers of two
      if fam = 1 then [0, 1, 2, 3, 4, 6, 8, 12].getD m 0
      else if fam = 2 then (if m = 0 then 0 else 2 ^ m)
      else [0, 2, 4, 6, 8, 12, 16, 24].getD m 0
    let e : Int := if fam = 2 then -4 else -1
    .fin (c ≥ 8 && mag2 != 0) mag2 (e + (x - 32))

/-! ## Stochastic rounding (R69) -/

/-- mix16 (R69). -/
def mix16 (s : W32) (key : W64) (c : W32) : Nat :=
  let z0 : W64 := (s.setWidth 64 <<< 32 + c.setWidth 64) ^^^ (key * 0x9E3779B97F4A7C15#64)
  let z1 := (z0 ^^^ (z0 >>> 30)) * 0xBF58476D1CE4E5B9#64
  let z2 := (z1 ^^^ (z1 >>> 27)) * 0x94D049BB133111EB#64
  let z3 := z2 ^^^ (z2 >>> 31)
  (z3 >>> 48).toNat

/-! ## The functions of R58 -/

/-- Integer square root, bit by bit from bit i - 1 down. -/
def isqrtFrom : Nat → Nat → Nat → Nat
  | 0, r, _ => r
  | i + 1, r, n =>
    let t := r + 2 ^ i
    if t * t ≤ n then isqrtFrom i t n else isqrtFrom i r n

/-- floor of the square root of n. -/
def isqrt (n : Nat) : Nat := isqrtFrom (Nat.log2 n / 2 + 1) 0 n

/-- A positive value (2 * r + sticky) * 2^(e - 1): r is its floor in units of 2^e, and the sticky bit says that
something nonzero follows. It rounds to nearest as the exact value does once r has more than 25 bits. -/
def stickyEx (neg : Bool) (r : Nat) (exact : Bool) (e : Int) : Ex :=
  .fin neg (2 * r + if exact then 0 else 1) (e - 1)

/-- FRCP (R58). -/
def frcpEx : Ex → Ex
  | .nan => .nan
  | .inf n => .fin n 0 0
  | .fin n m e =>
    if m = 0 then .inf n
    else
      let k := Nat.log2 m + 64
      stickyEx n (2 ^ k / m) (2 ^ k % m == 0) (-(k : Int) - e)

/-- m * 2^e with an even exponent. -/
def evenExp (m : Nat) (e : Int) : Nat × Int := if e % 2 = 0 then (m, e) else (2 * m, e - 1)

/-- FSQRT (R58). -/
def fsqrtEx : Ex → Ex
  | .nan => .nan
  | .inf n => if n then .nan else .inf false
  | .fin n m e =>
    if m = 0 then .fin n 0 0
    else if n then .nan
    else
      let (m, e) := evenExp m e
      let big := m * 2 ^ 128
      let r := isqrt big
      stickyEx false r (r * r == big) (e / 2 - 64)

/-- FRSQ (R58). -/
def frsqEx : Ex → Ex
  | .nan => .nan
  | .inf n => if n then .nan else .fin false 0 0
  | .fin n m e =>
    if m = 0 then .inf n
    else if n then .nan
    else
      let (m, e) := evenExp m e
      let k := Nat.log2 m + 64
      let r := isqrt (2 ^ (2 * k) / m)
      stickyEx false r (r * r * m == 2 ^ (2 * k)) (-(e / 2) - k)

/-- Working precision of the transcendental functions, in bits after the point. -/
def trPrec : Nat := 256

/-- Error bound of every fixed-point result below, in units of 2^-256: far more than all truncations together. -/
def trErr : Nat := 2 ^ 20

/-- Σ x^(2k+1) / (2k+1) for k below n, alternating in sign if `alt`, in fixed point; x2 is x squared. -/
def oddSeries (alt : Bool) (x2 : Nat) : Nat → Nat → Nat → Int
  | 0, _, _ => 0
  | n + 1, k, pow =>
    let t : Int := (pow / (2 * k + 1) : Nat)
    let r := oddSeries alt x2 n (k + 1) (pow * x2 / 2 ^ trPrec)
    if alt && k % 2 == 1 then r - t else r + t

/-- atanh x in fixed point, for 0 ≤ x ≤ 1/3. -/
def atanhFix (x : Nat) : Nat := (oddSeries false (x * x / 2 ^ trPrec) 90 0 x).toNat

/-- atan (1/n) in fixed point. -/
def atanInv (n : Nat) : Nat :=
  let x := 2 ^ trPrec / n
  (oddSeries true (x * x / 2 ^ trPrec) 60 0 x).toNat

/-- ln 2 in fixed point: 2 atanh (1/3). -/
def ln2Fix : Nat := 2 * atanhFix (2 ^ trPrec / 3)

/-- pi in fixed point, by Machin's formula. -/
def piFix : Nat := 16 * atanInv 5 - 4 * atanInv 239

/-- Σ t^k / k! from k on, in fixed point: term is t^k / k!. -/
def expSeries (t : Nat) : Nat → Nat → Nat → Nat
  | 0, _, _ => 0
  | n + 1, k, term => term + expSeries t n (k + 1) (term * t / 2 ^ trPrec / (k + 1))

/-- The FP32 word of an irrational value known to within trErr units of 2^-256 and scaled by 2^sh: both ends of
the enclosure round alike (log 6). -/
def roundEnclosed (v sh : Int) : W32 :=
  let at_ (n : Int) : W32 := toF32 .rn (.fin (decide (n < 0)) n.natAbs (sh - trPrec))
  let lo := at_ (v - trErr)
  let hi := at_ (v + trErr)
  if lo = hi then lo else at_ v

/-- 2^x of a finite nonzero x = (-1)^neg * m * 2^e (R58). -/
def fexp2Fin (neg : Bool) (m : Nat) (e : Int) : W32 :=
  if 200 ≤ Nat.log2 m + e then (if neg then 0 else BitVec.ofNat 32 (infBits f32 false))
  else
    -- x in units of 2^-149, which every finite FP32 value is a multiple of
    let n := mantAt neg m e (-149)
    let i := n.fdiv (2 ^ 149)
    let fr := (n - i * 2 ^ 149).toNat
    if i < -160 then 0
    else if 128 ≤ i then BitVec.ofNat 32 (infBits f32 false)
    else if fr = 0 then toF32 .rn (.fin false 1 i)
    else
      let t := fr * 2 ^ (trPrec - 149) * ln2Fix / 2 ^ trPrec
      roundEnclosed (expSeries t 70 0 (2 ^ trPrec)) i

/-- FEXP2 (R58). -/
def fexp2 (x : W32) : W32 :=
  match exF32 x with
  | .nan => nan32
  | .inf neg => if neg then 0 else x
  | .fin neg m e => if m = 0 then 0x3F800000 else fexp2Fin neg m e

/-- log2 of a finite positive m * 2^e (R58). -/
def flog2Fin (m : Nat) (e : Int) : W32 :=
  let l := Nat.log2 m
  let i := e + l
  if m = 2 ^ l then toF32 .rn (exOfInt i)
  else
    let z := (m - 2 ^ l) * 2 ^ trPrec / (m + 2 ^ l)
    let v := 2 * atanhFix z * 2 ^ trPrec / ln2Fix
    roundEnclosed (i * 2 ^ trPrec + v) 0

/-- FLOG2 (R58). -/
def flog2 (x : W32) : W32 :=
  match exF32 x with
  | .nan => nan32
  | .inf neg => if neg then nan32 else x
  | .fin neg m e =>
    if m = 0 then BitVec.ofNat 32 (infBits f32 true)
    else if neg then nan32
    else flog2Fin m e

/-- FRCP, FSQRT and FRSQ as words. -/
def frcp (x : W32) : W32 := toF32 .rn (frcpEx (exF32 x))
/-- FSQRT (R58). -/
def fsqrt (x : W32) : W32 := toF32 .rn (fsqrtEx (exF32 x))
/-- FRSQ (R58). -/
def frsq (x : W32) : W32 := toF32 .rn (frsqEx (exF32 x))

/-! ## The twiddle generator (12 R259) -/

/-- Σ (-1)^k t^(2k+c) / (2k+c)! in fixed point: cosine for c = 0, sine for c = 1; t2 is t squared. -/
def trigSeries (t2 c : Nat) : Nat → Nat → Nat → Int
  | 0, _, _ => 0
  | n + 1, k, term =>
    let r := trigSeries t2 c n (k + 1) (term * t2 / 2 ^ trPrec / ((2 * k + c + 1) * (2 * k + c + 2)))
    if k % 2 = 1 then r - term else r + term

/-- Cosine and sine of (pi / 2) * (r / l), 0 ≤ r < l, as FP32 words, exact at r = 0. -/
def quadrant (r l : Nat) : W32 × W32 :=
  if r = 0 then (0x3F800000, 0)
  else
    let t := piFix * r / (2 * l)
    let t2 := t * t / 2 ^ trPrec
    (roundEnclosed (trigSeries t2 0 45 0 (2 ^ trPrec)) 0, roundEnclosed (trigSeries t2 1 45 0 t) 0)

/-- FP32 negation of a finite value; zero stays +0 (R259). -/
def negNonzero (x : W32) : W32 := if x = 0 then 0 else x ^^^ 0x80000000

/-- The pair (C(k, L), S(k, L)) of R259. -/
def twiddle (k l : Nat) : W32 × W32 :=
  let k := k % l
  let q := 4 * k / l
  let (c, s) := quadrant (4 * k % l) l
  if q = 0 then (c, s)
  else if q = 1 then (negNonzero s, c)
  else if q = 2 then (negNonzero c, negNonzero s)
  else (s, negNonzero c)

/-! ## Digit reversal (R78) -/

/-- The digits of i in mixed radix, least significant first. -/
def digits : List Nat → Nat → List Nat
  | [], _ => []
  | q :: qs, i => i % q :: digits qs (i / q)

/-- Value of digits in mixed radix, least significant first. -/
def fromDigits : List Nat → List Nat → Nat
  | q :: qs, d :: ds => d + q * fromDigits qs ds
  | _, _ => 0

/-- digit_rev (R78). -/
def digitRev (i : Nat) (q : List Nat) : Nat := fromDigits q.reverse (digits q i).reverse

end Sys2Proof.Machine
end

