-- ==== Sys2Proof/Machine/Flags.lean ====
section
/-! DEFINITION. Conditions: the comparisons that CMP and FCMP write to a predicate, and the class mask of FCLASS
(R134, R138, R139, R214). -/

namespace Sys2Proof.Machine

/-- A condition on two integers (R134). -/
def condInt (cc : Cond) (x y : Int) : Bool :=
  match cc with
  | .eq => decide (x = y)
  | .ne => decide (x ≠ y)
  | .lt => decide (x < y)
  | .le => decide (x ≤ y)
  | .gt => decide (y < x)
  | .ge => decide (y ≤ x)

/-- CMP on two's complement readings. -/
def condSigned {n : Nat} (cc : Cond) (x y : BitVec n) : Bool := condInt cc x.toInt y.toInt

/-- CMP on unsigned readings. -/
def condUnsigned {n : Nat} (cc : Cond) (x y : BitVec n) : Bool := condInt cc x.toNat y.toNat

/-- FCMP (R138): with a NaN operand only `ne` is true; -0 equals +0. -/
def condF32 (cc : Cond) (x y : W32) : Bool :=
  match Ex.cmp (exF32 x) (exF32 y) with
  | none => cc == .ne
  | some .lt => cc == .ne || cc == .lt || cc == .le
  | some .eq => cc == .eq || cc == .le || cc == .ge
  | some .gt => cc == .ne || cc == .gt || cc == .ge

/-- FCLASS (R139): the bit of the class of a pattern. -/
def classF32 (x : W32) : W32 :=
  let e := x.toNat / 2 ^ 23 % 2 ^ 8
  let f := x.toNat % 2 ^ 23
  let neg := x.getLsbD 31
  let bit : Nat :=
    if e = 255 then
      if f = 0 then (if neg then 0 else 7) else if x.getLsbD 22 then 9 else 8
    else if e = 0 then
      if f = 0 then (if neg then 3 else 4) else if neg then 2 else 5
    else if neg then 1 else 6
  BitVec.ofNat 32 (2 ^ bit)

/-- The full test of a generation (R214): whether `gen` has reached `x`. -/
def genReached (gen x : W16) : Bool := decide ((gen - x).toNat < 2 ^ 15)

end Sys2Proof.Machine
end

