-- ==== Sys2Proof/Machine/Sync.lean ====
section
/-! DEFINITION. Class 17: barriers, sync words and WAIT (R212 to R219). -/

namespace Sys2Proof.Machine

/-- The scope of a barrier level (R212). -/
def levelScope : Level → Scope
  | .team => .core
  | .cluster => .cluster
  | .die => .die
  | .grid => .device

/-- Whether a level works for a group's grid (R212): the levels above the team need the co-residence flag. -/
def State.levelOk (s : State) (g : Group) (l : Level) : Bool :=
  l == .team || ((s.grid? g.grid).map fun x => x.lrec.cor && !(isService g.core)).getD false

/-- One arrival (R213): the state, the arriving thread and the generation it gets. -/
def arrive (s : State) (l : Level) (t : Thread) : State × Thread × W16 :=
  match s.barrier? t.team l with
  | none => (s, t, 0)
  | some b =>
    if t.arr.get l = some b.gen then (s, t, b.gen)
    else
      let b' : Barrier := if b.m ≤ b.n + 1 then ⟨b.gen + 1, 0, b.m⟩ else ⟨b.gen, b.n + 1, b.m⟩
      (s.moveBarrier t.team l fun _ => b', { t with arr := t.arr.set l b.gen }, b.gen)

/-- The arrivals of a list of lanes, ascending (R213). -/
def arriveAll (l : Level) : List Nat → State → Group → List (Nat × W16) → State × Group × List (Nat × W16)
  | [], s, g, r => (s, g, r.reverse)
  | i :: is, s, g, r =>
    match g.thread? i with
    | none => arriveAll l is s g r
    | some t =>
      let x := arrive s l t
      arriveAll l is x.1 (g.onLanes (1 <<< i : Mask) fun _ _ => x.2.1) ((i, x.2.2) :: r)

/-- An access that names no memory: a barrier's answer to a lane. -/
def answerAcc (e : Nat × W16) : Acc :=
  { n := e.1, lane := e.1, va := 0, rel := 0, after := 0, loc := .sc 0 0, len := 0, roff := 0, data := [], src := none
    sync := none, ops := [e.2.setWidth 32], owner := 0 }

/-- The dies whose traffic an arrival at a barrier level needs: Caldera keeps the barriers of the grid level (R24, R212). -/
def barrDies (l : Level) (c : CoreId) : List DieId := if l = .grid then [dieOf c, .caldera] else []

/-- BARR (R213): a release at the level's scope, then the arrivals; the generations come with the LD counter. The release
orders every earlier access of the group, its loads included (R177). While a link that the arrivals need carries no traffic the
word is held (R25, R27). -/
def barrWord (l : Level) (p : Pred) (d : RegNum) (s : State) : Out :=
  issueWord p 1 [d.toNat] [] s fun g A s =>
    if !s.levelOk g l then s.trap g A Cause.illegalState A 0
    else if g.held .ld ∨ s.accessesWait g then s
    else
      s.cross (barrDies l g.core) fun s =>
        let r := arriveAll l (lanesOf A) s g []
        r.1.issueOp r.2.1 A .lsu .ld (.barr l d.toNat) (r.2.2.map answerAcc) (g.commandTeam A) 1

/-- BTST (R214): the test is made when the operation completes; operand b is captured. -/
def btstWord (l : Level) (p : Pred) (pd : BitVec 3) (b : OpB) (s : State) : Out :=
  issueWord p (opBLen b) (opBRegs 1 b) (opBRegs 1 b) s fun g A s =>
    if !s.levelOk g l then s.trap g A Cause.illegalState A 0
    else if g.held .ld then s
    else
      let accs := (lanesOf A).filterMap fun i =>
        (g.thread? i).map fun t => answerAcc (i, (opBWord g t b).setWidth 16)
      s.issueOp g A .lsu .ld (.btst l pd.toNat) accs (g.commandTeam A) (opBLen b)

/-- The issue of SWSET and SWTST (R217). -/
def syncWord (p : Pred) (kind : OpKind) (ctr : Ctr) (a : RegNum) (b : OpB) (s : State) : Out :=
  issueWord p (opBLen b) (a.toNat :: opBRegs 1 b) (a.toNat :: opBRegs 1 b) s fun g A s =>
    if g.held ctr ∨ s.lsuHeld g then s
    else
      let addr (t : Thread) := (t.get a.toNat).toNat
      lsuChecked g A addr
        [(Cause.misaligned, fun t => addr t % 8 == 0), (Cause.permission, fun t => (s.scPlace t (addr t) 8).isSome)]
        (fun t => ((s.scPlace t (addr t) 8).map fun l => [Piece.at_ l 8 0]).getD []) .atomic s fun ps s =>
          s.issueOp g A .lsu ctr kind
            (s.atomicAccs g ps addr 0 fun i => match g.thread? i with | none => [] | some t => [opBWord g t b])
            (g.commandTeam A) (opBLen b)

/-- BARR.team. -/
def execBarrTeam (p : Pred) (d : RegNum) (s : State) : Out := barrWord .team p d s
/-- BARR.cluster. -/
def execBarrCluster (p : Pred) (d : RegNum) (s : State) : Out := barrWord .cluster p d s
/-- BARR.die. -/
def execBarrDie (p : Pred) (d : RegNum) (s : State) : Out := barrWord .die p d s
/-- BARR.grid. -/
def execBarrGrid (p : Pred) (d : RegNum) (s : State) : Out := barrWord .grid p d s
/-- BTST.team. -/
def execBtstTeam (p : Pred) (pd : BitVec 3) (b : OpB) (s : State) : Out := btstWord .team p pd b s
/-- BTST.cluster. -/
def execBtstCluster (p : Pred) (pd : BitVec 3) (b : OpB) (s : State) : Out := btstWord .cluster p pd b s
/-- BTST.die. -/
def execBtstDie (p : Pred) (pd : BitVec 3) (b : OpB) (s : State) : Out := btstWord .die p pd b s
/-- BTST.grid. -/
def execBtstGrid (p : Pred) (pd : BitVec 3) (b : OpB) (s : State) : Out := btstWord .grid p pd b s
/-- SWSET. -/
def execSwset (p : Pred) (a : RegNum) (b : OpB) (s : State) : Out := syncWord p .swset .st a b s
/-- SWTST. -/
def execSwtst (p : Pred) (pd : BitVec 3) (a : RegNum) (b : OpB) (s : State) : Out :=
  syncWord p (.swtst pd.toNat) .ld a b s

/-- A wait field (R38, R219). -/
def fieldMet (f : BitVec 3) (n : Nat) : Bool := f == 7 || decide (n ≤ f.toNat)

/-- WAIT (R219): the group is held until every counter is at or below its field. The spec does not say whether WAIT has issued
while the group's next word is held, or is itself the held word: it is the kept word, which a fault after issue that arrives
meanwhile shows in KADDR, DESIGN CHOICE (log 105). -/
def execWait (p : Pred) (ld st cp tl : BitVec 3) (s : State) : Out :=
  issueWord p 1 [] [] s fun g _ s =>
    if fieldMet ld g.cnt.ld ∧ fieldMet st g.cnt.st ∧ fieldMet cp g.cnt.cp ∧ fieldMet tl g.cnt.tl then s.advance g 1
    else s

/-! ## Sync-word contents (R216) -/

/-- The count of `m` performed bytes into a sync word (R216). -/
def syncCount (old : W64) (m : Nat) : W64 :=
  let target := bitsOf old.toNat 63 40
  let count := bitsOf old.toNat 39 16 + m
  let gen := bitsOf old.toNat 15 0
  if target = 0 then BitVec.ofNat 64 (count % 2 ^ 24 * 2 ^ 16 + gen)
  else BitVec.ofNat 64 (target * 2 ^ 40 + count % target * 2 ^ 16 + (gen + count / target) % 2 ^ 16)

end Sys2Proof.Machine
end

