-- ==== Sys2Proof/Machine/Perform.lean ====
section
/-! DEFINITION. Operations performed at their serving places: loads, stores, atomics, helped objects, sync words and
barrier tests, with the L1, ownership, retry queues, narrow marks, mixed sizes, debug mode and lost lines (R152 to R157,
R160, R167, R168, R177, R181, R184, R187, R189, R197, R200, R206, R208, R213, R214, R351). An event that names an access that is not due leaves it
outstanding (log 4). -/

namespace Sys2Proof.Machine

/-! ## Places -/

def Team.cells (t : Team) (l : Loc) : Cells :=
  match l with
  | .sc _ _ => t.scratch
  | .wb _ _ => t.w
  | .ab _ _ => t.a
  | .mem _ => []

def Loc.team : Loc → Nat
  | .sc t _ => t
  | .wb t _ => t
  | .ab t _ => t
  | .mem _ => 0

def Loc.off : Loc → Nat
  | .sc _ o => o
  | .wb _ o => o
  | .ab _ o => o
  | .mem k => k

/-- A place `n` bytes further. -/
def Loc.plus (l : Loc) (n : Nat) : Loc :=
  match l with
  | .mem k => .mem (k + n)
  | .sc t o => .sc t (o + n)
  | .wb t o => .wb t (o + n)
  | .ab t o => .ab t (o + n)

/-- Whether a place is a register of the configuration window: writes to it are ignored (R6, R14). -/
def Loc.isWindow (l : Loc) : Bool :=
  match l with
  | .mem key => inWindow key
  | _ => false

/-- Whether two places are of one space. -/
def Loc.sameSpace : Loc → Loc → Bool
  | .mem _, .mem _ => true
  | .sc t _, .sc u _ => t == u
  | .wb t _, .wb u _ => t == u
  | .ab t _, .ab u _ => t == u
  | _, _ => false

/-- Whether `n` bytes at `l` and `m` bytes at `k` share a byte. -/
def overlap (l : Loc) (n : Nat) (k : Loc) (m : Nat) : Bool :=
  l.sameSpace k && decide (l.off < k.off + m) && decide (k.off < l.off + n)

/-- The bytes at a place; the configuration window answers as R14 says. -/
def State.placeBytes (s : State) (l : Loc) (n : Nat) : List Byte :=
  match l with
  | .mem key => if inWindow key then bytesOfNat n (s.infoRead (key - Config.configWindowBase) n) else s.readBytes key n
  | _ =>
    match s.team? l.team with
    | none => List.replicate n 0
    | some t => (List.range n).map fun i => sget 0 (t.cells l) (l.off + i)

/-- Store bytes into sparse cells. -/
def putCells (m : Cells) (off : Nat) : List Byte → Cells
  | [] => m
  | b :: l => putCells (sput 0 m off b) (off + 1) l

/-- Whether the `n` bytes at a place meet a word that still holds the completion mark an engine wrote (R190). -/
def State.readsMark (s : State) (l : Loc) (n : Nat) : Bool :=
  s.marks.any fun m => overlap l n m.1 8 && s.placeBytes m.1 8 == bytesOf64 m.2

/-- An engine's completion mark stands at a place (R190); none in the configuration window, where writes are ignored (R6). -/
def State.mark (s : State) (l : Loc) : State :=
  if l.isWindow then s
  else { s with marks := (l, BitVec.ofNat 64 (natOfBytes (s.placeBytes l 8))) :: s.marks.filter fun m => m.1 != l }

/-- Write bytes at a place: memory at a Vent's slice that owns the line, or a team's store. -/
def State.writePlace (s : State) (vent : Nat) (who : Nat × Nat) (l : Loc) (bs : List Byte) : State :=
  match l with
  | .mem key => s.storeAt vent who key bs
  | .sc t o => s.onTeam t fun x => { x with scratch := putCells x.scratch o bs }
  | .wb t o => s.onTeam t fun x => { x with w := putCells x.w o bs }
  | .ab t o => s.onTeam t fun x => { x with a := putCells x.a o bs }

/-- Whether an access meets an uncorrectable word of a team's scratchpad, W or A (R351). -/
def State.placeBad (s : State) (l : Loc) (n : Nat) : Bool :=
  match s.team? l.team with
  | none => false
  | some t =>
    let bad := match l with | .mem _ => [] | .sc _ _ => t.badSc | .wb _ _ => t.badW | .ab _ _ => t.badA
    bad.any fun o => decide (l.off < o + 8) && decide (o < l.off + n)

/-! ## Operations and accesses -/

def State.op? (s : State) (id : Nat) : Option Op := s.ops.find? fun o => o.id == id

def State.onOp (s : State) (id : Nat) (f : Op → Op) : State :=
  { s with ops := s.ops.map fun o => if o.id == id then f o else o }

/-- An access of an operation is performed no more. -/
def State.dropAcc (s : State) (id n : Nat) : State :=
  s.onOp id fun o => { o with accs := o.accs.filter fun x => x.n != n }

def OpKind.isLoad : OpKind → Bool
  | .load _ _ _ => true
  | _ => false

def OpKind.isStore : OpKind → Bool
  | .store => true
  | _ => false

/-- Whether an access must wait for another of the same thread on common bytes: an earlier one in program order,
except a load behind a store, which it forwards; within one word a lower lane's, except among loads (R167, R168,
R181, R184, R200). -/
def State.bytesBlocked (s : State) (o : Op) (x : Acc) : Bool :=
  s.ops.any fun q =>
    q.group == o.group && q.path == .lsu && q.accs.any fun y =>
      overlap x.loc x.len y.loc y.len &&
        ((decide (q.id < o.id) && y.lane == x.lane && !(o.kind.isLoad && q.kind.isStore)) ||
          (q.id == o.id && !o.kind.isLoad && decide (y.lane < x.lane)))

/-- Whether a release must wait for an access of its thread that it orders before itself, whatever the scope (R177, R179). -/
def State.orderBlocked (s : State) (o : Op) (x : Acc) : Bool :=
  x.rel != 0 && s.ops.any fun q =>
    q.group == o.group && q.path == .lsu && q.kind.isAccess && decide (q.id < o.id) && decide (q.id < x.after) &&
      q.accs.any fun y => y.lane == x.lane

/-- Whether an access must wait for another one of its thread. -/
def State.accBlocked (s : State) (o : Op) (x : Acc) : Bool := s.bytesBlocked o x || s.orderBlocked o x

/-- The byte that the thread's own latest pending store puts at a place, if any (R168); none in the configuration window, where
stores are ignored (R6). -/
def State.forwarded (s : State) (o : Op) (lane : Nat) (l : Loc) : Option Byte :=
  if l.isWindow then none
  else s.ops.foldl
    (fun r q =>
      if q.group == o.group && decide (q.id < o.id) && q.kind.isStore then
        q.accs.foldl
          (fun r y => if y.lane == lane && overlap l 1 y.loc y.len then y.data[l.off - y.loc.off]? else r) r
      else r) none

/-- Bytes at a place, under the thread's own pending stores. -/
def State.forwardOver (s : State) (o : Op) (lane : Nat) (l : Loc) (bs : List Byte) : List Byte :=
  ((List.range bs.length).zip bs).map fun e => (s.forwarded o lane (l.plus e.1)).getD e.2

/-- The team that an access acts for: its lane's, while the lane is live. -/
def State.accTeam (s : State) (o : Op) (x : Acc) : Nat :=
  (((s.group? o.group).bind fun g => g.thread? x.lane).map (·.team)).getD o.team

/-- The context that an operation's accesses belong to (R330). -/
def State.whoCtx (s : State) (o : Op) : Nat × Nat := ((s.whoTeam o.core o.team).part, (s.whoTeam o.core o.team).ctx)

/-- One more lane of the same operation meets the same fault: the record gives the address of the lowest (R340, R343). -/
def LateFault.merge (y f : LateFault) : LateFault :=
  { y with fmask := y.fmask ||| f.fmask, faddr := if f.fmask.toNat < (y.fmask &&& (0 - y.fmask)).toNat then f.faddr else y.faddr }

/-- A fault after issue of one access (R340): it is performed no more. -/
def State.raiseLate (s : State) (o : Op) (x : Acc) (cause : Nat) : State :=
  let f : LateFault := ⟨o.group, s.accTeam o x, cause, o.active, 1 <<< x.lane, x.va, o.waddr, o.id⟩
  let s1 := s.dropAcc o.id x.n
  let same (y : LateFault) : Bool := y.group == f.group && y.op == f.op && y.cause == f.cause
  { s1 with
      lateFaults :=
        if s1.lateFaults.any same then s1.lateFaults.map fun y => if same y then y.merge f else y
        else s1.lateFaults ++ [f] }

/-- What an access to a place meets before it is performed: it waits, or its team is terminated (R158, R330, R351). -/
inductive Meet where
  | ok
  | wait
  | dies (cause : Nat)
  deriving DecidableEq, Repr

/-- Whether an operation was issued before a host port came back from a discard: its accesses over the port fault (R330). -/
def State.issuedBeforeReturn (s : State) (id key : Nat) : Bool :=
  match (portOfKey key).bind s.port? with
  | none => false
  | some p => decide (id < p.lostBelow)

/-- What a lost-line mark makes of a read (R351). -/
def State.meetsMark (s : State) (key n : Nat) : Meet :=
  match s.lostAt key n with
  | some c => .dies c
  | none => .ok

/-- `id` is the access's operation; `reads` says whether the access reads any byte (R351). -/
def State.meets (s : State) (id : Nat) (l : Loc) (n : Nat) (reads : Bool) : Meet :=
  match l with
  | .mem key =>
    if inWindow key then .ok
    else if s.issuedBeforeReturn id key then .dies Cause.hostLineLost
    else
      match s.portBlock key with
      | some (.lost c) => .dies c
      | some _ => .wait
      | none => if reads then s.meetsMark key n else .ok
  | _ => if s.placeBad l n then .dies Cause.uncorrectable else .ok

/-! ## Mixed sizes (R152) -/

/-- Whether access `x` of `o` and access `y` of `q` overlap in mixed size: global bytes in common, other sizes, other threads.
Both are outstanding, so that neither happens before the other. -/
def mixes (o : Op) (x : Acc) (q : Op) (y : Acc) : Bool :=
  (match x.loc with | .mem key => !inWindow key | _ => false) && overlap x.loc x.len y.loc y.len && x.len != y.len &&
    !(q.group == o.group && y.lane == x.lane)

/-- Whether an outstanding store overlaps an access in mixed size. -/
def State.mixed (s : State) (o : Op) (x : Acc) : Bool := s.ops.any fun q => q.kind.isStore && q.accs.any (mixes o x q)

/-- The byte that a load gives where mixed-size stores to it are outstanding: what it holds, or one of their values. -/
def State.mixByte (s : State) (o : Op) (x : Acc) (l : Loc) (b : Byte) : Byte :=
  s.ops.foldl
    (fun b q =>
      if q.kind.isStore then
        q.accs.foldl
          (fun b y =>
            if mixes o x q y && overlap l 1 y.loc y.len && Config.mixedPick s.fresh l.off then y.data.getD (l.off - y.loc.off) b
            else b) b
      else b) b

/-- A load under outstanding mixed-size stores (R152). -/
def State.mixLoad (s : State) (o : Op) (x : Acc) (bs : List Byte) : State × List Byte :=
  if s.mixed o x then
    ({ s with fresh := s.fresh + 1 }, ((List.range bs.length).zip bs).map fun e => s.mixByte o x (x.loc.plus e.1) e.2)
  else (s, bs)

/-- Of two mixed-size writes the later one to be performed may leave a common byte as the other wrote it (R152): the
outstanding stores' data follow `bs`, written by access `x`, at the bytes picked. -/
def State.mixStore (s : State) (o : Op) (x : Acc) (bs : List Byte) : State :=
  if s.mixed o x then
    { s with
        fresh := s.fresh + 1
        ops := s.ops.map fun q =>
          if q.kind.isStore then
            { q with accs := q.accs.map fun y =>
                if mixes o x q y then
                  { y with data := ((List.range y.data.length).zip y.data).map fun e =>
                      if overlap (y.loc.plus e.1) 1 x.loc x.len && Config.mixedPick s.fresh (y.loc.off + e.1) then
                        bs.getD (y.loc.off + e.1 - x.loc.off) e.2
                      else e.2 }
                else y }
          else q }
  else s

/-- Who makes an access of global memory: the path, with a thread's group and lane, or with 0 and a host's port, and the number
of its operation. -/
structure Maker where
  path  : Path
  group : Nat
  lane  : Nat
  op    : Nat
  deriving DecidableEq, Repr

/-- The maker of lane `i`'s access of an operation. -/
def Op.maker (o : Op) (i : Nat) : Maker := ⟨o.path, o.group, i, o.id⟩

/-- The maker of an engine command that is performed for its group as a whole. -/
def Op.engine (o : Op) : Maker := o.maker ((lowLane o.active).getD 0)

/-- How many of the writes performed come before an access by the acquires of its maker. -/
def State.seenPast (s : State) (m : Maker) : Nat :=
  ((s.acquires.find? fun a => a.group == m.group && a.path == m.path && a.lanes.getLsbD m.lane && decide (a.op ≤ m.op)).map
    (·.n)).getD 0

/-- Whether `n` bytes at `key` that `m` accesses and a write that has been performed overlap in mixed size: bytes in common,
other sizes, another thread or another path, and no order between the two. -/
def State.mixesPast (s : State) (m : Maker) (key n : Nat) (e : PastWrite) : Bool :=
  decide (e.key < key + n) && decide (key < e.key + e.old.length) && e.old.length != n &&
    !(e.path == m.path && e.group == m.group && e.lane == m.lane) && decide (s.seenPast m ≤ e.n)

/-- Whether a write that has been performed covers a byte. -/
def PastWrite.covers (e : PastWrite) (key : Nat) : Bool := decide (e.key ≤ key) && decide (key < e.key + e.old.length)

/-- The byte `b` at `key` as a load may give it under the unordered writes `l`, the latest first: one that a write stored, or the
initial one. -/
def pastByte (c key : Nat) (l : List PastWrite) (b : Byte) : Byte :=
  l.foldl (fun b e => if e.covers key && Config.mixedPick (c + e.n) key then e.old.getD (key - e.key) b else b) b

/-- The bytes `bs` that a load by `m` reads at `key`, where unordered writes of other sizes have been performed (R152). -/
def State.mixRead (s : State) (m : Maker) (key : Nat) (bs : List Byte) : State × List Byte :=
  let l := s.past.filter (s.mixesPast m key bs.length)
  if l.isEmpty then (s, bs)
  else
    ({ s with fresh := s.fresh + s.past.length },
      ((List.range bs.length).zip bs).map fun e => pastByte s.fresh (key + e.1) l e.2)

/-- What a write by `m` of `bs` at `key` leaves there: a byte that an unordered write of another size has written last may stay
(R152). -/
def State.mixWrite (s : State) (m : Maker) (key : Nat) (bs : List Byte) : State × List Byte :=
  if s.past.any (s.mixesPast m key bs.length) then
    ({ s with fresh := s.fresh + 1 },
      ((List.range bs.length).zip bs).map fun e =>
        match s.past.find? fun p => p.covers (key + e.1) with
        | some p =>
          if s.mixesPast m key bs.length p && Config.mixedPick s.fresh (key + e.1) then s.readByte (key + e.1) else e.2
        | none => e.2)
  else (s, bs)

/-- A write of `n` bytes of global memory is remembered, with what it replaces. -/
def State.notePast (s : State) (m : Maker) (key n : Nat) : State :=
  { s with past := ⟨s.past.length, key, s.readBytes key n, m.path, m.group, m.lane⟩ :: s.past }

/-- A write of global memory by `m` at a Vent's slice that owns the line; the configuration window ignores it (R6). -/
def State.writeMem (s : State) (vent : Nat) (who : Nat × Nat) (m : Maker) (key : Nat) (bs : List Byte) : State :=
  if inWindow key then s
  else
    let r := s.mixWrite m key bs
    (r.1.notePast m key bs.length).storeAt vent who key r.2

/-- A write of one maker at a place. -/
def State.writeAs (s : State) (vent : Nat) (who : Nat × Nat) (m : Maker) (l : Loc) (bs : List Byte) : State :=
  match l with
  | .mem key => s.writeMem vent who m key bs
  | _ => s.writePlace vent who l bs

/-! ## Debug mode (R153) -/

def State.debugOn (s : State) (w : Who) : Bool :=
  match s.part? w.part with
  | none => false
  | some x => !(isService w.core) && bitsOf (x.ctxpOf w.ctx) 30 30 == 1

/-- Whether an access overlaps a granule that a store of another size from another thread last wrote. -/
def State.mixedSize (s : State) (team tid key n size : Nat) : Bool :=
  s.debugLog.any fun d =>
    decide (16 * d.granule < key + n) && decide (key < 16 * d.granule + 16) && d.size != size &&
      !(d.team == team && d.tid == tid)

/-- The granules that `n` bytes at `key` touch. -/
def granulesOf (key n : Nat) : List Nat := (List.range ((key + n - 1) / 16 - key / 16 + 1)).map fun i => key / 16 + i

def State.logStore (s : State) (team tid key n size : Nat) : State :=
  { s with
      debugLog := (granulesOf key n).foldl
        (fun l k => (⟨k, size, team, tid⟩ : DebugStore) :: l.filter fun d => d.granule != k) s.debugLog }

/-- The thread of an access, for the debug log: its team and index. -/
def State.accTid (s : State) (o : Op) (x : Acc) : Nat × Nat :=
  match (s.group? o.group).bind fun g => g.thread? x.lane with
  | some t => (t.team, t.tid)
  | none => (o.team, 2048 + x.lane)

/-- Whether debug mode faults an access (R153); `size` is the size that counts. -/
def State.debugFault (s : State) (o : Op) (x : Acc) (size : Nat) : Bool :=
  match x.loc with
  | .mem key =>
    s.debugOn (s.whoTeam o.core o.team) &&
      s.mixedSize (s.accTid o x).1 (s.accTid o x).2 key x.len size
  | _ => false

/-- A store performed at a Vent's slice is kept where that slice is the line's home and holds it. -/
def State.debugStore (s : State) (vent : Nat) (o : Op) (x : Acc) (size : Nat) : State :=
  match x.loc with
  | .mem key =>
    if s.debugOn (s.whoTeam o.core o.team) ∧ vent = s.homeVent (lineOf key) ∧ (s.l2? vent (lineOf key)).isSome then
      s.logStore (s.accTid o x).1 (s.accTid o x).2 key x.len size
    else s
  | _ => s

/-! ## Loads (R154, R155, R167, R168) -/

/-- The bytes at a place as an operation's accesses read them, under the key that is theirs (R323). -/
def State.readPlace (s : State) (o : Op) (l : Loc) (n : Nat) : List Byte := (s.seenBy (s.whoCtx o).1).placeBytes l n

/-- The same for one maker, where unordered writes of other sizes have been performed (R152). -/
def State.readFor (s : State) (o : Op) (m : Maker) (l : Loc) (n : Nat) : State × List Byte :=
  match l with
  | .mem key => if inWindow key then (s, s.placeBytes l n) else s.mixRead m key (s.readPlace o l n)
  | _ => (s, s.placeBytes l n)

/-- Write a load's bytes into its lane, if the lane is still live (R99). -/
def State.deliver (s : State) (o : Op) (x : Acc) (f : Thread → Thread) : State :=
  s.onGroup o.group fun g => g.onLanes (1 <<< x.lane : Mask) fun _ t => f t

/-- The L1 sector that serves a load, unless it is to be filled afresh. -/
def State.l1Hit (s : State) (o : Op) (x : Acc) (refill : Bool) : Option L1Sector :=
  match x.loc with
  | .mem key =>
    if refill ∨ isService o.core then none
    else (s.core o.core).sector? (s.l1Now o.core) (s.serialAt key) (key / 128)
  | _ => none

/-- The bytes that a load reads, and the state after the fill it makes. -/
def State.loadBytes (s : State) (o : Op) (x : Acc) (refill : Bool) : State × List Byte :=
  match s.l1Hit o x refill, x.loc with
  | some h, .mem key => (s, (List.range x.len).map fun i => sget 0 h.data (key + i))
  | _, .mem key =>
    (if isService o.core then s else s.fillL1 o.core key, s.readPlace o x.loc x.len)
  | _, l => (s, s.placeBytes l x.len)

/-- The same under the writes that have been performed and the stores that are outstanding, unordered and of other sizes
(R152). -/
def State.mixedBytes (s : State) (o : Op) (x : Acc) (bs : List Byte) : State × List Byte :=
  let r := s.mixLoad o x bs
  match x.loc with
  | .mem key => if inWindow key then r else r.1.mixRead (o.maker x.lane) key r.2
  | _ => r

/-- What a load meets: one that its L1 serves waits for nothing, but reads no marked line (R351). -/
def State.meetsLoad (s : State) (o : Op) (x : Acc) (refill : Bool) : Meet :=
  match s.l1Hit o x refill, x.loc with
  | some _, .mem key => s.meetsMark key x.len
  | _, _ => s.meets o.id x.loc x.len true

/-- One access of a load. -/
def performLoad (z : Nat) (signed : Bool) (d : Nat) (refill : Bool) (o : Op) (x : Acc) (s : State) : State :=
  match s.meetsLoad o x refill with
  | .wait => s
  | .dies c => (s.dropAcc o.id x.n).terminate (s.accTeam o x) c 0 0
  | .ok =>
    if s.debugFault o x z then s.raiseLate o x Cause.mixedSize
    else
      let r := s.loadBytes o x refill
      let m := r.1.mixedBytes o x r.2
      let bs := s.forwardOver o x.lane x.loc m.2
      (m.1.dropAcc o.id x.n).deliver o x fun t => t.putLoaded d z signed x.roff bs

/-- One lane of a BTST (R214, R186): an advanced generation is an acquire. -/
def performBtst (l : Level) (pd : Nat) (o : Op) (x : Acc) (s : State) : State :=
  match (s.group? o.group).bind fun g => g.thread? x.lane with
  | none => s.dropAcc o.id x.n
  | some t =>
    let r := ((s.barrier? t.team l).map fun b => genReached b.gen ((x.ops.getD 0 0).setWidth 16)).getD false
    let s1 := (s.dropAcc o.id x.n).deliver o x fun t => t.setPred (BitVec.ofNat 3 pd) r
    if r then s1.acquireAt o.core o.group (1 <<< x.lane) (levelScope l) else s1

/-- Whether an address of `.sc` is of the cluster form (R147). -/
def isClusterForm (va : W64) : Bool := decide (2 ^ 31 ≤ va.toNat)

/-- One lane of a SWTST (R190, R217): a true test is an acquire at CORE scope for an own-form address and at CLUSTER scope
for a cluster-form one; it ends every lease of the L1 where it reads a completion mark. A false test that reads one is
remembered for the fence that makes an acquire of it (R177). -/
def performSwtst (pd : Nat) (o : Op) (x : Acc) (s : State) : State :=
  match s.meets o.id x.loc x.len true with
  | .wait => s
  | .dies c => (s.dropAcc o.id x.n).terminate (s.accTeam o x) c 0 0
  | .ok =>
    let w := natOfBytes (s.placeBytes x.loc 8)
    let r := genReached (BitVec.ofNat 16 w) ((x.ops.getD 0 0).setWidth 16)
    let s1 := (s.dropAcc o.id x.n).deliver o x fun t => t.setPred (BitVec.ofNat 3 pd) r
    if !r then (if s.readsMark x.loc 8 then s1.deliver o x fun t => { t with markRead := true } else s1)
    else if s.readsMark x.loc 8 then s1.acquireAll o.core o.group (1 <<< x.lane)
    else s1.acquireAt o.core o.group (1 <<< x.lane) (if isClusterForm x.va then .cluster else .core)

/-! ## Stores (R154 to R157, R167, R172) -/

/-- A write at a core's serving place: it waits for ownership of the line (R157), but in the configuration window it is
ignored (R6). -/
def State.ownedWrite (s : State) (o : Op) (m : Maker) (l : Loc) (bs : List Byte) (k : State → State) : State :=
  match l with
  | .mem key =>
    let vent := s.ventFor o.core (lineOf key)
    if inWindow key then k s
    else if s.mayWrite vent (lineOf key) then k (s.writeAs vent (s.whoCtx o) m l bs)
    else s.askOwn vent (lineOf key)
  | _ => k (s.writePlace 0 (0, 0) l bs)

/-- A core's L1 takes a store's bytes into a sector that it holds (R154). -/
def State.l1Store (s : State) (c : CoreId) (l : Loc) (bs : List Byte) : State :=
  match l with
  | .mem key => if isService c then s else s.setCore c fun x => x.updateL1 key bs
  | _ => s

/-- One access of a store. -/
def performStore (o : Op) (x : Acc) (s : State) : State :=
  match s.meets o.id x.loc x.len false with
  | .wait => s
  | .dies c => (s.dropAcc o.id x.n).terminate (s.accTeam o x) c 0 0
  | .ok =>
    if x.loc.isWindow then s.dropAcc o.id x.n
    else if s.debugFault o x x.len then s.raiseLate o x Cause.mixedSize
    else
      s.ownedWrite o (o.maker x.lane) x.loc x.data fun r =>
        (((r.l1Store o.core x.loc (r.placeBytes x.loc x.len)).debugStore (s.ventFor o.core (lineOf x.loc.off)) o x
          x.len).dropAcc o.id x.n).mixStore o x x.data

/-- One lane of a SWSET (R217). -/
def performSwset (o : Op) (x : Acc) (s : State) : State :=
  match s.meets o.id x.loc x.len true with
  | .wait => s
  | .dies c => (s.dropAcc o.id x.n).terminate (s.accTeam o x) c 0 0
  | .ok =>
    let old : W64 := BitVec.ofNat 64 (natOfBytes (s.placeBytes x.loc 8))
    (s.writePlace 0 (0, 0) x.loc (bytesOf64 (swsetValue old (x.ops.getD 0 0)))).dropAcc o.id x.n

/-- One lane of a CFLUSH (R172): every Vent's dirty sectors of the line are written back. -/
def performFlush (o : Op) (x : Acc) (s : State) : State :=
  match s.meets o.id x.loc 1 false with
  | .wait => s
  | .dies c => (s.dropAcc o.id x.n).terminate (s.accTeam o x) c 0 0
  | .ok =>
    let line := lineOf x.loc.off
    ({ s with l2 := s.l2.map fun (l : L2Line) => if l.line == line then l.clean else l }).dropAcc o.id x.n

/-! ## Helped objects (R189, R197, R200 to R208) -/

/-- Store an object's line at its home, where a step of `m` changed it. -/
def State.putObj (s : State) (vent : Nat) (who : Nat × Nat) (m : Maker) (key : Nat) (old new : List Byte) : State :=
  if old = new ∨ inWindow key then s else (s.notePast m key 1024).storeAt vent who key new

/-- A line's mark after a write by a release at the scopes `rel` (R187): the core is named while some scope is
narrow, and else the mark is emptied. -/
def State.markRelease (s : State) (key : Nat) (c : CoreId) (rel : BitVec 5) : State :=
  if inWindow key then s
  else if rel &&& 7 ≠ 0 then s.setNarrow (lineOf key) c
  else if rel ≠ 0 then s.clearNarrow (lineOf key)
  else s

/-- What a class 16 step gives: the object after it, whether it wrote as a release, and what it does to its
thread; none is ARES's fault. -/
def hobStep (op : HobOp) (d owner : Nat) (o : HObj) (word1 : W64) (ws : List W32) :
    Option (HObj × Bool × (Thread → Thread)) :=
  match op with
  | .hinit =>
    let r := hinitStep o ws
    some (r.1, true, fun t => t.put d (BitVec.ofNat 32 r.2))
  | .help => some (o, true, id)
  | .lda => some (o, false, fun t => t.putMany d (ldaImage o (ws.getD 0 0).toNat word1))
  | .apply =>
    let r := applyStep o ws
    some (r.1, r.2 == Status.ok, fun t => t.put d (BitVec.ofNat 32 r.2))
  | .ares => (aresStep o (ws.getD 0 0)).map fun x => (o, false, fun t => t.put64 d x)
  | .arel => some (arelStep o (ws.getD 0 0), true, id)
  | .ann k =>
    let r := annStep o k owner (blk64 ws 0) (if k = 8 ∨ k = 9 then blk64 ws 2 else 0)
    some (r.1, true, fun t => t.put d r.2)
  | .annSw =>
    let code := (ws.getD 4 0).toNat % 256
    let r := if o.valid ∧ code < 0x80 then (o, (0xFFFFFFF5 : W32)) else annStep o code owner (blk64 ws 0) (blk64 ws 2)
    some (r.1, true, fun t => t.put d r.2)

/-- The bytes over which the object after a class 16 step is written: HINIT starts from zeros (R201). -/
def hobBase (op : HobOp) (o : HObj) (ws : List W32) (old : List Byte) : List Byte :=
  if op = .hinit ∧ (hinitStep o ws).2 = Status.ok then List.replicate 1024 0 else old

/-- Pre-application at the home (R197): the object after it, written back; each operation that the slice applies is a release
at DEVICE scope on behalf of its owner, which empties the line's narrow mark (R187, R189). -/
def State.preApplyAt (s : State) (vent : Nat) (who : Nat × Nat) (m : Maker) (key : Nat) (old : List Byte) : State × HObj :=
  let o := objOfBytes old
  let r := o.preApply
  (if r = o then s else (s.putObj vent who m key old (r.bytes old)).clearNarrow (lineOf key), r)

/-- One position of a class 16 word, in one indivisible step at the home slice. -/
def performHob (op : HobOp) (d : Nat) (o : Op) (x : Acc) (s : State) : State :=
  match x.loc, s.meets o.id x.loc x.len true with
  | _, .wait => s
  | _, .dies c => (s.dropAcc o.id x.n).terminate (s.accTeam o x) c 0 0
  | .mem key, .ok =>
    if s.debugFault o x 16 then s.raiseLate o x Cause.mixedSize
    else
      let vent := s.homeVent (lineOf key)
      if !s.mayWrite vent (lineOf key) then s.askOwn vent (lineOf key)
      else
        let old := s.readPlace o x.loc 1024
        let pre := s.preApplyAt vent (s.whoCtx o) (o.maker x.lane) key old
        let mid := pre.2.bytes old
        match hobStep op d x.owner pre.2 (word64 mid 1) x.ops with
        | none => pre.1.raiseLate o x Cause.illegalState
        | some r =>
          let new := r.1.bytes (hobBase op pre.2 x.ops mid)
          let s1 := pre.1.putObj vent (s.whoCtx o) (o.maker x.lane) key mid new
          let s2 := if r.2.1 then s1.markRelease key o.core x.rel else s1
          let s3 := if old = new then s2 else s2.debugStore vent o x 16
          ((s3.l1Store o.core x.loc new).dropAcc o.id x.n).deliver o x r.2.2
  | _, .ok => s.dropAcc o.id x.n

/-! ## Atomics (R183, R184, R187, R208) -/

/-- The value that an ATOM writes (R183), none for no write. -/
def atomValue (op : AtomOp) (z : Nat) (old : Nat) (ws : List W32) : Option Nat :=
  let n := z / 4
  let a := natOfBytes (((ws.take n).flatMap bytesOfWord))
  let b := natOfBytes ((((ws.drop n).take n).flatMap bytesOfWord))
  let sg (v : Nat) : Int := (BitVec.ofNat (8 * z) v).toInt
  match op with
  | .ld => none
  | .ldRemote => none
  | .st => some a
  | .add => some ((old + a) % 2 ^ (8 * z))
  | .and => some (old &&& a)
  | .or => some (old ||| a)
  | .xor => some (old ^^^ a)
  | .minI => some (if sg old ≤ sg a then old else a)
  | .minN => some (min old a)
  | .maxI => some (if sg old ≤ sg a then a else old)
  | .maxN => some (max old a)
  | .swap => some a
  | .cas => if old = a then some b else none

/-- The old value into the result registers (R184). -/
def atomResult (op : AtomOp) (z d old : Nat) (t : Thread) : Thread :=
  if op = .st then t
  else if z = 4 then t.put d (BitVec.ofNat 32 old) else t.put64 d (BitVec.ofNat 64 old)

/-- Whether an ATOM.ld.remote must wait for a promotion (R187). -/
def State.promotionDue (s : State) (op : AtomOp) (o : Op) (key : Nat) : Bool :=
  op == .ldRemote &&
    match s.narrow? (lineOf key) with
    | none => false
    | some m => m.core != o.core

/-- An atomic that reads a completion mark: an acquire ends every lease of its core's L1 whatever its scope, and
any other read is remembered for the fence that makes an acquire of it (R178, R190). -/
def State.noteMark (s : State) (o : Op) (x : Acc) : State :=
  match o.kind with
  | .atom .st _ _ _ _ => s
  | .atom _ _ _ ord _ =>
    if ord = .acq ∨ ord = .ar then s.endLeases o.core
    else s.deliver o x fun t => { t with markRead := true }
  | _ => s

/-- Read, modify and write at a place that is free to be written. -/
def atomAt (op : AtomOp) (z d vent : Nat) (o : Op) (x : Acc) (s : State) : State :=
  let old := natOfBytes (s.readPlace o x.loc z)
  let s1 :=
    match atomValue op z old x.ops with
    | none => s
    | some v =>
      let r := ((s.writeAs vent (s.whoCtx o) (o.maker x.lane) x.loc (bytesOfNat z v)).debugStore vent o x z).mixStore o x
        (bytesOfNat z v)
      match x.loc with
      | .mem key => r.markRelease key o.core x.rel
      | _ => r
  let s2 := s1.l1Store o.core x.loc (s1.placeBytes x.loc z)
  ((if s.readsMark x.loc z then s2.noteMark o x else s2).dropAcc o.id x.n).deliver o x (atomResult op z d old)

/-- One position of an ATOM. On a valid object's line the object's pending hardware operations come first, and only
the loads go on (R208). -/
def performAtom (op : AtomOp) (z d : Nat) (o : Op) (x : Acc) (s : State) : State :=
  match x.loc, s.meets o.id x.loc x.len true with
  | _, .wait => s
  | _, .dies c => (s.dropAcc o.id x.n).terminate (s.accTeam o x) c 0 0
  | .mem key, .ok =>
    if inWindow key then (s.dropAcc o.id x.n).deliver o x (atomResult op z d (natOfBytes (s.placeBytes x.loc z)))
    else if s.debugFault o x z then s.raiseLate o x Cause.mixedSize
    else if s.promotionDue op o key then s
    else
      let vent := s.homeVent (lineOf key)
      if !s.mayWrite vent (lineOf key) then s.askOwn vent (lineOf key)
      else
        let base := lineOf key * 1024
        let old := s.readPlace o (.mem base) 1024
        if !(objOfBytes old).valid then atomAt op z d vent o x s
        else
          let s1 := (s.preApplyAt vent (s.whoCtx o) (o.maker x.lane) base old).1
          if op = .ld ∨ op = .ldRemote then atomAt op z d vent o x s1 else s1.raiseLate o x Cause.permission
  | _, .ok => atomAt op z d 0 o x s

/-! ## The end of an operation -/

/-- The acquire that the end of an operation is (R184, R186, R189). R189 names the results of APPLY with which it is one, and
not BADOBJ: it counts as one too, DESIGN CHOICE (log 107). -/
def finishAcquire (o : Op) (s : State) : State :=
  match o.kind with
  | .atom _ _ _ ord scope => if ord = .acq ∨ ord = .ar then s.acquireAt o.core o.group o.active scope else s
  | .hob _ _ => s.acquireAt o.core o.group o.active .device
  | _ => s

/-- An operation of which nothing is left to perform completes (R39). -/
def State.finishIfDone (s : State) (id : Nat) : State :=
  match s.op? id with
  | none => s
  | some o => if o.accs.isEmpty then (finishAcquire o s).retireOp o else s

/-- Whether an operation is performed at its line's home (R156, R184, R200). -/
def OpKind.atHome : OpKind → Bool
  | .atom _ _ _ _ _ => true
  | .hob _ _ => true
  | _ => false

/-- The memory address of an access that leaves its core: none for a register of the configuration window, for a load that
its L1 serves and for a team's stores. -/
def State.arrival (s : State) (o : Op) (x : Acc) : Option Nat :=
  match x.loc with
  | .mem key => if inWindow key ∨ (o.kind.isLoad ∧ (s.l1Hit o x false).isSome) then none else some key
  | _ => none

/-- The dies whose traffic one access needs (R24, R25); Caldera keeps the barriers of the grid level (R212). -/
def State.accPath (s : State) (o : Op) (x : Acc) : List DieId :=
  match o.kind with
  | .barr .grid _ => [dieOf o.core, .caldera]
  | .btst .grid _ => [dieOf o.core, .caldera]
  | _ =>
    match s.arrival o x with
    | some key => s.linePath o.core key x.len o.kind.atHome
    | none => []

/-- The Vent at whose slice an access arrives (R148, R156). -/
def State.arrivalVent (s : State) (o : Op) (key : Nat) : Nat :=
  if o.kind.atHome then s.homeVent (lineOf key) else s.ventFor o.core (lineOf key)

/-- Whether an access of the retry queues is still outstanding: of a bulk copy they are its bytes, and an engine's command
waits as a whole. -/
def State.retries (s : State) (r : Retry) : Bool :=
  s.ops.any fun o =>
    o.id == r.op &&
      ((o.accs.any fun x => x.n == r.acc) ||
        match o.kind with
        | .bulk b => !b.done.testBit r.acc && b.fault.isNone
        | .matrix _ => true
        | .gather _ => true
        | _ => false)

/-- Whether an access must wait in the retry queue of a slice: a way of the slice is waking, or an earlier access waits there
(R160). -/
def State.mustRetry (s : State) (vent line id n : Nat) : Bool :=
  s.sliceWaking vent line ||
    match s.retry.find? fun r => r.vent == vent && r.slice == s.sliceOf line && s.retries r with
    | none => false
    | some r => !(r.op == id && r.acc == n)

/-- An access joins the retry queue of a slice, once. -/
def State.joinRetry (s : State) (vent line id n : Nat) : State :=
  let r : Retry := ⟨vent, s.sliceOf line, id, n⟩
  if s.retry.contains r then s
  else { s with retry := (s.retry.filter fun x => s.retries x && !(x.op == id && x.acc == n)) ++ [r] }

/-- An access leaves the retry queue in which it waited. -/
def State.leaveRetry (s : State) (id n : Nat) : State :=
  if s.retry.any fun r => r.op == id && r.acc == n then { s with retry := s.retry.filter fun r => !(r.op == id && r.acc == n) }
  else s

/-- Access `n` of operation `id` arrives at a Vent's slice (R160): it waits in the slice's retry queue, or `k` acts. -/
def State.atSlice (s : State) (vent key id n : Nat) (k : State → State) : State :=
  if s.mustRetry vent (lineOf key) id n then s.joinRetry vent (lineOf key) id n else k (s.leaveRetry id n)

/-- The same for an access of an operation that may be served in its core. -/
def State.atArrival (s : State) (o : Op) (x : Acc) (k : State → State) : State :=
  match s.arrival o x with
  | none => k s
  | some key => s.atSlice (s.arrivalVent o key) key o.id x.n k

/-- Perform the accesses of an operation that `ns` names, in that order, where each is due. -/
def performAccs (f : Op → Acc → State → State) (id : Nat) : List Nat → State → State
  | [], s => s
  | n :: ns, s =>
    match s.op? id with
    | none => s
    | some o =>
      match o.accs.find? fun x => x.n == n with
      | none => performAccs f id ns s
      | some x =>
        performAccs f id ns (if s.accBlocked o x then s else s.cross (s.accPath o x) fun s => s.atArrival o x (f o x))

/-- LOAD_COMPLETION: loads, barrier answers and tests, and sync-word tests. -/
def execLoadCompletion (op : Nat) (accs : List Nat) (refill : Bool) (s : State) : Out :=
  match s.op? op with
  | none => .next s
  | some o =>
    .next (
      match o.kind with
      | .load z sg d => (performAccs (performLoad z sg d refill) op accs s).finishIfDone op
      | .barr _ d =>
        (performAccs (fun o x s => (s.dropAcc o.id x.n).deliver o x fun t => t.put d (x.ops.getD 0 0)) op accs
          s).finishIfDone op
      | .btst l pd => (performAccs (performBtst l pd) op accs s).finishIfDone op
      | .swtst pd => (performAccs (performSwtst pd) op accs s).finishIfDone op
      | _ => s)

/-- STORE_COMPLETION: stores, SWSET and CFLUSH. -/
def execStoreCompletion (op : Nat) (accs : List Nat) (s : State) : Out :=
  match s.op? op with
  | none => .next s
  | some o =>
    .next (
      match o.kind with
      | .store => (performAccs performStore op accs s).finishIfDone op
      | .swset => (performAccs performSwset op accs s).finishIfDone op
      | .flush => (performAccs performFlush op accs s).finishIfDone op
      | _ => s)

/-- ATOMIC_PERFORM. -/
def execAtomicPerform (op : Nat) (accs : List Nat) (s : State) : Out :=
  match s.op? op with
  | none => .next s
  | some o =>
    .next (
      match o.kind with
      | .atom a z d _ _ => (performAccs (performAtom a z d) op accs s).finishIfDone op
      | _ => s)

/-- HOB_PERFORM. -/
def execHobPerform (op : Nat) (accs : List Nat) (s : State) : Out :=
  match s.op? op with
  | none => .next s
  | some o =>
    .next (
      match o.kind with
      | .hob h d => (performAccs (performHob h d) op accs s).finishIfDone op
      | _ => s)

end Sys2Proof.Machine
end

