-- ==== Sys2Proof/Machine/Former.lean ====
section
/-! DEFINITION. The group former: flushes, room, the forming and reseating of groups, and their retirement (R83 to R85,
R100, R115, R117, R118, R223, R224, R232, R320, R333, R373). -/

namespace Sys2Proof.Machine

/-! ## Pre-emption as the former and the placement see it (R224, R310) -/

/-- A pre-emption of a context that covers a core and has reached a stage. -/
def State.preemptedAt (s : State) (c : CoreId) (part ctx stage : Nat) : Bool :=
  s.preempts.any fun x =>
    x.req.part == part && x.req.ctx == ctx && x.req.cores.contains c && decide (stage ≤ x.stage)

/-- Whether a team's image has been moved away (R311). -/
def State.swappedTeam (s : State) (team : Nat) : Bool := ((s.team? team).map (·.swapped)).getD false

/-! ## Bins (R222, R223) -/

/-- The cycle at which a bin's oldest record entered. -/
def Bin.oldest (b : Bin) : Nat := ((b.recs.head?).map (·.age)).getD 0

/-- Width and cap of the groups that a bin forms (R82, R298); on a service core 64 and 64 (R319). -/
def State.binShape (s : State) (c : CoreId) (b : Bin) : Nat × Nat :=
  if isService c then (64, 64)
  else
    match s.grid? b.grid with
    | none => (64, 64)
    | some x => (x.lrec.width, ((x.lrec.roles[b.role]?).map (·.cap)).getD 64)

/-- Whether a halt is pending for a bin's records on its core. -/
def State.binHalted (s : State) (c : CoreId) (b : Bin) : Bool :=
  match s.grid? b.grid with
  | none => false
  | some x => !(isService c) && s.preemptedAt c x.part x.ctx 2

/-- Full or flushed, and free to form. -/
def State.binReady (s : State) (c : CoreId) (b : Bin) : Bool :=
  !b.recs.isEmpty && (b.flushed || decide ((s.binShape c b).1 ≤ b.recs.length)) && !s.binHalted c b

/-- BIN_AGE_FLUSH: a bin whose oldest record has waited 256 cycles. -/
def execBinAgeFlush (core : CoreId) (s : State) : Out :=
  .next (s.setCore core fun c =>
    { c with bins := c.bins.map fun b =>
        if b.oldest + 256 ≤ s.cyclesOf core then { b with flushed := true } else b })

/-- BIN_IDLE_FLUSH: no slot has a ready group. -/
def execBinIdleFlush (core : CoreId) (s : State) : Out :=
  .next (
    if (List.range 4).any fun slot => !(s.readyGroups core slot).isEmpty then s
    else s.setCore core fun c => { c with bins := c.bins.map fun b => { b with flushed := true } })

/-! ## Room (R85, R115, R224) -/

/-- Groups that the launch records of a core are still to form: what they take is kept for them (R116). -/
def State.pendingGroups (s : State) (c : CoreId) : Nat :=
  ((s.core c).bins.map fun b =>
    (launchCount b + (s.binShape c b).1 - 1) / (s.binShape c b).1).sum

/-- Groups that are seated on a core. -/
def State.seatedGroups (s : State) (c : CoreId) : Nat :=
  (s.groups.filter fun g => (g.seat.map (·.core)) == some c).length

/-- Whether a core has positions, a group number and a register allotment for one more group, beside what is kept for launch
records. -/
def State.groupRoom (s : State) (c : CoreId) (w cap : Nat) : Bool :=
  (s.seatFor c w).isSome && decide (s.seatedGroups c + s.pendingGroups c < 256) &&
    (isService c || decide (w * cap * 4 / 256 ≤ s.freeGranules c))

/-- Whether a bin has room: a team's launch records have their numbers and allotments kept, which no other launch record's count
against. -/
def State.binRoom (s : State) (c : CoreId) (b : Bin) : Bool :=
  if isLaunchBin b then
    (s.seatFor c (s.binShape c b).1).isSome &&
      (isService c ||
        decide (s.otherGranules c + s.seatedGranules c + (s.binShape c b).1 * (s.binShape c b).2 * 4 / 256 ≤
          (s.core c).bankGranules))
  else s.groupRoom c (s.binShape c b).1 (s.binShape c b).2

/-- Cycles for which a bin waits for room before room is held for it. -/
def roomWait : Nat := 4096

/-- Whether a bin has waited that long. -/
def State.overdue (s : State) (c : CoreId) (b : Bin) : Bool :=
  match b.waiting with
  | none => false
  | some n => decide (n + roomWait ≤ s.cyclesOf c)

/-- The first bin, by its oldest record, among those that `p` accepts. Of two whose oldest records entered in the same cycle the
spec does not say which: the one listed first, DESIGN CHOICE (log 108). -/
def oldestBin (p : Bin → Bool) (l : List Bin) : Option Bin :=
  (l.filter p).foldl
    (fun (r : Option Bin) b =>
      match r with
      | none => some b
      | some x => if b.oldest < x.oldest then some b else some x) none

/-- BIN_ROOM_RESERVE: room that frees is held for the oldest bin among those that have waited so long, and for no other. -/
def execBinRoomReserve (core : CoreId) (s : State) : Out :=
  .next (
    match oldestBin (fun b => s.binReady core b && s.overdue core b) (s.core core).bins with
    | none => s
    | some h => s.setCore core fun c => { c with bins := c.bins.map fun b => { b with room := b.matches h } })

/-- The bin of a core for which room is held. -/
def State.roomHeld (s : State) (c : CoreId) : Option Bin := (s.core c).bins.find? fun b => b.room && s.binReady c b

/-- The bin that the former serves: the oldest for which there is room, but none that is later than the bin for which room is
held. Launch records have had their room kept since their team was placed (R116), so that it is not room that frees: they form
all the same, DEDUCED (log 102). -/
def State.binToForm (s : State) (c : CoreId) : Option Bin :=
  oldestBin
    (fun b =>
      s.binReady c b && s.binRoom c b &&
        (match s.roomHeld c with
         | none => true
         | some h => b.matches h || isLaunchBin b || decide (b.oldest ≤ h.oldest))) (s.core c).bins

/-- The bins that are ready and have no room begin to wait. -/
def State.noteWaits (s : State) (c : CoreId) : State :=
  let now := s.cyclesOf c
  let wait (b : Bin) : Bool :=
    s.binReady c b && !s.binRoom c b && b.waiting.isNone
  if (s.core c).bins.any wait then
    s.setCore c fun x =>
      { x with bins := x.bins.map fun (b : Bin) => if wait b then { b with waiting := some now } else b }
  else s

/-! ## Forming (R84, R224) -/

/-- The lanes of a group formed from records: record order from lane 0, empty lanes after them. -/
def lanesFrom (w : Nat) (l : List Rec) : List (Option Thread) :=
  (l.map fun r => some r.thread) ++ List.replicate (w - l.length) none

/-- What a group formed now does comes after what has been performed: on every path for a team's first groups, since what happened
before a launch happens before what the team does, and for its LSU accesses else (R152, R179, R294). DESIGN CHOICE (log 82). -/
def State.formedAcquire (s : State) (group : Nat) (launch : Bool) : State :=
  (if launch then [Path.lsu, .copy, .matrix, .gather] else [Path.lsu]).foldl (fun s p => s.acquiredOn p group (-1)) s

/-- Form a group from a bin. The spec does not say since when a group that is formed or seated counts as having gone without
issuing (R86): since the turn at which it is, DESIGN CHOICE (log 104). -/
def State.formFrom (s : State) (c : CoreId) (b : Bin) : State :=
  let w := (s.binShape c b).1
  let cb : W64 :=
    match c with
    | .service k => ((s.part? k).map (·.cb)).getD 0
    | .vent _ _ _ => ((s.grid? b.grid).map (·.lrec.cb)).getD 0
  let take := b.recs.take w
  let g := Group.formed s.nextKey b.grid b.role w (s.binShape c b).2 c (s.seatFor c w) b.prio
    (cb + b.resume.setWidth 64) (lanesFrom w take) b.sup
  let rest := b.recs.drop w
  (({ s with
      nextKey := s.nextKey + 1
      groups := s.groups ++ [{ g with lastTurn := s.turn }] }.setCore c fun x =>
    { x with
        bins := (x.bins.map fun (y : Bin) =>
          if y.matches b then { y with recs := rest, waiting := none, room := false } else y).filter fun y =>
            !y.recs.isEmpty }).trimL1 c).formedAcquire g.key (isLaunchBin b)

/-! ## Reseating (R311, R333, R373) -/

/-- Whether two cores are of one cluster. -/
def sameCluster (c d : CoreId) : Bool :=
  match c, d with
  | .vent v k _, .vent w m _ => v == w && k == m
  | .service k, .service m => k == m
  | _, _ => false

/-- Whether an off-core group waits for a seat: it is not parked by TRAP, and its image is not moved away. -/
def State.wantsSeat (s : State) (g : Group) : Bool :=
  g.seat.isNone && !g.ended &&
    !(g.run == .parked && s.parkings.any fun p => some p.key == g.parking && p.kind == 1) &&
    !(s.preempts.any fun x =>
        x.saved.isSome && x.req.part == (s.whoOf g).part && x.req.ctx == (s.whoOf g).ctx &&
          x.req.cores.contains g.core && !(isService g.core))

/-- Whether the former of a core seats a group: its own core where there is room, else another of the cluster. -/
def State.seatsHere (s : State) (c : CoreId) (g : Group) : Bool :=
  s.groupRoom c g.width g.cap &&
    (g.core == c || sameCluster g.core c && !(s.groupRoom g.core g.width g.cap))

/-- GROUP_FORMATION: a group that waits for a seat takes one, and else a bin forms. The spec holds room from later bins only and
does not speak of such a group: it is seated first, also where room is held for a bin, DESIGN CHOICE (log 109). -/
def execGroupFormation (core : CoreId) (s : State) : Out :=
  .next (
    match s.groups.find? fun g => s.wantsSeat g && s.seatsHere core g with
    | some g => (s.setGroup { g with seat := s.seatFor core g.width, lastTurn := s.turn }).trimL1 core
    | none =>
      let s1 := s.noteWaits core
      match s1.binToForm core with
      | none => s1
      | some b => s1.formFrom core b)

/-! ## Retirement (R100) -/

/-- GROUP_RETIREMENT: an ended group with nothing to load releases everything, its other counts going to a tracker
entry. -/
def execGroupRetirement (g : Nat) (s : State) : Out :=
  .next (
    match s.group? g with
    | none => s
    | some g =>
      let n := g.cnt.st + g.cnt.cp + g.cnt.tl
      let drop (s : State) : State := { s with groups := s.groups.filter fun h => h.key != g.key }
      if !g.ended ∨ g.cnt.ld ≠ 0 then s
      else if n = 0 then drop s
      else if 64 ≤ (s.trackers.filter fun t => t.core == g.core).length then s
      else drop { s with trackers := s.trackers ++ [⟨g.core, g.key, s.trackedTeam g, n⟩] })

end Sys2Proof.Machine
end

