-- ==== Sys2Proof/Machine/Place.lean ====
section
/-! DEFINITION. Grids and the placement of their teams: fit, the choice of clusters, command links, windows, launch
records and starts at an instant (R80, R83, R115 to R117, R147 to R149, R212, R222, R299 to R301, R306, R308). -/

namespace Sys2Proof.Machine

/-! ## What a team takes (R115, R116, R149) -/

/-- Threads of a role. -/
def roleCount (roles : List RoleRec) (k : Nat) : Nat :=
  ((roles[k]?).map (·.stop)).getD 0 - (if k = 0 then 0 else ((roles[k - 1]?).map (·.stop)).getD 0)

/-- Groups that a team forms at launch in a role. -/
def LaunchRec.roleGroups (l : LaunchRec) (k : Nat) : Nat := (roleCount l.roles k + l.width - 1) / l.width

/-- Groups that a team forms at launch. -/
def LaunchRec.teamGroups (l : LaunchRec) : Nat := ((List.range l.roles.length).map l.roleGroups).sum

/-- Granules of those groups' register allotments. -/
def LaunchRec.teamRegs (l : LaunchRec) : Nat :=
  ((List.range l.roles.length).map fun k =>
    l.roleGroups k * (l.width * ((l.roles[k]?).map (·.cap)).getD 0 * 4 / 256)).sum

/-- Granules of a team in all. -/
def LaunchRec.teamGranules (l : LaunchRec) : Nat := granules l.scratch + l.teamRegs

/-- Granules that the continuation store and the least L1 leave free on a core. -/
def emptyGranules : Nat := 3072 - contGranules - l1Floor

/-- How many teams a resource of size `n` holds, each taking `x`; `c` bounds the count where a team takes none. -/
def holdsTeams (c n x : Nat) : Nat := if x = 0 then c else n / x

/-- Teams that an empty core holds at once. The spec does not list what "resident at once" counts: beside what R116 and R149
name, the positions of the teams' groups (R85) and the slots of their launch records (R220), DESIGN CHOICE (log 120). -/
def LaunchRec.perCore (l : LaunchRec) : Nat :=
  [holdsTeams 256 emptyGranules l.teamGranules, holdsTeams 256 262144 l.wsize, holdsTeams 256 131072 l.asize,
    holdsTeams 256 16 l.tiles, holdsTeams 256 256 l.teamGroups, holdsTeams 256 2048 (l.width * l.teamGroups),
    holdsTeams 256 4096 l.threads].foldl min 256

/-! ## Clusters of a partition (R314, R315, R316) -/

/-- Whether a cluster is a partition's to place on: its Vent is live, and no active child holds it. -/
def State.clusterOk (s : State) (p v c : Nat) : Bool :=
  match s.part? p with
  | none => false
  | some x =>
    s.liveVents.contains v && x.desc.clmask.getLsbD (8 * v + c) &&
      (childrenOf p).all fun q => !(s.partOn q && ((s.part? q).map fun y => y.desc.clmask.getLsbD (8 * v + c)).getD false)

/-- The clusters of a partition on a Vent, and all of them. -/
def State.ventClusters (s : State) (p v : Nat) : List (Nat × Nat) :=
  ((List.range 8).filter fun c => s.clusterOk p v c).map fun c => (v, c)

def State.partClusters (s : State) (p : Nat) : List (Nat × Nat) := (List.range 8).flatMap fun v => s.ventClusters p v

/-- Cluster positions of grids that stand on a cluster. -/
def State.clusterLoad (s : State) (v c : Nat) : Nat :=
  (s.grids.map fun x => (x.clusters.filter fun e => e.2.2.1 == v && e.2.2.2 == c).length).sum

/-- The element of least weight, the first on a tie. -/
def leastBy {α : Type} (w : α → Nat) (l : List α) : Option α :=
  l.foldl (fun (r : Option α) a =>
    match r with
    | none => some a
    | some b => if w a < w b then some a else some b) none

/-- The `n` elements of least weight, in the order of their weights. -/
def takeLeast {α : Type} [DecidableEq α] (w : α → Nat) : Nat → List α → List α
  | 0, _ => []
  | n + 1, l =>
    match leastBy w l with
    | none => []
    | some a => a :: takeLeast w n (l.erase a)

/-- The physical clusters of die position `d` on, given those that are taken: a Vent with enough free clusters, one that
no other position of the grid is on before one that is, and the least loaded clusters of it. -/
def State.chooseFrom (s : State) (p cl : Nat) : Nat → Nat → List (Nat × Nat) → List (Nat × Nat × Nat × Nat)
  | 0, _, _ => []
  | n + 1, d, used =>
    let free (v : Nat) := (s.ventClusters p v).filter fun e => !used.contains e
    let w (v : Nat) := (if used.any fun e => e.1 == v then 65536 else 0) + ((free v).map fun e => s.clusterLoad e.1 e.2).sum
    match leastBy w ((List.range 8).filter fun v => decide (cl ≤ (free v).length)) with
    | none => s.chooseFrom p cl n (d + 1) used
    | some v =>
      let cs := takeLeast (fun e => s.clusterLoad e.1 e.2) cl (free v)
      ((List.range cl).zip cs).map (fun e => (d, e.1, e.2.1, e.2.2)) ++ s.chooseFrom p cl n (d + 1) (used ++ cs)

/-- The die scheduler's choice of clusters for a grid (R81). -/
def State.chooseClusters (s : State) (p : Nat) (l : LaunchRec) : List (Nat × Nat × Nat × Nat) := s.chooseFrom p l.cl l.d 0 []

/-! ## Checks at launch (R299) -/

/-- Fit (R299). -/
def State.fits (s : State) (p : Nat) (l : LaunchRec) : Bool :=
  decide (l.teamGranules ≤ emptyGranules ∧ l.teamGroups ≤ 256 ∧ l.d * l.cl ≤ (s.partClusters p).length) &&
    (!l.cor || decide (l.t ≤ 16 * l.perCore))

/-- The dies whose links a translation waits for. -/
def Xl.awaits (x : Xl) : List DieId :=
  match x with
  | .wait ds => ds
  | _ => []

/-- Whether a translation waits. -/
def Xl.waits (x : Xl) : Bool :=
  match x with
  | .wait _ => true
  | _ => false

/-- What the pages of a die-scope window give (R148), one page for every 64 KiB: the launch is refused where one is not of
memory type 0 or not writable, and waits where a walk waits (R25, R330). -/
def State.windowCheck (s : State) (part ctx : Nat) (l : LaunchRec) : CpPlace :=
  let pages := (List.range (l.d * l.dws / 65536)).map fun i => s.xlate ⟨cpCore, part, ctx⟩ (l.dwb.toNat + 65536 * i) 8 .write
  let good : Xl → Bool
    | .ok key => decide (key < Config.hostKeyBase)
    | .wait _ => true
    | _ => false
  if !pages.all good then .err Code.badRec
  else if pages.any Xl.waits then .wait (pages.flatMap Xl.awaits)
  else .ok 0

/-- What a launch record's checks give. -/
inductive LaunchCheck where
  | ok (l : LaunchRec)
  | refused (code : Nat)
  | wait (dies : List DieId)
  deriving DecidableEq, Repr

/-- The checks of a launch, in the order of R299. -/
def State.checkLaunch (s : State) (part ctx : Nat) (lrec : W64) : LaunchCheck :=
  match s.cpRead part ctx lrec.toNat 2 with
  | .err c => .refused c
  | .wait ds => .wait ds
  | .ok l =>
    if !recordOk l then .refused Code.badRec
    else if !s.fits part (launchOf l) then .refused Code.noFit
    else
      match s.windowCheck part ctx (launchOf l) with
      | .err c => .refused c
      | .wait ds => .wait ds
      | .ok _ => .ok (launchOf l)

/-! ## Command links (R308) -/

def CmdLink.fresh (v c : Nat) (toLeaf : Bool) : CmdLink := ⟨v, c, toLeaf, [], Config.sendPermits, 0, 0⟩

/-- The permits that are left while `n` messages are sent and not consumed, or held. -/
def permitsLeft (n : Nat) : Nat := Config.sendPermits - n

def State.onCmdLink (s : State) (v c : Nat) (toLeaf : Bool) (f : CmdLink → CmdLink) : State :=
  let l := upsert (fun l => l.vent == v && l.cluster == c && l.toLeaf == toLeaf) f (CmdLink.fresh v c toLeaf) s.cmdLinks
  { s with cmdLinks := l }

/-- The die on which a Vent's die scheduler runs: its own, or that of its adopter, and of the adopter's adopter where that one
hangs too; Caldera where the command processor adopts (R309). At most `n` schedulers deep. -/
def State.schedDieN (s : State) : Nat → Nat → DieId
  | 0, _ => .caldera
  | n + 1, v =>
    match s.scheds.find? fun d => d.vent == v with
    | none => .vent v
    | some d =>
      if !d.hung then .vent v
      else
        match d.adopter with
        | some (.vent w) => s.schedDieN n w
        | _ => .caldera

def State.schedDie (s : State) (v : Nat) : DieId := s.schedDieN 8 v

/-- Send a message, against a permit or held in order. A Vent whose link sleeps starts to wake (R25). -/
def State.sendCmd (s : State) (v c : Nat) (toLeaf : Bool) (m : LinkMsg) : State :=
  (s.wakeLink (.vent v)).onCmdLink v c toLeaf fun l =>
    { l with
        msgs := l.msgs ++ [(l.nextSeq, m)]
        nextSeq := l.nextSeq + 1
        permits := permitsLeft (l.msgs.length + 1) }

/-- A message between the command processor and a leaf controller of a Vent, by way of its die scheduler: each die on the way
raises its register to the last one's reading, and a link that does not carry traffic holds it (R24, R25, R27, R308). -/
def State.leafMessage (s : State) (v : Nat) (toLeaf : Bool) (k : State → State) : State :=
  let m := s.schedDie v
  if toLeaf then s.message .caldera m fun s => s.message m (.vent v) k
  else s.message (.vent v) m fun s => s.message m .caldera k

/-- A charge is subtracted from its queue's DEF (R306) and counts toward its partition's window, and its parent's
(R318). -/
def State.chargeQueue (s : State) (queue : Option Nat) (part amount : Nat) : State :=
  let s1 :=
    match queue with
    | none => s
    | some q => s.onQueue q fun x => { x with deficit := x.deficit - amount }
  { s1 with parts := s1.parts.map fun x =>
      if x.num = part ∨ parentOf part = some x.num then { x with charged := x.charged + amount } else x }

/-- COMMAND_LINK_MESSAGE: the message with the next number is consumed, and its permit is returned. -/
def execCommandLinkMessage (v c : Nat) (toLeaf : Bool) (s : State) : Out :=
  .next (
    match s.cmdLinks.find? fun l => l.vent == v && l.cluster == c && l.toLeaf == toLeaf with
    | none => s
    | some l =>
      match l.msgs with
      | [] => s
      | (n, m) :: rest =>
        s.leafMessage v toLeaf fun s =>
          let s1 := s.onCmdLink v c toLeaf fun l => { l with msgs := rest, permits := permitsLeft rest.length }
          if n ≠ l.expect then s1
          else
            let s2 := s1.onCmdLink v c toLeaf fun l => { l with expect := n + 1 }
            match m with
            | .place g d k => s2.onGrid g fun x => { x with ready := x.ready ++ [(d, k)] }
            | .charge q p a =>
              (s2.chargeQueue q p a).onSched v fun d => if d.hung then d else { d with seen := s.now })

/-! ## Making a grid (R80, R212, R308) -/

/-- The barrier instances of a co-resident grid above the team (R212). -/
def barriersOf (l : LaunchRec) : List GridBarrier :=
  if !l.cor then []
  else
    let n := l.t * l.threads
    ((List.range l.d).flatMap fun d =>
        (List.range l.cl).map fun c => (⟨.cluster, d, c, ⟨0, 0, n⟩⟩ : GridBarrier)) ++
      ((List.range l.d).map fun d => (⟨.die, d, 0, ⟨0, 0, n * l.cl⟩⟩ : GridBarrier)) ++
      [⟨.grid, 0, 0, ⟨0, 0, n * l.cl * l.d⟩⟩]

/-- Send the leaf controllers the cluster positions that they host. -/
def State.sendPlaces (s : State) (grid : Nat) (l : List (Nat × Nat × Nat × Nat)) : State :=
  l.foldl (fun s e => s.sendCmd e.2.2.1 e.2.2.2 true (.place grid e.1 e.2.1)) s

/-- A grid that has been dispatched. `x` holds what its launch gives; its key, clusters and barriers are made here. -/
def State.addGrid (s : State) (x : Grid) : State :=
  let cs := s.chooseClusters x.part x.lrec
  let g : Grid :=
    { x with
        key := s.nextKey, clusters := cs, ready := [], barriers := barriersOf x.lrec, waitSince := s.now }
  ({ s with nextKey := s.nextKey + 1, grids := s.grids ++ [g] }).sendPlaces g.key cs

/-- A grid with the fields that do not depend on its launch. -/
def Grid.blank (l : LaunchRec) (id : W32) (part ctx pasid level : Nat) (queue : Option Nat) (done : W64) : Grid :=
  { key := 0, id := id, part := part, ctx := ctx, pasid := pasid, depth := 0, lrec := l, queue := queue, level := level
    parent := none, done := done, clusters := [], ready := [], placed := [], completed := [], cause := none
    barriers := [], held := none, started := [], waitSince := 0, blocking := false, launch := none, soft := false
    sup := false }

/-! ## Room for a team (R116, R149) -/

/-- The teams on a core. -/
def State.coreTeams (s : State) (c : CoreId) : List Team := s.teams.filter fun t => t.core == c && !t.swapped

/-- The sum of what the teams on a core take of a resource. -/
def State.coreTakes (s : State) (c : CoreId) (f : LaunchRec → Nat) : Nat :=
  ((s.coreTeams c).map fun t => ((s.grid? t.grid).map fun x => f x.lrec).getD 0).sum

/-- Whether a core can take a team now: its scratchpad and register allotments, its buffers and tiles, its groups, and
slots for its records. Room that is held for a bin goes to no team, whose launch records are later bins (R224). -/
def State.teamRoom (s : State) (c : CoreId) (l : LaunchRec) : Bool :=
  (s.roomHeld c).isNone && decide (l.teamGranules ≤ s.freeGranules c ∧ s.seatedGroups c + s.pendingGroups c + l.teamGroups ≤ 256 ∧
    s.coreTakes c (·.wsize) + l.wsize ≤ 262144 ∧ s.coreTakes c (·.asize) + l.asize ≤ 131072 ∧
    s.coreTakes c (·.tiles) + l.tiles ≤ 16 ∧ (s.coreTeams c).length < 256 ∧
    (s.core c).usedSlots + l.threads ≤ 4096 ∧ (s.core c).bins.length + l.roles.length ≤ 1024)

/-! ## Die-scope windows (R148) -/

/-- Bytes of pinned windows on a Vent. -/
def State.pinnedBytes (s : State) (v : Nat) : Nat := 1024 * (s.l2.filter fun l => l.vent == v && l.pinned.isSome).length

/-- Whether a die position has a team placed. -/
def Grid.dieBegun (x : Grid) (d : Nat) : Bool := x.placed.any fun n => (x.posOf n).1 == d

/-- Where the lines of a die position's window stand. -/
def State.windowPlaces (s : State) (x : Grid) (d : Nat) : List Xl :=
  (List.range (x.lrec.dws / 1024)).map fun i =>
    s.xlate ⟨cpCore, x.part, x.ctx⟩ (x.lrec.dwb.toNat + d * x.lrec.dws + 1024 * i) 8 .write

/-- The lines of a die position's window. -/
def State.windowLines (s : State) (x : Grid) (d : Nat) : List Nat :=
  (s.windowPlaces x d).filterMap fun p => match p with | .ok key => some (lineOf key) | _ => none

/-- The copy of a line that is pinned somewhere. -/
def State.pinned? (s : State) (line : Nat) : Option L2Line := s.l2.find? fun l => l.line == line && l.pinned.isSome

/-- Pin a line on a Vent, in the slice of it that R148 names: the line leaves the slices where it stands, and room is made in
its set. None where another Vent holds it pinned, or where the set cannot take it: DESIGN CHOICE (log 114). A Vent that is left
as the only holder owns it. -/
def State.pinLine (s : State) (grid v line : Nat) : Option State :=
  match s.pinned? line with
  | some l => if l.vent = v then some s else none
  | none =>
    let stamp := sget 0 s.maxLease (32 * v + line % 32) + 1
    let own := (s.l2? v line).getD (L2Line.fresh v line stamp (s.serialAt (1024 * line)))
    let s0 := s.forgetSizes (s.homeVent line) line
    let s1 : State := { s0 with l2 := s0.l2.filter fun l => !(l.vent == v && l.line == line) }
    (s1.makeRoomIn v (line % 32) line).map fun s2 =>
      let s3 : State := { s2 with l2 := s2.l2 ++ [{ own with pinned := some grid }] }
      let s4 := (((s3.l2.filter fun l => l.line == line && l.vent != v).map (·.vent))).foldl (fun s h => s.moveHolder h v line) s3
      { s4 with l2 := s4.l2.map fun l =>
          if l.vent == v && l.line == line then { l with owned := l.owned || (s4.otherHolders v line).isEmpty } else l }

/-- Whether the ways of a Vent's slices can hold some lines pinned beside those that are (R156, R159). -/
def State.pinsHold (s : State) (v : Nat) (lines : List Nat) : Bool :=
  let all := (((s.l2.filter fun l => l.vent == v && l.pinned.isSome).map (·.line)) ++ lines).dedup
  lines.all fun n =>
    decide ((all.filter fun m => setOf m == setOf n && m % 32 == n % 32).length ≤ s.waysOf v (n % 32))

/-- Whether pinning on a Vent would move a line away from the slice that keeps a mark for it: the mark is promoted first
(R187). -/
def State.markLeaves (s : State) (v line : Nat) : Bool :=
  (s.narrow? line).isSome && !(s.homeVent line == v && s.sliceOf line == line % 32)

/-- Before its first team runs, a die position's window is pinned; none where a line of it cannot be. -/
def State.pinWindow (s : State) (x : Grid) (d v : Nat) : Option State :=
  if x.lrec.dws = 0 ∨ x.dieBegun d then some s
  else (s.windowLines x d).foldl (fun r n => r.bind fun s => s.pinLine x.key v n) (some s)

/-- Whether a die position's window can be pinned: at most 64 MiB on a Vent, in ways that are not gated, none of its lines
with a mark that is still to be promoted, and no walk of its pages waiting. -/
def State.windowRoom (s : State) (x : Grid) (d v : Nat) : Bool :=
  x.lrec.dws == 0 || x.dieBegun d ||
    (decide (s.pinnedBytes v + x.lrec.dws ≤ 2 ^ 26) && !(s.windowPlaces x d).any Xl.waits &&
      (s.windowLines x d).all fun n => !s.markLeaves v n)

/-! ## The end of a window (R148) -/

/-- Another grid whose window on a Vent, of a die position that has begun, has a line. -/
def State.nextPinner (s : State) (grid v line : Nat) : Option Nat :=
  (s.grids.find? fun y =>
    y.key != grid && y.lrec.dws != 0 &&
      y.clusters.any fun e => e.2.2.1 == v && y.dieBegun e.1 && (s.windowLines y e.1).contains line).map (·.key)

/-- The lines that a grid's end unpins, for which no other grid keeps them pinned. -/
def State.pinsEnding (s : State) (grid : Nat) : List L2Line :=
  s.l2.filter fun l => l.pinned == some grid && (s.nextPinner grid l.vent l.line).isNone

/-- Whether a line's mark would be left behind as its home reverts to that of R79, or to that one's stand-in: it is promoted
first (R187). -/
def State.unpinLeaves (s : State) (line : Nat) : Bool :=
  let home := if s.ventDead (s.tableVent line) then s.standIn (s.tableVent line) else s.tableVent line
  (s.narrow? line).isSome && !(s.homeVent line == home && s.sliceOf line == s.ilvSlice (ilvIndex line))

/-- Unpin a line that a grid has pinned: it stays pinned for another grid's window, or moves to the slice of R79 as an ordinary
line, from which it is written back where its set takes no more: DESIGN CHOICE (log 114). A place on a dead Vent goes (R352). -/
def State.unpinLine (s : State) (grid : Nat) (l : L2Line) : State :=
  match s.nextPinner grid l.vent l.line with
  | some k =>
    { s with l2 := s.l2.map fun x => if x.vent == l.vent && x.line == l.line then { x with pinned := some k } else x }
  | none =>
    let s0 := s.forgetSizes l.vent l.line
    let s1 : State := { s0 with l2 := s0.l2.filter fun x => !(x.vent == l.vent && x.line == l.line) }
    if s.ventDead l.vent then s1
    else
      match s1.makeRoomIn l.vent (s1.sliceOf l.line) l.line with
      | some s2 => { s2 with l2 := s2.l2 ++ [{ l with pinned := none }] }
      | none => s1.sendFlit (.vent l.vent) false .request (.dirUpdate l.line)

/-- When a grid completes its lines are unpinned, and stay as ordinary lines. -/
def State.unpin (s : State) (grid : Nat) : State :=
  (s.l2.filter fun l => l.pinned == some grid).foldl (fun s l => s.unpinLine grid l) s

/-! ## Placing a team (R83, R300) -/

/-- The launch records of a team: within each role in order of `sr.tid`, each role in a bin of its own, flushed. -/
def CoreState.launchRecords (c : CoreState) (x : Grid) (team age : Nat) (prio : W32 → Nat) : CoreState :=
  (List.range x.lrec.roles.length).foldl
    (fun c k =>
      let lo := if k = 0 then 0 else ((x.lrec.roles[k - 1]?).map (·.stop)).getD 0
      let start := ((x.lrec.roles[k]?).map (·.start)).getD 0
      let recs := (List.range (roleCount x.lrec.roles k)).map fun i =>
        (⟨Thread.launched (lo + i) team x.lrec.seed x.lrec.splim, false, 0, 1, age, true⟩ : Rec)
      { c with bins := c.bins ++
          [{ grid := x.key, sup := x.sup, resume := start, prio := prio start, key := 0, role := k, team := some team
             recs := recs, flushed := true, waiting := none, room := false }] }) c

/-- The lowest team slot number that is free on a core (R221). -/
def State.freeTslot (s : State) (c : CoreId) : Nat :=
  ((List.range 256).find? fun n => !((s.coreTeams c).any fun t => t.tslot == n)).getD 0

/-- The start clauses of a grid's roles (R83, R95). -/
def Grid.starts (x : Grid) : List W64 := x.lrec.roles.map fun r => x.lrec.cb + r.start.setWidth 64

/-- Whether the read of a start clause's header has to wait (R25, R330), and for the links of which dies. -/
def State.headerWait (s : State) (c : CoreId) (x : Grid) (a : W64) : Option (List DieId) :=
  match s.fetchWord ⟨c, x.part, x.ctx⟩ a with
  | .wait ds => some ds
  | _ => none

def State.headersWait (s : State) (c : CoreId) (x : Grid) : Bool := x.starts.any fun a => (s.headerWait c x a).isSome

/-- The dies whose links the placement of a team on a core waits for: those of its window's pages and of its start clauses. -/
def State.placeAwaits (s : State) (c : CoreId) (x : Grid) (d : Nat) : List DieId :=
  (if x.lrec.dws = 0 ∨ x.dieBegun d then [] else (s.windowPlaces x d).flatMap Xl.awaits) ++
    x.starts.flatMap fun a => (s.headerWait c x a).getD []

/-- Place a team on a core: its allotments read 0, and its records enter the pool. What happened before the launch happens
before what the team reads, so that the core's leases end (R179, R294). The reads of the start clauses' headers raise the
registers of the dies on their way (R24). -/
def State.placeTeam (s : State) (x : Grid) (num : Nat) (v c k : Nat) : State :=
  let core := CoreId.vent v c k
  let key := s.nextKey
  let t : Team :=
    { key := key, grid := x.key, num := num, core := core, tslot := s.freeTslot core, scratch := [], w := [], a := []
      tiles := [], poison := 0, barrier := ⟨0, 0, x.lrec.threads⟩, ended := 0, charge := 0, reported := 0, dead := none
      swapped := false, badSc := [], badW := [], badA := [] }
  let s0 := (s.pinWindow x (x.posOf num).1 v).getD s
  let s1 := s0.causal (x.starts.flatMap fun a => s0.fetchDies ⟨core, x.part, x.ctx⟩ a)
  let prio (start : W32) : Nat :=
    match s1.fetchWord ⟨core, x.part, x.ctx⟩ (x.lrec.cb + start.setWidth 64) with
    | .word h => prioOf h
    | _ => 0
  let s2 : State := { s1 with nextKey := key + 1, teams := s1.teams ++ [t] }
  let s3 := s2.onGrid x.key fun x => { x with placed := x.placed ++ [num] }
  ((s3.endLeases core).setCore core fun y => y.launchRecords x key (s.cyclesOf core) prio).trimL1 core

/-- Whether a grid still has teams to place. -/
def Grid.waits (x : Grid) : Bool := x.cause.isNone && decide (x.placed.length < x.lrec.teams)

/-- The next team of a cluster position, in increasing `sr.team`. -/
def Grid.nextTeam (x : Grid) (d c : Nat) : Option Nat :=
  let base := (d * x.lrec.cl + c) * x.lrec.t
  let n := (x.placed.filter fun m => decide (base ≤ m) && decide (m < base + x.lrec.t)).length
  if n < x.lrec.t then some (base + n) else none

/-- The cluster that a team's position stands on, once its leaf controller knows of it. -/
def Grid.clusterOf (x : Grid) (num : Nat) : Option (Nat × Nat) :=
  let p := x.posOf num
  if x.ready.contains p then (x.clusters.find? fun e => e.1 == p.1 && e.2.1 == p.2).map (·.2.2) else none

/-- Whether a core can take the next team of a grid, whatever other grids wait. -/
def State.canPlace (s : State) (x : Grid) (num v c k : Nat) : Bool :=
  x.waits && x.nextTeam (x.posOf num).1 (x.posOf num).2 == some num && x.clusterOf num == some (v, c) &&
    decide (k < 16) && s.clusterOk x.part v c && !(s.preemptedAt (.vent v c k) x.part x.ctx 1) &&
    s.windowRoom x (x.posOf num).1 v && s.teamRoom (.vent v c k) x.lrec &&
    (match s.pinWindow x (x.posOf num).1 v with
     | none => false
     | some s1 => !s1.headersWait (.vent v c k) x)

/-- The core of a cluster that takes a grid's team: the one with the fewest teams, the lowest on a tie. -/
def State.pickCore (s : State) (x : Grid) (num v c : Nat) : Option Nat :=
  leastBy (fun k => (s.coreTeams (.vent v c k)).length) ((List.range 16).filter fun k => s.canPlace x num v c k)

/-- Place the teams from `num` on, `n` of them, each somewhere on its cluster. -/
def State.placeFrom (s : State) (grid : Nat) : Nat → Nat → Option State
  | 0, _ => some s
  | n + 1, num =>
    match s.grid? grid with
    | none => none
    | some x =>
      match x.clusterOf num with
      | none => none
      | some (v, c) =>
        match s.pickCore x num v c with
        | none => none
        | some k => (s.placeTeam x num v c k).placeFrom grid n (num + 1)

/-- Every team of a co-resident grid at once, if all can be placed (R300). -/
def State.placeAll (s : State) (x : Grid) : Option State := s.placeFrom x.key x.lrec.teams 0

/-- Whether an earlier grid could use a core for a team of its own. -/
def State.couldUse (s : State) (y : Grid) (v c k : Nat) : Bool :=
  if y.lrec.cor then (s.placeAll y).isSome
  else
    y.clusters.any fun e =>
      e.2.2.1 == v && e.2.2.2 == c &&
        (match y.nextTeam e.1 e.2.1 with
         | none => false
         | some n => s.canPlace y n v c k)

/-- Whether the order of R300 lets a grid place a team on a core: no waiting grid of a higher level, and of its own level
none that blocks or could use the room before it. -/
def State.orderOk (s : State) (x : Grid) (v c k : Nat) : Bool :=
  s.grids.all fun y =>
    !(y.part == x.part && y.waits &&
      (decide (y.level < x.level) ||
        (y.level == x.level && decide (y.key < x.key) && (y.blocking || s.couldUse y v c k))))

/-- The dies whose links the pinning of a die position's window on a Vent needs: none where there is nothing to pin. -/
def State.windowDies (s : State) (x : Grid) (d v : Nat) : List DieId :=
  if x.lrec.dws = 0 ∨ x.dieBegun d then []
  else
    DieId.caldera :: DieId.vent v ::
      ((s.windowLines x d).flatMap fun n => (s.l2.filter fun l => l.line == n && l.vent != v).map fun l => DieId.vent l.vent)

/-- TEAM_PLACEMENT: a co-resident grid places all its teams. A window is pinned over the links that it needs; where page walks or
header reads wait for links, those that sleep start to wake (R24, R25). -/
def execTeamPlacement (grid num v c k : Nat) (s : State) : Out :=
  .next (
    match s.grid? grid with
    | none => s
    | some x =>
      if x.lrec.cor then
        if x.waits ∧ x.clusters.all fun e => (List.range 16).all fun k => s.orderOk x e.2.2.1 e.2.2.2 k then
          match s.placeAll x with
          | some _ => s.cross (x.clusters.flatMap fun e => s.windowDies x e.1 e.2.2.1) fun s => (s.placeAll x).getD s
          | none =>
            s.wakeLinks (x.clusters.flatMap fun e =>
              (List.range 16).flatMap fun k => s.placeAwaits (.vent e.2.2.1 e.2.2.2 k) x e.1)
        else s
      else if s.canPlace x num v c k ∧ s.orderOk x v c k then
        s.cross (s.windowDies x (x.posOf num).1 v) fun s => s.placeTeam x num v c k
      else if x.waits ∧ x.clusterOf num = some (v, c) then s.wakeLinks (s.placeAwaits (.vent v c k) x (x.posOf num).1)
      else s)

/-- 1 ms in time units. -/
def waitUnits : Nat := 16000000

/-- GRACE and KILLT: from the descriptor of the queue that launched the context's oldest running grid (R310). -/
def State.ladderTimes (s : State) (r : PreemptReq) : Option (Nat × Nat) :=
  ((s.grids.find? fun x => x.part == r.part && x.ctx == r.ctx && x.cause.isNone).bind (·.queue)).bind fun q =>
    (s.queue q).desc.map fun d => (d.grace, d.killt)

/-- A pre-emption begins with stage 1, unless a ladder already acts on the context there (R310). -/
def State.requestPreempt (s : State) (r : PreemptReq) : State :=
  match s.ladderTimes r with
  | none => s
  | some (g, k) =>
    if s.preempts.any fun x => x.req.part == r.part && x.req.ctx == r.ctx && x.req.cores.any fun c => r.cores.contains c then s
    else
      { s with
          nextKey := s.nextKey + 1
          preempts := s.preempts ++
            [{ n := s.nextKey, req := r, stage := 1, since := s.now, grace := g, killt := k, saved := none, bins := []
               events := [], area := [], bad := false }] }

/-- The pre-emptions that the command processor requests for a grid that has waited 1 ms: of the contexts whose grids of lower
levels hold room on the clusters that it waits for (R310). -/
def State.cpRequests (s : State) (x : Grid) : List PreemptReq :=
  let lower := s.grids.filter fun y => y.part == x.part && decide (x.level < y.level)
  let cores (ctx : Nat) : List CoreId :=
    ((s.teams.filter fun t =>
        !t.swapped && (lower.any fun y => y.key == t.grid && y.ctx == ctx) &&
          match t.core with
          | .vent v c _ => x.clusters.any fun e => e.2.2.1 == v && e.2.2.2 == c
          | .service _ => false).map (·.core)).dedup
  ((lower.map (·.ctx)).dedup.filter fun ctx => ctx != x.ctx && !(cores ctx).isEmpty).map fun ctx => ⟨x.part, ctx, cores ctx⟩

/-- PLACEMENT_WAIT_TIMEOUT: a grid has waited 1 ms. The earliest of its level blocks (R300); whichever it is, the command
processor requests the pre-emption of lower levels that hold its room (R310). -/
def execPlacementWaitTimeout (grid : Nat) (s : State) : Out :=
  .next (
    match s.grid? grid with
    | none => s
    | some x =>
      let earlier := s.grids.any fun y =>
        y.part == x.part && y.level == x.level && y.waits && decide (y.key < x.key)
      if x.waits ∧ x.waitSince + waitUnits ≤ s.now then
        let s1 := if earlier then s else s.onGrid grid fun x => { x with blocking := true }
        (s.cpRequests x).foldl (fun s r => s.requestPreempt r) s1
      else s)

/-- LAUNCH_AT_START: a Vent's register has reached the instant. -/
def execLaunchAtStart (grid v : Nat) (s : State) : Out :=
  .next (s.onGrid grid fun x =>
    match x.held with
    | none => x
    | some t =>
      if t ≤ (s.time (.vent v)).value ∧ !x.started.contains v then { x with started := x.started ++ [v] } else x)

end Sys2Proof.Machine
end

