-- ==== Sys2Proof/Machine/QueueOps.lean ====
section
/-! DEFINITION. Queue contexts: open, stop, restart, close and reset, and the end of a graph launch, which a close waits
for (R287 to R292, R297, R304, R305, R322). -/

namespace Sys2Proof.Machine

/-! ## Descriptors (R287) -/

def qdescOf (part : Nat) (l : List Byte) : QDesc :=
  { rbase := BitVec.ofNat 64 (fld l 0 7)
    rszlog := fld l 8 8
    prio := fld l 9 9
    vdev := fld l 10 11
    pasid := fld l 12 15
    quantum := fld l 16 19
    nout := fld l 20 20
    mpos := fld l 21 21
    ment := fld l 22 23
    ridxa := BitVec.ofNat 64 (fld l 24 31)
    grace := fld l 32 35
    killt := fld l 36 39
    part := part
    mline := BitVec.ofNat 64 (fld l 48 55) }

/-- The limits of R287. -/
def qdescOk (l : List Byte) : Bool :=
  let d := qdescOf 0 l
  decide (d.rbase.toNat % 64 = 0 ∧ 4 ≤ d.rszlog ∧ d.rszlog ≤ 20 ∧ d.prio ≤ 3 ∧ d.vdev ≤ 1023 ∧ d.pasid < 2 ^ 20 ∧
      1 ≤ d.quantum ∧ d.quantum ≤ 2 ^ 30 ∧ 1 ≤ d.nout ∧ d.nout ≤ 64 ∧ d.mpos ≤ 127 ∧ d.ment ≤ 2047) &&
    decide (d.ridxa.toNat % 16 = 0 ∧ 1 ≤ d.grace ∧ d.grace ≤ 65535 ∧ 1 ≤ d.killt ∧ d.killt ≤ 1000000 ∧
      d.mline.toNat % 1024 = 0) && zeros l 41 47 && zeros l 56 63

/-- Whether a queue's monitor-table entry is free, or names the same line and PASID (R292). -/
def State.monitorOk (s : State) (d : QDesc) : Bool :=
  s.monitors.all fun m => m.entry != d.ment || (m.mline == d.mline && m.pasid == d.pasid && m.part == d.part)

/-- Whether the open queues of a virtual device carry its PASID (R288). -/
def State.vdevOk (s : State) (d : QDesc) : Bool :=
  s.queues.all fun x =>
    match x.desc with
    | none => true
    | some e => e.part != d.part || e.vdev != d.vdev || e.pasid == d.pasid

/-! ## Open (R290) -/

/-- The queue's WIDX: the word of its watched line (R291). -/
def State.readWidx (s : State) (d : QDesc) (ctx : Nat) : CpRead :=
  s.cpReadIn d.part ctx (d.mline.toNat + 8 * d.mpos) 8

/-- The queues that an SQCMD acts on: q, or with VD every queue of q's virtual device (R288, R322). -/
def State.commanded (s : State) (q : Nat) (vd : Bool) : List Nat :=
  match vd, (s.queue q).desc with
  | true, some d =>
    sortNat ((s.queues.filter fun x => (x.desc.map fun e => e.vdev == d.vdev && e.part == d.part).getD false).map (·.num))
  | _, _ => [q]

/-- What an open finds: the descriptor with the place of its watched line and its WIDX, the code of its failure, or a wait,
with the dies whose links it needs. -/
inductive Opening where
  | ok (d : QDesc) (key : Nat) (w : W64)
  | err (code : Nat)
  | wait (dies : List DieId)
  deriving DecidableEq, Repr

/-- The command processor's read of `n` bytes of device physical memory in a partition's ranges; a descriptor that cannot be
read is BADQUEUE (R290). -/
def State.devPlace (s : State) (part a n : Nat) : CpPlace :=
  if ((s.part? part).map (·.status)) ≠ some 1 ∨ !s.inReach part a n then .err Code.badQueue
  else
    match s.readBar cpCore a n with
    | some (.wait ds) => .wait ds
    | some _ => .err Code.badQueue
    | none => if (s.lostAt a n).isSome then .err Code.badQueue else .ok a

/-- The checks of an open, in the order of R290. A read or a write that has to wait for a link or a host port waits (R25,
R330). -/
def State.openCheck (s : State) (part : Nat) (addr : W64) : Opening :=
  match s.devPlace part addr.toNat 64 with
  | .err c => .err c
  | .wait ds => .wait ds
  | .ok a =>
    let l := s.readBytes a 64
    let d := qdescOf part l
    match s.queueCtx d with
    | none => .err Code.badQueue
    | some c =>
      if !qdescOk l ∨ !s.monitorOk d ∨ !s.vdevOk d then .err Code.badQueue
      else
        match s.readWidx d c, s.cpPlace part c d.mline.toNat 8 .read, s.cpPlace part c d.ridxa.toNat 16 .write with
        | .err e, _, _ => .err e
        | .wait ds, _, _ => .wait ds
        | _, _, .err e => .err (codeOfLost e)
        | _, _, .wait ds => .wait ds
        | .ok w, .ok key, _ => .ok d key (BitVec.ofNat 64 (natOfBytes w))
        | .ok _, _, _ => .err Code.translation

/-- The command processor takes a shared copy of an entry's line, and the directory records it as a sharer: the line has no
owner any more (R157, R292). -/
def State.watchLine (s : State) (entry key : Nat) : State :=
  if s.monitors.any fun m => m.entry == entry && m.held && m.key == key then s
  else
    let s1 := (s.cpCross key).shareLine (200 + entry) (lineOf key)
    { s1 with monitors := s1.monitors.map fun m => if m.entry == entry then { m with key := key, held := true } else m }

/-- A queue joins its monitor-table entry (R292). -/
def State.joinMonitor (s : State) (d : QDesc) (key : Nat) : State :=
  let m : Monitor := ⟨d.ment, d.mline, d.part, d.pasid, key, false⟩
  State.watchLine
    { s with monitors := if s.monitors.any fun m => m.entry == d.ment then s.monitors else s.monitors ++ [m] } d.ment key

/-- Open a closed queue; an open that has to wait stands by until it need not. -/
def State.tryOpen (s : State) (q part : Nat) (addr : W64) : State :=
  match s.openCheck part addr with
  | .wait ds => (s.onQueue q fun x => { x with opening := some (part, addr) }).wakeLinks ds
  | .err c => s.onQueue q fun x => { Queue.closed x.num with status := 3, code := c, gens := x.gens }
  | .ok d key w =>
    (((s.cpCross addr.toNat).onQueue q fun x =>
      { Queue.closed x.num with status := 1, desc := some d, ridx := w, widx := w, gens := x.gens }).joinMonitor d key).writeStatus q

/-- An open is accepted from CLOSED (R290). One that comes while another stands by would find the queue ACTIVE or in ERROR:
it has no effect. -/
def State.openQueue (s : State) (q part : Nat) (addr : W64) : State :=
  if (s.queue q).status ≠ 0 ∨ (s.queue q).opening.isSome then s else s.tryOpen q part addr

/-- QUEUE_OPEN. -/
def execQueueOpen (q part : Nat) (desc : W64) (s : State) : Out := .next (s.openQueue q part desc)

/-! ## Stop and restart (R290) -/

/-- Stop a queue: a started AFTER keeps what is left of its TIMEOUT. -/
def State.stopQueue (s : State) (q : Nat) : State :=
  let x := s.queue q
  if x.desc.isNone ∨ x.closing.isSome ∨ !(x.status == 1 || x.status == 3) then s
  else
    (s.onQueue q fun x =>
      { x with
          status := 2
          code := 0
          eligible := 0
          after := x.after.map fun a => { a with timeout := a.timeout.map (· - (s.now - a.started)) } }).writeStatus q

/-- QUEUE_STOP. -/
def execQueueStop (x : QueueSel) (s : State) : Out :=
  .next ((s.commanded x.q x.vd).foldl (fun s q => s.stopQueue q) s)

/-- Restart a queue: a stopped AFTER goes on with the TIMEOUT that it had left. -/
def State.restartQueue (s : State) (q : Nat) : State :=
  let x := s.queue q
  if x.desc.isNone ∨ x.closing.isSome ∨ !(x.status == 2 || x.status == 3) then s
  else
    (s.onQueue q fun x =>
      { x with
          status := 1
          code := 0
          after := if x.status = 2 then x.after.map fun a => { a with started := s.now } else x.after }).writeStatus q

/-- QUEUE_RESTART. -/
def execQueueRestart (x : QueueSel) (s : State) : Out :=
  .next ((s.commanded x.q x.vd).foldl (fun s q => s.restartQueue q) s)

/-! ## Close and reset (R290) -/

/-- The queues that a reset has closed open again together, once the last of them has closed (R288). -/
def State.openReset (s : State) (p : Nat) (a : W64) : State :=
  if s.queues.any fun x => x.closing == some (some (p, a)) then s
  else
    (sortNat ((s.queues.filter fun x => x.opening == some (p, a)).map (·.num))).foldl (fun s q => s.tryOpen q p a) s

/-- The end of a close: the queue leaves its monitor-table entry and is CLOSED, and after a reset it opens again. -/
def State.finishClose (s : State) (q : Nat) : State :=
  match (s.queue q).closing with
  | none => s
  | some r =>
    let s1 := (s.onQueue q fun x => { x with status := 0, code := 0 }).writeStatus q
    let s2 := s1.onQueue q fun x => { Queue.closed x.num with gens := x.gens, opening := r }
    let s3 : State :=
      { s2 with monitors := s2.monitors.filter fun m =>
          s2.queues.any fun y => (y.desc.map fun d => d.ment == m.entry).getD false }
    match r with
    | none => s3
    | some (p, a) => s3.openReset p a

/-- A close ends once nothing that the queue started is left, and its status block can be written. -/
def State.tryClose (s : State) (q : Nat) : State :=
  if (s.queue q).closing.isSome ∧ (s.queue q).running.isEmpty ∧ !s.statusWaits q then s.finishClose q else s

/-- Something that a queue started has completed. -/
def State.doneRunning (s : State) (q : Nat) (r : Running) : State :=
  (s.onQueue q fun x => { x with running := x.running.filter fun y => y != r }).tryClose q

/-! ## The end of a graph launch (R304, R305) -/

/-- Whether two instances are one (R304). -/
def sameInst (a b : GraphInst) : Bool :=
  a.part == b.part && a.pasid == b.pasid && a.gdesc == b.gdesc && a.version == b.version

/-- Whether a launch has ended: every node is complete, or one has faulted and those that started are complete. -/
def GraphLaunch.ended (l : GraphLaunch) : Bool :=
  if l.faulted.isSome then l.started.all fun n => l.finished.contains n
  else decide (l.inst.nodes.length ≤ l.finished.length)

/-- The next launch of a non-re-entrant instance becomes active. -/
def activateNext (inst : GraphInst) (l : List GraphLaunch) : List GraphLaunch :=
  match l.find? fun x => sameInst x.inst inst with
  | none => l
  | some x => l.map fun y => if y.key == x.key then { y with active := true } else y

/-- A launch is gone, its word written or reported. -/
def State.dropLaunch (s : State) (l : GraphLaunch) : State :=
  let rest := s.launches.filter fun x => x.key != l.key
  State.doneRunning { s with launches := if l.inst.reent then rest else activateNext l.inst rest } l.queue (.launch l.key)

/-- A launch that has ended completes once its DONE word is written: the word carries the cause of the lowest-numbered node
that faulted. -/
def State.settleLaunch (s : State) (key : Nat) : State :=
  match s.launches.find? fun l => l.key == key with
  | none => s
  | some l =>
    if !l.ended then s
    else if l.done = 0 then s.dropLaunch l
    else
      let p := l.inst.part
      let ends (ctx code : Nat) (s : State) : State := (s.queueReport p ctx code l.done l.queue 0).dropLaunch l
      match (s.part? p).bind fun x => x.ctxOf l.inst.pasid with
      | none => ends 0 Code.translation s
      | some c =>
        s.cpStore p c l.done.toNat (doneWord (Config.graphId l.key) ((l.faulted.map (·.2)).getD 0)) (ends c) fun s =>
          s.dropLaunch l

/-- A node of a launch is complete; a cause says that it faulted. -/
def State.finishNode (s : State) (key node : Nat) (cause : Option Nat) : State :=
  let s1 : State :=
    { s with launches := s.launches.map fun l =>
        if l.key == key then
          { l with
              finished := l.finished ++ [node]
              polling := l.polling.filter fun p => p.1 != node
              faulted :=
                match cause, l.faulted with
                | none, f => f
                | some c, none => some (node, c)
                | some c, some f => if node < f.1 then some (node, c) else some f }
        else l }
  s1.settleLaunch key

/-- A launch starts no further node, and what it polls is dropped. -/
def GraphLaunch.halt (l : GraphLaunch) (cause : Nat) : GraphLaunch :=
  { l with
      faulted := some (l.faulted.getD (l.inst.nodes.length, cause))
      finished := l.finished ++ l.polling.map (·.1)
      polling := [] }

/-! ## Close and reset -/

/-- The grids that a queue launched, its graph launches' nodes included. -/
def State.queueGrids (s : State) (q : Nat) : List Nat :=
  let ls := (s.launches.filter fun l => l.queue == q).map (·.key)
  (s.grids.filter fun x =>
    x.parent.isNone && x.cause.isNone &&
      ((s.queue q).running.contains (.grid x.key) || (x.launch.map fun n => ls.contains n.1).getD false)).map (·.key)

/-- A close begins: the queue's AFTER is dropped; a queue without a descriptor is CLOSED at once. -/
def State.beginClose (s : State) (again : Option (Nat × W64)) (q : Nat) : State :=
  s.onQueue q fun x =>
    if x.status = 0 ∨ x.closing.isSome then x
    else if x.desc.isNone then { Queue.closed x.num with gens := x.gens, opening := again }
    else { x with closing := some again, after := none, eligible := 0 }

/-- What a closing queue launched and has not completed ends with KILLED, its graph launches' nodes included. -/
def State.endStarted (s : State) (q : Nat) : State :=
  let s1 := (s.queueGrids q).foldl (fun s k => s.killGrid k Cause.killed) s
  let s2 : State := { s1 with launches := s1.launches.map fun l => if l.queue == q then l.halt Cause.killed else l }
  ((s2.launches.filter fun l => l.queue == q).foldl (fun s l => s.settleLaunch l.key) s2).tryClose q

/-- Close some queues in one step; `again` is what they open with afterwards. -/
def State.closeQueues (s : State) (qs : List Nat) (again : Option (Nat × W64)) : State :=
  let ks := qs.filter fun q => (s.queue q).status != 0 && (s.queue q).closing.isNone
  let s1 := ks.foldl (fun s q => s.beginClose again q) s
  let s2 := (ks.filter fun q => (s.queue q).desc.isSome).foldl (fun s q => s.endStarted q) s1
  match again with
  | none => s2
  | some (p, a) => s2.openReset p a

/-- QUEUE_CLOSE. -/
def execQueueClose (x : QueueSel) (s : State) : Out := .next (s.closeQueues (s.commanded x.q x.vd) none)

/-- QUEUE_RESET. -/
def execQueueReset (x : QueueSel) (part : Nat) (desc : W64) (s : State) : Out :=
  .next (s.closeQueues (s.commanded x.q x.vd) (some (part, desc)))

/-! ## What had to wait (R25, R330) -/

/-- One queue goes on with what had to wait: an open, a status block, or the end of a close. -/
def State.resumeQueue (s : State) (q : Nat) : State :=
  let s1 :=
    match (s.queue q).opening with
    | none => s
    | some (p, a) => if s.queues.any fun x => x.closing == some (some (p, a)) then s else s.tryOpen q p a
  let s2 := if (s1.queue q).statusDue then s1.writeStatus q else s1
  s2.tryClose q

/-- The queues, in ascending number, and the graph launches whose word is due go on where they no longer have to wait. -/
def State.resumeQueues (s : State) : State :=
  let s1 := (sortNat (s.queues.map (·.num))).foldl (fun s q => s.resumeQueue q) s
  (s1.launches.map (·.key)).foldl (fun s k => s.settleLaunch k) s1

end Sys2Proof.Machine
end

