-- ==== Sys2Proof/Machine/MemEvents.lean ====
section
/-! DEFINITION. What happens to memory of itself: narrow promotions, the L1s' logical time, the directory, page walks,
the patrol scrub, and power gating (R115, R117, R119, R155, R157 to R160, R162, R163, R187, R231, R256, R351). -/

namespace Sys2Proof.Machine

/-! ## Narrow promotion (R187) -/

/-- Whether a marked line has to leave its slice for the window of a grid that is to place a team: it is pinned on another Vent
or in another slice, or it stands in the full set of a slice that is to take a line of the window (R148). -/
def State.windowWants (s : State) (line : Nat) : Bool :=
  s.grids.any fun x =>
    x.waits && x.clusters.any fun e =>
      !x.dieBegun e.1 && (s.windowLines x e.1).any fun n =>
        if n = line then s.markLeaves e.2.2.1 n
        else
          s.homeVent line == e.2.2.1 && s.sliceOf line == n % 32 && setOf line == setOf n && (s.pinned? n).isNone &&
            decide (s.waysOf e.2.2.1 (n % 32) ≤ (s.setLines e.2.2.1 (n % 32) n).length)

/-- Whether a promotion of a marked line is called for: an ATOM.ld.remote of another core waits, or the line is about to
leave its home slice. -/
def State.promotionWanted (s : State) (m : NarrowMark) : Bool :=
  (s.ops.any fun o =>
    o.core != m.core &&
      (match o.kind with
       | .atom op _ _ _ _ => op == .ldRemote
       | _ => false) &&
      o.accs.any fun x => match x.loc with | .mem key => lineOf key == m.line | _ => false) ||
    (s.ownReqs.any fun r => r.line == m.line && r.toInv.contains (s.homeVent m.line)) || s.windowWants m.line

/-- The request reaches the named core, which notes every store and atomic that its groups have issued. -/
def State.promote (s : State) (m : NarrowMark) : State :=
  let ids := (s.ops.filter fun o => o.core == m.core && o.kind.isStoreOrAtomic).map (·.id)
  s.cross [.vent (s.homeVent m.line), .caldera, dieOf m.core] fun s =>
    { s with narrow := s.narrow.map fun n => if n.line == m.line then { n with waitOps := some ids } else n }

/-- Start the promotions of the marks that `p` names and that are not under way. -/
def State.promoteAll (s : State) (p : NarrowMark → Bool) : State :=
  (s.narrow.filter fun m => m.waitOps.isNone && p m).foldl (fun s m => s.promote m) s

/-- PROMOTION_REQUEST: the named core is to complete every store and atomic that its groups have issued. -/
def execPromotionRequest (core : CoreId) (line : Nat) (s : State) : Out :=
  .next (
    match s.narrow? line with
    | none => s
    | some m =>
      if m.core ≠ core ∨ m.waitOps.isSome ∨ !s.promotionWanted m then s
      else
        s.promote m)

/-- Perform the remote loads that wait on a line. -/
def State.remoteLoads (s : State) (line : Nat) : State :=
  s.ops.foldl
    (fun s o =>
      match o.kind with
      | .atom .ldRemote z d _ _ =>
        let ns := (o.accs.filter fun x => match x.loc with | .mem key => lineOf key == line | _ => false).map (·.n)
        (performAccs (performAtom .ldRemote z d) o.id ns s).finishIfDone o.id
      | _ => s) s

/-! ### Operations that wait for a promotion themselves -/

/-- The marked lines whose promotion an operation's own accesses wait for: those that a remote load of another core reads, and
those that a store or an atomic asks for at another slice. -/
def State.ownNeeds (s : State) (o : Op) : List Nat :=
  (o.accs.filterMap fun x => match x.loc with | .mem key => some (lineOf key) | _ => none).filter fun n =>
    match s.narrow? n, o.kind with
    | none, _ => false
    | some m, .atom .ldRemote _ _ _ _ => m.core != o.core
    | some _, k => k.isStoreOrAtomic && s.ownReqs.any fun r => r.line == n && r.toInv.contains (s.homeVent n)

/-- Whether an access of an operation must wait for another operation of its threads. -/
def State.waitsFor (s : State) (o q : Op) : Bool :=
  decide (q.id < o.id) && o.accs.any fun x => State.accBlocked { s with ops := [q] } o x

/-- For every operation that waits for promotions, of its own or through an earlier operation, the marked lines. -/
def State.opNeeds (s : State) : List (Nat × List Nat) :=
  s.ops.foldl
    (fun r o =>
      let from_ := r.filter fun e => match s.op? e.1 with | some q => s.waitsFor o q | none => false
      let l := (s.ownNeeds o ++ from_.flatMap (·.2)).dedup
      if l.isEmpty then r else r ++ [(o.id, l)]) []

def needsOf (l : List (Nat × List Nat)) (id : Nat) : List Nat := ((l.find? fun e => e.1 == id).map (·.2)).getD []

/-- The marked lines that lines in promotion wait for, at most `n` promotions deep. -/
def State.needsDeep (s : State) (needs : List (Nat × List Nat)) : Nat → List Nat → List Nat
  | 0, l => l
  | n + 1, l =>
    s.needsDeep needs n
      (l ++ l.flatMap fun k => ((s.narrow? k).bind (·.waitOps)).getD [] |>.flatMap (needsOf needs)).dedup

/-- Whether an operation that the promotion of a line waits for waits for that promotion in its turn. -/
def State.inCircle (s : State) (line id : Nat) : Bool :=
  (s.needsDeep s.opNeeds s.narrow.length (needsOf s.opNeeds id)).contains line

/-- PROMOTION_ANSWER: the mark is emptied, and then the remote load is performed. R187 has the core complete every store and
atomic first; where one of them can itself be performed only after the promotion the two never end, against the bound of R165:
such an operation is not waited for, DESIGN CHOICE (log 118). -/
def execPromotionAnswer (line : Nat) (s : State) : Out :=
  .next (
    match s.narrow? line with
    | none => s
    | some m =>
      match m.waitOps with
      | none => s
      | some ids =>
        if s.ops.any fun o => ids.contains o.id && !s.inCircle line o.id then s
        else s.cross [dieOf m.core, .caldera, .vent (s.homeVent line)] fun s => (s.clearNarrow line).remoteLoads line)

/-! ## The L1's logical time (R155) -/

/-- L1_LOGICAL_TICK: one tick for every 16 cycles; a sector whose lease has ended is absent. What is due counts already
before its event (`State.l1Now`). -/
def execL1LogicalTick (core : CoreId) (s : State) : Out :=
  .next (
    if s.cyclesOf core / 16 ≤ (s.core core).ticks then s
    else
      s.setCore core fun c =>
        { c with
            ticks := c.ticks + 1
            l1time := c.l1time + 1
            l1 := c.l1.filter fun x => decide (c.l1time + 1 < x.expiry) })

/-! ## The directory (R157, R187, R191, R328) -/

/-- Ownership is granted once every holder has answered; a holder that has come meanwhile is invalidated first. The device's
own writes that waited for it follow (R191, R328). The grant travels from Caldera to the Vent that asked (R24, R25). -/
def State.grantOwn (s : State) (line : Nat) : State :=
  match s.ownReqs.find? fun r => r.line == line with
  | none => s
  | some r =>
    if !r.toInv.isEmpty ∨ !r.toAck.isEmpty then s
    else if !(s.otherHolders r.vent line).isEmpty then
      { s with ownReqs := s.ownReqs.map fun x =>
          if x.line == line then { x with toInv := s.otherHolders r.vent line } else x }
    else
      s.cross [.caldera, .vent r.vent] fun s =>
        State.drainDevWrites
          { (s.setL2 r.vent line fun l => { l with owned := true }) with
              ownReqs := s.ownReqs.filter fun x => x.line != line }

/-- The line of a holder waits for its promotion (R187). -/
def State.heldByMark (s : State) (vent line : Nat) : Bool := vent == s.homeVent line && (s.narrow? line).isSome

/-- DIRECTORY_INVALIDATION: a Vent's copy is gone, its dirty sectors move to the requester, and its acknowledgement is on
the link; a host's copy is gone once the host acknowledges the snoop (BACK_INVALIDATE_ACK); the command processor's goes
with the request, and is read again at its next look (R292). -/
def execDirectoryInvalidation (line vent : Nat) (s : State) : Out :=
  .next (
    match s.ownReqs.find? fun r => r.line == line && r.toInv.contains vent with
    | none => s
    | some r =>
      let note (s : State) : State :=
        { s with ownReqs := s.ownReqs.map fun x =>
            if x.line == line then { x with toInv := x.toInv.filter (· != vent), toAck := x.toAck ++ [vent] } else x }
      if 200 ≤ vent then note (s.dropHolder vent line)
      else if 100 ≤ vent then note s
      else if s.heldByMark vent line ∨ !s.maySend (.vent vent) false .response then s
      else
        s.cross [.caldera, .vent vent] fun s =>
          (note (s.moveHolder vent r.vent line)).sendFlit (.vent vent) false .response (.invAck line))

/-- Whether an acknowledgement for a line is still on a Vent's link. -/
def State.ackInFlight (s : State) (vent line : Nat) : Bool :=
  match s.link? (.vent vent) with
  | none => false
  | some l => l.lanes.any fun x => !x.toDie &&
      ((x.inflight.any fun f => f.body == .invAck line) || x.waiting.any fun b => b == .invAck line)

/-- The acknowledgement of one holder is collected. -/
def State.collectAck (s : State) (line vent : Nat) : State :=
  { s with ownReqs := s.ownReqs.map fun x =>
      if x.line == line then { x with toAck := x.toAck.filter (· != vent) } else x }

/-- INVALIDATION_ACK. -/
def execInvalidationAck (line vent : Nat) (s : State) : Out :=
  .next (
    if (100 ≤ vent ∧ vent < 200) ∨ s.ackInFlight vent line then s
    else (s.collectAck line vent).grantOwn line)

/-- BACK_INVALIDATE_ACK: the host holds the line no more, and the device write that waits may be performed. -/
def execBackInvalidateAck (port line : Nat) (s : State) : Out :=
  .next (
    if ((s.port? port).map (·.up)).getD false ∧ s.ownReqs.any fun r => r.line == line && r.toAck.contains (100 + port) then
      ((s.dropHolder (100 + port) line).collectAck line (100 + port)).grantOwn line
    else s)

/-! ## Page walks (R162, R163) -/

/-- PAGE_WALK_COMPLETE: a walk that reaches a leaf leaves it in the core's translation cache; one that fails leaves
nothing, and the access that asked for it takes its fault where it issues (R164). -/
def execPageWalkComplete (core : CoreId) (part ctx : Nat) (va : W64) (s : State) : Out :=
  .next (s.learn ⟨core, part, ctx⟩ va.toNat)

/-! ## Protected storage (R119, R158, R231, R256, R351) -/

/-- The record that a slot of a core's continuation store belongs to, by its place in the bins' order. -/
def CoreState.recordAt (c : CoreState) (n : Nat) : Option Rec := (c.bins.flatMap (·.recs))[n]?

/-- PATROL_SCRUB: a single-bit error is corrected; an uncorrectable one has the effect that R351 gives it. A word of a
register, scratchpad, W or A is reported by the access that meets it, one of a saved group in shadow storage by its return
to a core (R353). Which two registers of a lane share a 64-bit word the spec does not say: DESIGN CHOICE (log 21). -/
def execPatrolScrub (site : ScrubSite) (uncorrectable : Bool) (s : State) : Out :=
  .next (
    if !uncorrectable then s
    else
      match site with
      | .line line => s.markLost line Cause.uncorrectable
      | .tile team n =>
        s.onTeam team fun t => if n < 16 then { t with poison := t.poison ||| (1 <<< n : BitVec 16) } else t
      | .contHead core n =>
        match (s.core core).recordAt n with
        | none => s
        | some r => s.terminate r.thread.team Cause.regroupDataLost 0 0
      | .binTable core n =>
        match (s.core core).bins[n]? with
        | none => s
        | some b => b.recs.foldl (fun s r => s.terminate r.thread.team Cause.regroupDataLost 0 0) s
      | .reg group lane reg =>
        s.onGroup group fun g => g.onLanes (1 <<< lane : Mask) fun _ t =>
          { t with bad := (reg / 2 * 2) :: (reg / 2 * 2 + 1) :: t.bad }
      | .scratch team off => s.onTeam team fun t => { t with badSc := (off / 8 * 8) :: t.badSc }
      | .wbuf team off => s.onTeam team fun t => { t with badW := (off / 8 * 8) :: t.badW }
      | .abuf team off => s.onTeam team fun t => { t with badA := (off / 8 * 8) :: t.badA }
      | .image n =>
        { s with preempts := s.preempts.map fun x =>
            if x.n == n && (x.saved.map fun y => decide (0 < y.1)).getD false then { x with bad := true } else x }
      | .parked k =>
        { s with parkings := s.parkings.map fun p =>
            if p.key == k && (p.store.map fun y => decide (0 < y.1)).getD false then { p with bad := true } else p })

/-! ## Power gating (R115, R159, R160) -/

/-- The state of an L2 way: 0 in use, 1 gated, 2 waking, 3 failed. -/
def State.wayState (s : State) (v sl w : Nat) : Nat :=
  ((s.gatedWays.find? fun x => x.1 == v && x.2.1 == sl && x.2.2.1 == w).map (·.2.2.2)).getD 0

def State.setWay (s : State) (v sl w st : Nat) : State :=
  let l := s.gatedWays.filter fun x => !(x.1 == v && x.2.1 == sl && x.2.2.1 == w)
  { s with gatedWays := if st = 0 then l else (v, sl, w, st) :: l }

/-- Whether the pinned lines of a slice fit in its sets without one more of its ways (R148, R156, R159). -/
def State.pinsFit (s : State) (v sl w : Nat) : Bool :=
  (s.setWay v sl w 1).pinsHold v
    ((s.l2.filter fun l => l.vent == v && l.pinned.isSome && l.line % 32 == sl).map (·.line))

/-- The lines that stay in a Vent's slice when a set of it has `n` ways: those pinned, and then the first of each set. -/
def State.keptLines (s : State) (v sl n : Nat) : List L2Line → List L2Line → List L2Line
  | [], kept => kept.reverse
  | l :: r, kept =>
    if l.vent != v || s.sliceOf l.line != sl || l.pinned.isSome then s.keptLines v sl n r (l :: kept)
    else
      let used := (kept.filter fun k => k.vent == v && s.sliceOf k.line == sl && setOf k.line == setOf l.line).length +
        (r.filter fun k => k.vent == v && s.sliceOf k.line == sl && setOf k.line == setOf l.line && k.pinned.isSome).length
      s.keptLines v sl n r (if used < n then l :: kept else kept)

/-- Gate a way of a slice: dirty sectors are written back, and what no longer fits in the slice's sets is evicted. -/
def State.gateWay (s : State) (v sl w : Nat) : State :=
  let s1 := s.setWay v sl w 1
  let l := s1.keptLines v sl (s1.waysOf v sl) s1.l2 []
  let gone := s1.l2.filter fun x => !l.contains x
  let s2 := gone.foldl (fun s x => s.evict x) s1
  { s2 with l2 := s2.l2.map fun l => if l.vent == v && l.pinned.isNone && s2.sliceOf l.line == sl then l.clean else l }

/-- Whether a marked line stands at its home in a slice: it is promoted before it leaves (R187). -/
def State.sliceMarked (s : State) (v sl : Nat) : Bool :=
  s.narrow.any fun m => s.homeVent m.line == v && s.sliceOf m.line == sl

/-- Whether a line that cannot be written back now stands in a slice (R330). -/
def State.sliceQuarantined (s : State) (v sl : Nat) : Bool :=
  s.l2.any fun l => l.vent == v && s.sliceOf l.line == sl && s.quarantined l

/-- BANK_GATE: a bank in which nothing need lie, its L1 lines dropped; a way that need hold no pinned line, its dirty
sectors written back. A slice that keeps marks promotes them first (R187), and one with a quarantined line, or with one for which
no tag is left, is not gated: its write-backs wait (R327, R330). -/
def execBankGate (u : PowerUnit) (s : State) : Out :=
  .next (
    match u with
    | .bank c b =>
      if isService c ∨ 64 ≤ b ∨ (s.core c).gated.getLsbD b ∨ s.freeGranules c < 48 then s
      else s.setCore c fun x => { x with gated := x.gated ||| (1 <<< b : BitVec 64), l1 := [] }
    | .way v sl w =>
      if 16 ≤ w ∨ 32 ≤ sl ∨ s.wayState v sl w ≠ 0 ∨ !s.pinsFit v sl w ∨ s.sliceQuarantined v sl then s
      else if s.sliceMarked v sl then s.promoteAll fun m => s.homeVent m.line == v && s.sliceOf m.line == sl
      else s.gateWay v sl w)

/-- BANK_WAKE: the unit is powered and swept. -/
def execBankWake (u : PowerUnit) (s : State) : Out :=
  .next (
    match u with
    | .bank c b =>
      s.setCore c fun x =>
        if x.gated.getLsbD b ∧ !x.failed.getLsbD b then { x with waking := x.waking ||| (1 <<< b : BitVec 64) } else x
    | .way v sl w => if s.wayState v sl w = 1 then s.setWay v sl w 2 else s)

/-- BANK_WAKE_COMPLETE: the unit is admitted to use, or left gated and marked failed. -/
def execBankWakeComplete (u : PowerUnit) (ok : Bool) (s : State) : Out :=
  .next (
    match u with
    | .bank c b =>
      s.setCore c fun x =>
        let m : BitVec 64 := 1 <<< b
        if !x.waking.getLsbD b then x
        else if ok then { x with waking := x.waking &&& ~~~m, gated := x.gated &&& ~~~m }
        else { x with waking := x.waking &&& ~~~m, failed := x.failed ||| m }
    | .way v sl w => if s.wayState v sl w = 2 then (s.setWay v sl w (if ok then 0 else 3)).resumeQueues else s)

end Sys2Proof.Machine
end

