-- ==== Sys2Proof/Machine/Grids.lean ====
section
/-! DEFINITION. The end of teams and grids, core-time reports, and child launches (R101, R104, R117, R148, R296, R299,
R306, R310, R348, R349). -/

namespace Sys2Proof.Machine

/-! ## Core time (R306) -/

/-- A team's charge so far. -/
def Team.chargeOf (t : Team) : Nat := (t.charge + 2047) / 2048

/-- Report what a team has been charged since its last report, over its leaf controller's command link. -/
def State.reportCharge (s : State) (team : Nat) : State :=
  match s.team? team with
  | none => s
  | some t =>
    match t.core, s.grid? t.grid with
    | .vent v c _, some x =>
      let n := t.chargeOf - t.reported
      if n = 0 then s
      else
        (s.sendCmd v c false (.charge x.queue x.part n)).onTeam team fun t => { t with reported := t.chargeOf }
    | _, _ => s

/-- CHARGE_REPORT: a leaf controller reports every living team on its cluster. -/
def execChargeReport (v c : Nat) (s : State) : Out :=
  .next ((s.teams.filter fun t => (List.range 16).any fun k => t.core == .vent v c k).foldl
    (fun s t => s.reportCharge t.key) s)

/-! ## Teams (R101) -/

/-- Whether a child grid of a team's threads has not completed. -/
def State.hasChild (s : State) (team : Nat) : Bool :=
  (s.grids.any fun x => x.parent == some team) || s.scheds.any fun d => d.children.any fun c => c.parent == team

/-- Whether the completion of a child grid is recorded for a team whose context is halted: until it is delivered the child
counts (R313). -/
def State.childRecorded (s : State) (team : Nat) : Bool := s.preempts.any fun x => x.events.contains (.childDone team)

/-- Whether anything of a team is left on its core: lanes, records, tracker entries, operations or faults to deliver. -/
def State.teamBusy (s : State) (team : Nat) : Bool :=
  (s.groups.any fun g => g.lanes.any fun o => (o.map fun t => t.team == team).getD false) ||
    (s.cores.any fun c => c.bins.any fun b => b.recs.any fun r => r.thread.team == team) ||
    (s.trackers.any fun t => t.team == team) || (s.ops.any fun o => o.team == team) ||
    s.lateFaults.any fun f => f.team == team

/-- Complete (R101). -/
def State.teamDone (s : State) (t : Team) : Bool :=
  match s.grid? t.grid with
  | none => false
  | some x =>
    !(isService t.core) &&
      (t.dead.isSome || !t.swapped && decide (x.lrec.threads ≤ t.ended) && !(s.childRecorded t.key)) &&
      !(s.teamBusy t.key) && !(s.hasChild t.key)

/-- A pre-emption ends when no team of its context is left on its cores or in its image (R310, R312). -/
def State.endPreempts (s : State) : State :=
  { s with preempts := s.preempts.filter fun x =>
      s.teams.any fun t =>
        x.req.cores.contains t.core &&
          ((s.grid? t.grid).map fun g => g.part == x.req.part && g.ctx == x.req.ctx).getD false }

/-- TEAM_COMPLETE: the charge is reported and the allotments are released. -/
def execTeamComplete (team : Nat) (s : State) : Out :=
  .next (
    match s.team? team with
    | none => s
    | some t =>
      if !s.teamDone t then s
      else
        let s1 := s.reportCharge team
        let s2 := if t.dead.isSome then s1 else s1.onGrid t.grid fun x => { x with completed := x.completed ++ [t.num] }
        ({ s2 with teams := s2.teams.filter fun x => x.key != team }).endPreempts)

/-! ## Grids (R296, R349) -/

/-- Whether every team of a grid is complete. -/
def State.gridDone (s : State) (x : Grid) : Bool :=
  !(s.teams.any fun t => t.grid == x.key && !(isService t.core)) &&
    (x.cause.isSome || decide (x.lrec.teams ≤ x.completed.length))

/-- The completion of a child grid reaches its parent team: where the team's context is halted it is recorded (R313). -/
def State.tellParent (s : State) (parent : Option Nat) : State :=
  match parent.bind s.team? with
  | none => s
  | some t =>
    match s.heldTeam t with
    | none => s
    | some y => s.recordEvent y.n (.childDone t.key)

/-- What the completion of a grid does once its word is written. -/
def State.finishGrid (s : State) (x : Grid) : State :=
  let s1 : State :=
    ({ (s.unpin x.key) with grids := s.grids.filter fun y => y.key != x.key }).tellParent x.parent
  let s2 :=
    match x.launch with
    | none => s1
    | some (k, n) => s1.finishNode k n x.cause
  match x.parent, x.queue with
  | none, some q => s2.doneRunning q (.grid x.key)
  | _, _ => s2

/-- GRID_COMPLETE. Lines that its end would move away from their marks are promoted first (R187). -/
def execGridComplete (grid : Nat) (s : State) : Out :=
  .next (
    match s.grid? grid with
    | none => s
    | some x =>
      let marked := ((s.pinsEnding x.key).map (·.line)).filter s.unpinLeaves
      if !s.gridDone x then s
      else if !marked.isEmpty then s.promoteAll fun m => marked.contains m.line
      else s.writeDone x.part x.ctx x.queue x.done x.id (x.cause.getD 0) fun s => s.finishGrid x)

/-! ## Child launches (R104, R299, R308) -/

/-- The grid of a child launch. -/
def Child.grid (c : Child) (l : LaunchRec) : Grid :=
  { Grid.blank l c.id c.part c.ctx c.pasid c.level c.queue c.done with
    depth := c.depth, parent := some c.parent, sup := c.sup }

/-- CHILD_LAUNCH: the child at the head of a Vent's ring. One that was killed, or whose record is refused, ends with its
completion word. -/
def execChildLaunch (v : Nat) (s : State) : Out :=
  .next (
    match (s.scheds.find? fun d => d.vent == v).bind fun d => d.children.head? with
    | none => s
    | some c =>
      let take (s : State) : State := s.onSched v fun d => { d with children := d.children.tail }
      let ends (cause : Nat) : State :=
        s.writeDone c.part c.ctx c.queue c.done c.id cause fun s => (take s).tellParent (some c.parent)
      if c.killed then ends Cause.killed
      else
        match s.checkLaunch c.part c.ctx c.lrec with
        | .wait ds => s.wakeLinks ds
        | .refused _ => ends Cause.translation
        | .ok l => ((take s).cpCrossAt c.part c.ctx c.lrec.toNat 128).addGrid (c.grid l))

end Sys2Proof.Machine
end

