-- ==== Sys2Proof/Machine/Commands.lean ====
section
/-! DEFINITION. Queue commands: their layout, the head of a queue, SIGNAL and AFTER, and graphs
(R291, R295 to R297, R303 to R305). -/

namespace Sys2Proof.Machine

/-- Units of the time register in a microsecond (R28). -/
def microUnits : Nat := 16000

/-! ## The layout of a command (R295) -/

/-- An 8-byte field of a block. -/
def fld64 (l : List Byte) (lo : Nat) : W64 := BitVec.ofNat 64 (fld l lo (lo + 7))

/-- The command in 64 bytes and its ORD, none where R295 is broken. -/
def cmdOf (l : List Byte) : Option (Bool × Cmd) :=
  let op := fld l 0 0
  let flags := fld l 1 1
  let repl := decide (2 ≤ flags)
  let ord := flags % 2 == 1
  if 4 ≤ flags ∨ !zeros l 2 3 ∨ (repl ∧ op ≠ 2) then none
  else if op = 1 ∨ op = 2 then
    if fld l 8 15 % 64 ≠ 0 ∨ fld l 16 23 % 8 ≠ 0 then none
    else if op = 1 then if zeros l 24 63 then some (ord, .launch (fld64 l 8) (fld64 l 16)) else none
    else if !zeros l 44 63 ∨ (!repl ∧ !zeros l 32 43) then none
    else some (ord, .launchAt repl (fld64 l 8) (fld64 l 16) (fld64 l 24) (fld64 l 32) (BitVec.ofNat 32 (fld l 40 43)))
  else if op = 3 then
    if fld l 8 15 % 64 = 0 ∧ fld l 16 23 % 8 = 0 ∧ zeros l 24 63 then some (ord, .graph (fld64 l 8) (fld64 l 16)) else none
  else if op = 4 then
    if fld l 8 15 % 8 = 0 ∧ fld l 24 24 < 2 ∧ zeros l 25 63 then
      some (ord, .signal (fld64 l 8) (fld64 l 16) (fld l 24 24 == 1))
    else none
  else if op = 5 then
    let kind := fld l 24 24
    if kind < 3 ∧ fld l 8 15 % (if kind = 2 then 1024 else 8) = 0 ∧ zeros l 25 27 ∧ zeros l 32 63 then
      some (ord, .after (fld64 l 8) (fld64 l 16) kind (BitVec.ofNat 32 (fld l 28 31)))
    else none
  else none

/-! ## The head of a queue (R291, R296) -/

/-- The command at the head of a queue: no work or held back by an AFTER, a command with its ORD, one that is refused, or
a read that has to wait, with the dies whose links it needs. -/
inductive HeadCmd where
  | none
  | cmd (ord : Bool) (c : Cmd)
  | bad (code : Nat)
  | wait (dies : List DieId)
  deriving DecidableEq, Repr

/-- How many commands are written and not started, modulo 2^64 (R291). -/
def Queue.pending (x : Queue) : Nat := (x.widx - x.ridx).toNat

/-- The address of the command at the head of a queue (R291). -/
def Queue.headAddr (x : Queue) (d : QDesc) : Nat := d.rbase.toNat + 64 * (x.ridx.toNat % 2 ^ d.rszlog)

/-- Only an ACTIVE queue has commands read. -/
def State.headCmd (s : State) (x : Queue) : HeadCmd :=
  match x.desc with
  | .none => .none
  | .some d =>
    if x.status ≠ 1 ∨ x.closing.isSome ∨ x.after.isSome ∨ x.pending = 0 then .none
    else if s.info.state = 3 then .bad Code.failed
    else if 2 ^ d.rszlog < x.pending then .bad Code.overrun
    else
      match s.queueCtx d with
      | .none => .bad Code.translation
      | .some c =>
        match s.cpReadIn d.part c (x.headAddr d) 64 with
        | .err e => .bad e
        | .wait ds => .wait ds
        | .ok l =>
          match cmdOf l with
          | .none => .bad Code.badCmd
          | .some (o, k) => .cmd o k

/-- The command at a queue's head has been read (R24). -/
def State.headRead (s : State) (q : Nat) : State :=
  match (s.queue q).desc with
  | none => s
  | some d =>
    match s.queueCtx d with
    | none => s
    | some c => s.cpCrossAt d.part c ((s.queue q).headAddr d) 64

/-- RIDX advances past a command that starts; a ring that empties keeps its debt and not its credit (R306). -/
def State.nextCommand (s : State) (q : Nat) : State :=
  (s.onQueue q fun x =>
    { x with
        ridx := x.ridx + 1
        deficit := if x.widx = x.ridx + 1 then min x.deficit 0 else x.deficit }).writeStatus q

/-! ## SIGNAL (R296) -/

/-- The write of a SIGNAL, which releases every access of the commands that completed before it. -/
def State.signalWrite (s : State) (part ctx : Nat) (addr value : W64) (add : Bool) (fail : Nat → State → State)
    (k : State → State) : State :=
  match s.cpPlace part ctx addr.toNat 8 .write with
  | .err c => fail c s
  | .wait ds => s.wakeLinks ds
  | .ok key =>
    if (s.lostAt key 8).isSome then fail Code.lost s
    else
      let old := BitVec.ofNat 64 (s.readNat key 8)
      s.cpStore part ctx addr.toNat (bytesOf64 (if add then old + value else value)) fail k

/-- SIGNAL: it starts once every earlier command of its queue has completed. -/
def execSignal (q : Nat) (addr value : W64) (add : Bool) (s : State) : Out :=
  .next (
    let x := s.queue q
    match x.desc, s.headCmd x with
    | some d, .cmd _ c =>
      if c = .signal addr value add ∧ x.running.isEmpty then
        (s.headRead q).signalWrite d.part ((s.queueCtx d).getD 0) addr value add (fun e s => s.refuse q e) fun s =>
          s.nextCommand q
      else s
    | _, _ => s)

/-! ## AFTER (R296) -/

/-- An AFTER as it starts at a time. -/
def afterAt (now : Nat) (addr value : W64) (kind : Nat) (timeout : W32) : AfterState :=
  ⟨addr, value, kind, if timeout = 0 then none else some (timeout.toNat * microUnits), now⟩

/-- AFTER: it starts at the head of its queue, and holds back what follows. -/
def execAfter (q : Nat) (addr value : W64) (kind : Nat) (timeout : W32) (s : State) : Out :=
  .next (
    let x := s.queue q
    match s.headCmd x with
    | .cmd _ c =>
      if c = .after addr value kind timeout then
        let s1 := s.headRead q
        (s1.onQueue q fun x => { x with after := some (afterAt s1.now addr value kind timeout) }).nextCommand q
      else s
    | _ => s)

/-- What a poll finds. -/
inductive Polled where
  | met
  | not
  | err (code : Nat)
  | wait (dies : List DieId)
  deriving DecidableEq, Repr

/-- The condition of an AFTER on the bytes at its address: the word, the sync word's GEN, or the object's V0 as
pre-application leaves it. -/
def AfterState.holds (a : AfterState) (l : List Byte) : Bool :=
  if a.kind = 0 then decide (a.value.toNat ≤ natOfBytes l)
  else if a.kind = 1 then decide ((natOfBytes l % 2 ^ 16 + 2 ^ 16 - a.value.toNat % 2 ^ 16) % 2 ^ 16 < 2 ^ 15)
  else
    let o := (objOfBytes l).preApply
    o.valid && decide (a.value.toNat ≤ o.v0.toNat)

/-- The command processor as one that makes accesses (R152). Its reads acquire what has been performed before them. -/
def State.cpMaker (s : State) : Maker := ⟨.host, 256, 0, s.nextOp⟩

/-- One read of an AFTER's address: an atomic read at SYSTEM scope, for KIND 2 after the pre-application of R197. -/
def State.poll (s : State) (part ctx : Nat) (a : AfterState) : State × Polled :=
  let n := if a.kind = 2 then 1024 else 8
  match s.cpPlace part ctx a.addr.toNat n .read with
  | .err c => (s, .err c)
  | .wait ds => (s.wakeLinks ds, .wait ds)
  | .ok key =>
    let s1 := (s.causal (s.walkDies cpCore part ctx a.addr.toNat)).cpCross key
    let old := s1.readBytes key n
    let r := if a.holds old then Polled.met else .not
    let vent := s1.homeVent (lineOf key)
    if (s1.lostAt key n).isSome then (s1, .err Code.lost)
    else if a.kind ≠ 2 ∨ (objOfBytes old).preApply = objOfBytes old then (s1, r)
    else if !s1.mayWrite vent (lineOf key) then (s1.askOwn vent (lineOf key), .wait [])
    else ((State.preApplyAt (s1.acquiredOn .host 256 (-1)) vent (part, ctx) s1.cpMaker key old).1, r)

/-- A graph node's AFTER or SIGNAL cannot be performed, or its launch is refused: its queue enters ERROR, and its launch
starts no further node. -/
def State.failNode (s : State) (launch queue node cause code : Nat) : State :=
  let s1 : State :=
    { s with launches := s.launches.map fun l =>
        if l.key == launch then
          { l with
              started := if l.started.contains node then l.started else l.started ++ [node]
              faulted := some (l.faulted.getD (node, cause)) }.halt cause
        else l }
  (s1.finishNode launch node (some cause)).refuse queue code

/-- The cause of a graph's DONE word for a refusal code: the three that are fault causes, and otherwise KILLED. -/
def causeOfCode (code : Nat) : Nat :=
  if code = Code.translation then Cause.translation
  else if code = Code.permission then Cause.permission
  else Cause.killed

/-- Poll one AFTER of a graph launch. -/
def State.pollNode (s : State) (q : Nat) (l : GraphLaunch) (node : Nat) (a : AfterState) : State :=
  let ctx := ((s.part? l.inst.part).bind fun x => x.ctxOf l.inst.pasid).getD 0
  match s.poll l.inst.part ctx a with
  | (t, .met) => t.finishNode l.key node none
  | (t, .err c) => t.failNode l.key q node (causeOfCode c) c
  | (t, _) => t

/-- AFTER_POLL: the queue's own AFTER while it is not stopped, and those of its graph launches. -/
def execAfterPoll (q : Nat) (s : State) : Out :=
  .next (
    let x := s.queue q
    let own : State :=
      match x.desc, x.after with
      | some d, some a =>
        if x.status = 1 ∨ x.status = 3 then
          match s.queueCtx d with
          | none => (s.onQueue q fun x => { x with after := none }).refuse q Code.translation
          | some c =>
            match s.poll d.part c a with
            | (t, .met) => t.onQueue q fun x => { x with after := none }
            | (t, .err e) => (t.onQueue q fun x => { x with after := none }).refuse q e
            | (t, _) => t
        else s
      | _, _ => s
    (own.launches.filter fun l => l.queue == q).foldl
      (fun s l => l.polling.foldl (fun s p => s.pollNode q l p.1 p.2) s) own)

/-- Whether an AFTER's TIMEOUT has passed. -/
def AfterState.expired (a : AfterState) (now : Nat) : Bool :=
  match a.timeout with
  | none => false
  | some t => decide (a.started + t ≤ now)

/-- AFTER_TIMEOUT. -/
def execAfterTimeout (q : Nat) (s : State) : Out :=
  .next (
    let x := s.queue q
    let own : State :=
      match x.after with
      | none => s
      | some a =>
        if (x.status = 1 ∨ x.status = 3) ∧ a.expired s.now then
          (s.onQueue q fun x => { x with after := none }).refuse q Code.timeout
        else s
    (own.launches.filter fun l => l.queue == q).foldl
      (fun s l =>
        match l.polling.find? fun p => p.2.expired s.now with
        | none => s
        | some p => s.failNode l.key q p.1 Cause.killed Code.timeout) own)

/-! ## Graph descriptors (R303) -/

/-- A command that a node may hold. -/
def nodeCmd (l : List Byte) : Option Cmd :=
  match cmdOf l with
  | some (false, .launch a b) => some (.launch a b)
  | some (false, .launchAt false a b t p g) => some (.launchAt false a b t p g)
  | some (false, .signal a v x) => some (.signal a v x)
  | some (false, .after a v k t) => some (.after a v k t)
  | _ => none

/-- Node `n` in its 128 bytes, none where R303 is broken. -/
def nodeOf (n : Nat) (l : List Byte) : Option GraphNode :=
  let k := fld l 64 64
  let ps := (List.range 16).map fun i => fld l (68 + 2 * i) (69 + 2 * i)
  match nodeCmd (l.take 64) with
  | none => none
  | some c =>
    if k ≤ 16 ∧ zeros l 65 67 ∧ zeros l 100 127 ∧ ((ps.take k).all fun p => decide (p < n)) ∧
        ((ps.drop k).all fun p => p == 0) then
      some ⟨c, ps.take k⟩
    else none

/-- The header of a graph descriptor keeps the limits of R303. -/
def graphHeaderOk (l : List Byte) : Bool :=
  decide (fld l 0 3 = 0x47524148 ∧ 1 ≤ fld l 8 9 ∧ fld l 8 9 ≤ 4096 ∧ fld l 10 10 < 2 ∧ fld l 16 23 % 64 = 0) &&
    zeros l 11 15 && zeros l 24 63

/-- What reading the nodes gives. -/
inductive NodesRead where
  | ok (l : List GraphNode)
  | err (code : Nat)
  | wait (dies : List DieId)
  deriving DecidableEq, Repr

/-- Read the `n` nodes from number `i` on. -/
def State.readNodes (s : State) (part ctx base : Nat) : Nat → Nat → NodesRead
  | 0, _ => .ok []
  | n + 1, i =>
    match s.cpRead part ctx (base + 128 * i) 2 with
    | .err c => .err c
    | .wait ds => .wait ds
    | .ok l =>
      match nodeOf i l with
      | none => .err Code.badGraph
      | some x =>
        match s.readNodes part ctx base n (i + 1) with
        | .ok r => .ok (x :: r)
        | r => r

/-! ## The graph store (R304) -/

/-- Nodes in the store. -/
def storeNodes (l : List GraphInst) : Nat := (l.map fun x => x.nodes.length).sum

/-- Whether an instance of `n` nodes fits. -/
def storeFits (l : List GraphInst) (n : Nat) : Bool := decide (l.length < 512 ∧ storeNodes l + n ≤ 65536)

/-- Drop instances, the one launched least recently with no launch running first, until `n` nodes fit. -/
def makeStoreRoom (running : List GraphLaunch) (n : Nat) : Nat → List GraphInst → Option (List GraphInst)
  | 0, l => if storeFits l n then some l else none
  | k + 1, l =>
    if storeFits l n then some l
    else
      match leastBy (fun (x : GraphInst) => x.used) (l.filter fun x => !running.any fun y => sameInst y.inst x) with
      | none => none
      | some x => makeStoreRoom running n k (l.filter fun y => !sameInst y x)

/-- What a GRAPH command finds: its instance and the store that holds it, a refusal, or a wait, for room or for links. -/
inductive GraphFound where
  | ok (inst : GraphInst) (store : List GraphInst)
  | err (code : Nat)
  | wait (dies : List DieId)
  deriving DecidableEq, Repr

/-- Find or instantiate the instance that a GRAPH command names. -/
def State.findGraph (s : State) (part ctx pasid : Nat) (gdesc : W64) : GraphFound :=
  match s.cpReadIn part ctx gdesc.toNat 64 with
  | .err c => .err c
  | .wait ds => .wait ds
  | .ok h =>
    let version : W32 := BitVec.ofNat 32 (fld h 4 7)
    let named (x : GraphInst) : Bool := x.part == part && x.pasid == pasid && x.gdesc == gdesc && x.version == version
    match s.insts.find? named with
    | some x => .ok x s.insts
    | none =>
      if !graphHeaderOk h then .err Code.badGraph
      else
        match s.readNodes part ctx (fld h 16 23) (fld h 8 9) 0 with
        | .err c => .err c
        | .wait ds => .wait ds
        | .ok ns =>
          let x : GraphInst := ⟨part, pasid, gdesc, version, fld h 10 10 == 1, ns, 0⟩
          match makeStoreRoom s.launches ns.length s.insts.length s.insts with
          | none => .wait []
          | some l => .ok x (l ++ [x])

/-- A launch of an instance is made; it runs at once unless an earlier launch of an instance that is not re-entrant has
not completed (R305). -/
def State.addGraphLaunch (s : State) (q : Nat) (inst : GraphInst) (store : List GraphInst) (done : W64) : State :=
  let l : GraphLaunch :=
    { key := s.nextKey, inst := inst, queue := q, done := done
      active := inst.reent || !(s.launches.any fun y => sameInst y.inst inst)
      started := [], finished := [], polling := [], faulted := none }
  let s1 : State :=
    { s with
        nextKey := s.nextKey + 1
        insts := store.map fun x => if sameInst x inst then { x with used := s.nextKey } else x
        launches := s.launches ++ [l] }
  s1.onQueue q fun x => { x with running := x.running ++ [.launch l.key] }

/-! ## Launching a grid (R298 to R302) -/

/-- A grid for a queue, its start held until an instant if one is given. Its key is the next. -/
def State.launchGrid (s : State) (q : Nat) (d : QDesc) (ctx : Nat) (l : LaunchRec) (done : W64) (held : Option Nat)
    (node : Option (Nat × Nat)) : State :=
  let x : Grid := { Grid.blank l s.nextGrid d.part ctx d.pasid d.prio (some q) done with held := held, launch := node }
  ({ s with nextGrid := s.nextGrid + 1 }).addGrid x

/-- Launch a grid as a command of its queue, or refuse it. -/
def State.startLaunch (s : State) (q : Nat) (d : QDesc) (ctx : Nat) (lrec done : W64) (held : Option Nat) : State :=
  match s.checkLaunch d.part ctx lrec with
  | .refused c => s.refuse q c
  | .wait ds => s.wakeLinks ds
  | .ok l =>
    (((s.cpCrossAt d.part ctx lrec.toNat 128).launchGrid q d ctx l done held none).onQueue q fun x =>
      { x with running := x.running ++ [.grid s.nextKey] }).nextCommand q

/-- T0 and T1 of a START (R301, R302). -/
def startT0 (start : W64) : Nat := start.toNat + 32
def startT1 (start : Nat) : Nat := start + 400

/-! ## GRAPH_NODE_START (R304) -/

/-- Start a node. -/
def State.startNode (s : State) (l : GraphLaunch) (n : Nat) (c : Cmd) : State :=
  match (s.queue l.queue).desc with
  | none => s
  | some d =>
    let ctx := ((s.part? l.inst.part).bind fun x => x.ctxOf l.inst.pasid).getD 0
    let begun (s : State) : State :=
      { s with launches := s.launches.map fun y => if y.key == l.key then { y with started := y.started ++ [n] } else y }
    let fail (code : Nat) (s : State) : State := s.failNode l.key l.queue n (causeOfCode code) code
    let grid (lrec done : W64) (held : Option Nat) : State :=
      match s.checkLaunch l.inst.part ctx lrec with
      | .refused e => fail e s
      | .wait ds => s.wakeLinks ds
      | .ok r => ((begun s).cpCrossAt l.inst.part ctx lrec.toNat 128).launchGrid l.queue d ctx r done held (some (l.key, n))
    match c with
    | .launch lrec done => grid lrec done none
    | .launchAt _ lrec done start _ _ =>
      if (s.time .caldera).pkgState ≠ 2 then fail Code.unsync s else grid lrec done (some (startT0 start))
    | .signal a v add => s.signalWrite l.inst.part ctx a v add fail fun s => (begun s).finishNode l.key n none
    | .after a v k t =>
      let s1 := begun s
      { s1 with launches := s1.launches.map fun y =>
          if y.key == l.key then { y with polling := y.polling ++ [(n, afterAt s.now a v k t)] } else y }
    | .graph _ _ => s

/-- GRAPH_NODE_START: all predecessors of the node have completed, and no node of the launch has faulted. -/
def execGraphNodeStart (launch node : Nat) (s : State) : Out :=
  .next (
    match s.launches.find? fun l => l.key == launch with
    | none => s
    | some l =>
      match l.inst.nodes[node]? with
      | none => s
      | some x =>
        if l.active ∧ l.faulted.isNone ∧ !l.started.contains node ∧ x.preds.all fun p => l.finished.contains p then
          s.startNode l node x.cmd
        else s)

end Sys2Proof.Machine
end

