-- ==== Sys2Proof/Machine/Copy.lean ====
section
/-! DEFINITION. Class 18, COPY: CPY, BCPY and GET, their transfers, sync-word updates and completion records (R216,
R270 to R280, R329). -/

namespace Sys2Proof.Machine

/-! ## Spaces of a copy (R150, R274, R276) -/

/-- A thread of a team whose group may have ended: enough to name the team's places. -/
def teamThread (team : Nat) : Thread := Thread.launched 0 team 0 0

/-- The launch record of a team's grid. -/
def State.teamRec (s : State) (team : Nat) : Option LaunchRec := s.lrecOf (teamThread team)

/-- The space of a block's code (R51). -/
def spaceOfCode (c : Nat) : Space :=
  if c = 0 then .gl else if c = 2 then .sc else if c = 4 then .w else if c = 5 then .a else .rs

/-- The base registers of a CPY address. -/
def cpyRegs (sp : Space) (r : RegNum) : List Nat := regsFrom r (if sp = .gl then 2 else 1)

/-- The register of a CPY's sync address (R273). -/
def cpySyncReg (x : CpyArgs) : Nat := x.a.toNat + (if x.ssp = .gl then 2 else 1)

/-- A CPY address in a position. -/
def cpyAddr (sp : Space) (r : RegNum) (t : Thread) : Nat :=
  if sp = .gl then (t.get64 r.toNat).toNat else (t.get r.toNat).toNat

/-! ## CPY (R273 to R275) -/

/-- The translation of one lane of a CPY: its source before its destination. -/
def State.xlateCpy (s : State) (w : Who) (src dst : List Piece) : LaneXl :=
  match s.xlatePieces w .read src with
  | .ok p =>
    match s.xlatePieces w .write dst with
    | .ok q => .ok (p ++ q)
    | x => x
  | x => x

/-- Every lane of a CPY translated. -/
def State.xlateCpyAll (s : State) (w : Who) : List (Nat × List Piece × List Piece) → AllXl
  | [] => .ok []
  | (i, p, q) :: l => addLane i (s.xlateCpy w p q) (s.xlateCpyAll w l)

/-- The accesses of a CPY: each lane's first place is its source, the second its destination. -/
def cpyAccs (s : State) (g : Group) (x : CpyArgs) (z : Nat) (ps : List (Nat × List (Loc × Nat × Nat))) : List Acc :=
  ps.filterMap fun e =>
    match e.2, g.thread? e.1 with
    | [p, q], some t =>
      some
        { n := e.1, lane := e.1, va := BitVec.ofNat 64 (cpyAddr x.ssp x.a t), rel := 0, after := 0, loc := q.1, len := z
          roff := 0, data := [], src := some p.1
          sync := if x.sw then s.scPlace t (t.get (cpySyncReg x)).toNat 8 else none
          ops := [], owner := 0 }
    | _, _ => none

/-- The checks of a CPY before translation (R275). -/
def cpyChecks (s : State) (x : CpyArgs) (z : Nat) : List LaneCheck :=
  let sync (t : Thread) := (t.get (cpySyncReg x)).toNat
  [ (Cause.misaligned, fun t =>
      cpyAddr x.ssp x.a t % z == 0 && cpyAddr x.dsp x.d t % z == 0 && (!x.sw || sync t % 8 == 0)),
    (Cause.permission, fun t =>
      (s.piecesOf t x.ssp (cpyAddr x.ssp x.a t) z).isSome && (s.piecesOf t x.dsp (cpyAddr x.dsp x.d t) z).isSome &&
        (!x.sw || (s.scPlace t (sync t) 8).isSome)) ]

/-- CPY of elements of `z` bytes. FADDR of a trap of its first two checks is the source address of the lowest failing lane, also
where that lane's destination or sync address failed: DESIGN CHOICE (log 111). While a walk waits the word is held, and the links
that it needs wake (R25). -/
def cpyWord (z : Nat) (p : Pred) (x : CpyArgs) (s : State) : Out :=
  let regs := cpyRegs x.dsp x.d ++ cpyRegs x.ssp x.a ++ (if x.sw then [cpySyncReg x] else [])
  issueWord p 1 regs regs s fun g A s =>
    if g.held .cp then s
    else
      match failing g A (cpyChecks s x z) with
      | some (c, m) =>
        let a := (((lowLane m).bind g.thread?).map (cpyAddr x.ssp x.a)).getD 0
        s.trap g A c m (BitVec.ofNat 64 a)
      | none =>
        let w := s.whoOf g
        let l := (lanesOf A).filterMap fun i => (g.thread? i).map fun t =>
          (i, (s.piecesOf t x.ssp (cpyAddr x.ssp x.a t) z).getD [],
            (s.piecesOf t x.dsp (cpyAddr x.dsp x.d t) z).getD [])
        match s.xlateCpyAll w l with
        | .wait ds => s.wakeLinks ds
        | .lost c => s.terminateOf g A c
        | .fault m c a => s.trap g A c m (BitVec.ofNat 64 a)
        | .ok ps =>
          (s.learnAll w (l.map fun e => (e.1, e.2.1 ++ e.2.2))).issueOp g A .copy .cp (.cpy z) (cpyAccs s g x z ps)
            (g.commandTeam A) 1

/-- CPY.b32. -/
def execCpyB32 (p : Pred) (x : CpyArgs) (s : State) : Out := cpyWord 4 p x s
/-- CPY.b64. -/
def execCpyB64 (p : Pred) (x : CpyArgs) (s : State) : Out := cpyWord 8 p x s
/-- CPY.b128. -/
def execCpyB128 (p : Pred) (x : CpyArgs) (s : State) : Out := cpyWord 16 p x s

/-! ## BCPY and GET (R276, R277) -/

/-- The block of BCPY and GET. -/
def bulkOf (isGet : Bool) (l : List Byte) : Bulk :=
  { isGet := isGet
    src := BitVec.ofNat 64 (fld l 0 7)
    dst := BitVec.ofNat 64 (fld l 8 15)
    spitch := fld l 16 19
    dpitch := fld l 20 23
    width := fld l 24 27
    height := fld l 28 29
    ssp := fld l 30 30 % 8
    dsp := fld l 30 30 / 8 % 8
    sync := fld l 31 31 % 2 == 1
    ring := fld l 31 31 / 2 % 2 == 1
    synca := BitVec.ofNat 32 (fld l 32 35)
    win := fld l 36 39
    ringa := BitVec.ofNat 64 (fld l 40 47)
    rslots := fld l 48 51
    tag := BitVec.ofNat 32 (fld l 52 55)
    done := 0
    fault := none
    idx := none }

/-- Whether a space code is one that a copy may name. -/
def copySpace (c : Nat) : Bool := c == 0 || c == 2 || c == 4 || c == 5

/-- An address of a row in the arithmetic of its space (R276). -/
def sideAddr (sp : Nat) (a : W64) (off : Nat) : Nat := (a.toNat + off) % (if sp = 0 then 2 ^ 64 else 2 ^ 32)

/-- Whether every row of one side lies where its space allows (R277). -/
def State.rowsOk (s : State) (team sp : Nat) (a : W64) (pitch width height : Nat) : Bool :=
  sp == 0 || (List.range height).all fun r =>
    (s.piecesOf (teamThread team) (spaceOfCode sp) (sideAddr sp a (r * pitch)) width).isSome

/-- The checks of R277 after those of R50, in order. -/
def State.bulkChecks (s : State) (team : Nat) (b : Bulk) (l : List Byte) : List (Bool × Nat) :=
  [ (fld l 30 30 / 64 == 0 && fld l 31 31 / 4 == 0 && zeros l 56 63 && (b.isGet || b.win == 0),
      Cause.illegalInstruction),
    (decide (1 ≤ b.width ∧ b.width ≤ 65536 ∧ 1 ≤ b.height ∧ b.width * b.height ≤ 65536) &&
      (if b.isGet then b.ssp == 0 else copySpace b.ssp) && copySpace b.dsp && !(b.sync && b.dsp == 0) &&
      (b.sync || b.synca == 0) &&
      (if b.ring then decide (b.rslots ∈ (List.range 17).map fun k => 2 ^ k) else b.ringa == 0 && b.rslots == 0) &&
      (b.ssp == 0 || zeros l 4 7) && (b.dsp == 0 || zeros l 12 15), Cause.illegalState),
    (b.synca.toNat % 8 == 0 && b.ringa.toNat % 32 == 0, Cause.misaligned),
    ((b.isGet || s.rowsOk team b.ssp b.src b.spitch b.width b.height) &&
      s.rowsOk team b.dsp b.dst b.dpitch b.width b.height &&
      (!b.sync || (s.scPlace (teamThread team) b.synca.toNat 8).isSome), Cause.permission) ]

/-- The issue of BCPY and GET. -/
def bulkWord (isGet : Bool) (p : Pred) (ps : RegNum) (s : State) : Out :=
  issueWord p 1 [] [] s fun g A s =>
    if g.held .cp then s
    else
      withBlock g A ps 64 s fun l =>
        let b := bulkOf isGet l
        match firstFail (s.bulkChecks (g.commandTeam A) b l) with
        | some c => s.commandTrap g A c (g.blockAddr ps)
        | none => s.issueOp g A .copy .cp (.bulk b) [] (g.commandTeam A) 1

/-- BCPY. -/
def execBcpy (p : Pred) (ps : RegNum) (s : State) : Out := bulkWord false p ps s

/-- GET. -/
def execGet (p : Pred) (ps : RegNum) (s : State) : Out := bulkWord true p ps s

/-! ## Sync words (R190, R216) -/

/-- Count `m` performed bytes into the sync word at a place. -/
def State.countSync (s : State) (l : Loc) (m : Nat) : State :=
  let old : W64 := BitVec.ofNat 64 (natOfBytes (s.placeBytes l 8))
  (s.writePlace 0 (0, 0) l (bytesOf64 (syncCount old m))).mark l

/-! ## Transfers (R275, R278, R279) -/

/-- Whether a lower lane of a CPY still has to write a byte of this lane's destination (R275). -/
def cpyBlocked (o : Op) (x : Acc) : Bool :=
  o.accs.any fun y => decide (y.lane < x.lane) && overlap x.loc x.len y.loc y.len

/-- One position of a CPY: read, write, count. -/
def performCpy (o : Op) (x : Acc) (s : State) : State :=
  match x.src with
  | none => s.dropAcc o.id x.n
  | some src =>
    match s.meets o.id src x.len true, s.meets o.id x.loc x.len false with
    | .dies c, _ => (s.dropAcc o.id x.n).terminate (s.accTeam o x) c 0 0
    | _, .dies c => (s.dropAcc o.id x.n).terminate (s.accTeam o x) c 0 0
    | .wait, _ => s
    | _, .wait => s
    | .ok, .ok =>
      if (x.sync.map fun l => s.placeBad l 8).getD false then
        (s.dropAcc o.id x.n).terminate (s.accTeam o x) Cause.uncorrectable 0 0
      else
        let m := o.maker x.lane
        let d := s.readFor o m src x.len
        d.1.ownedWrite o m x.loc d.2 fun r =>
          (match x.sync with | none => r | some l => r.countSync l x.len).dropAcc o.id x.n

/-- The dies whose traffic a copy's access to `n` bytes at a place needs. -/
def State.locPath (s : State) (o : Op) (l : Loc) (n : Nat) : List DieId :=
  match l with
  | .mem key => if inWindow key then [] else s.linePath o.core key n false
  | _ => []

/-- Part `n` of a copy arrives at the slice of a place, if it lies in memory (R160). -/
def State.atPlace (s : State) (o : Op) (n : Nat) (l : Loc) (k : State → State) : State :=
  match l with
  | .mem key => if inWindow key then k s else s.atSlice (s.ventFor o.core (lineOf key)) key o.id n k
  | _ => k s

/-- One position of a CPY at the slices of its source and its destination. -/
def arriveCpy (o : Op) (x : Acc) (s : State) : State :=
  match x.src with
  | none => performCpy o x s
  | some l => s.atPlace o x.n l fun s => s.atPlace o x.n x.loc (performCpy o x)

/-- Perform the named positions of a CPY in that order. -/
def performCpys (id : Nat) : List Nat → State → State
  | [], s => s
  | n :: ns, s =>
    match s.op? id with
    | none => s
    | some o =>
      match o.accs.find? fun x => x.n == n with
      | none => performCpys id ns s
      | some x => performCpys id ns (
          if cpyBlocked o x then s
          else
            s.cross (s.locPath o x.loc x.len ++ ((x.src.map fun l => s.locPath o l x.len).getD [])) (arriveCpy o x))

/-- The offsets of byte `i` of a bulk copy in its source and its destination (R276). -/
def Bulk.srcAddr (b : Bulk) (i : Nat) : Nat := sideAddr b.ssp b.src (i / b.width * b.spitch + i % b.width)
def Bulk.dstAddr (b : Bulk) (i : Nat) : Nat := sideAddr b.dsp b.dst (i / b.width * b.dpitch + i % b.width)

/-- How many bytes from the first have all been performed (R280). -/
def Bulk.run (b : Bulk) : Nat :=
  (((List.range (b.width * b.height)).find? fun i => !b.done.testBit i)).getD (b.width * b.height)

def Bulk.full (b : Bulk) : Bool := b.run == b.width * b.height

/-- The place of one byte of a side, or the fault it meets. -/
def State.sidePlace (s : State) (o : Op) (sp a : Nat) (need : Need) : LaneXl :=
  match s.piecesOf (teamThread o.team) (spaceOfCode sp) a 1 with
  | none => .fault Cause.permission a
  | some ps => s.xlatePieces (s.whoTeam o.core o.team) need ps

/-- The PASID of a team's context. -/
def State.pasidOf (s : State) (team : Nat) : Nat :=
  (((s.team? team).bind fun t => s.grid? t.grid).map (·.pasid)).getD 0

/-- An entry of a window table (R329). -/
structure Window where
  base : Nat
  len  : Nat
  port : Nat
  ctrl : Nat
  deriving DecidableEq, Repr

/-- The 32 bytes of entry `win` of the window table, as an entry that is bound for an operation, and none otherwise (R329). -/
def State.boundWindow (s : State) (o : Op) (l : List Byte) : Option Window :=
  let f := fld l 20 23
  if fld l 17 17 ≠ 1 ∨ !zeros l 24 31 ∨ f / 2 ^ 20 % 2 ^ 11 ≠ 0 ∨ 7 < fld l 16 16 ∨
      !s.hostPortOk (s.whoTeam o.core o.team).part (fld l 16 16) ∨
      !(decide (f / 2 ^ 31 = 1) || f % 2 ^ 20 == s.pasidOf o.team) then none
  else some ⟨fld l 0 7, fld l 8 15, fld l 16 16, fld l 18 19⟩

/-- What a GET finds for an offset of its storage window; a wait names the dies whose links are to carry the table's entry. -/
inductive WindowFind where
  | at_ (w : Window)
  | unbound
  | wait (dies : List DieId)
  | lost (cause : Nat)
  deriving DecidableEq, Repr

/-- The storage window of a GET: unbound too where the offset lies beyond its end (R279, R329), and where the table's entry lies
outside the partition's reach (R317): DEDUCED (log 119). -/
def State.findWindow (s : State) (o : Op) (win off : Nat) : WindowFind :=
  match s.part? (s.whoTeam o.core o.team).part with
  | none => .unbound
  | some x =>
    let a := x.swint.toNat + 32 * win
    if x.swinn.toNat ≤ win ∨ !s.inReach x.num a 32 then .unbound
    else
      match s.readBar o.core a 32, s.meetsMark a 32 with
      | some (.lost c), _ => .lost c
      | some (.wait ds), _ => .wait ds
      | some _, _ => .wait []
      | none, .dies c => .lost c
      | none, _ =>
        match s.boundWindow o (s.readBytes a 32) with
        | none => .unbound
        | some w => if w.len ≤ off then .unbound else .at_ w

/-- Whether a port's link carries traffic (R326, R330). -/
def Port.isOpen (p : Port) : Bool := p.up && p.failedAt.isNone

/-! ## The reads of a GET and their tags (R327, R329) -/

/-- Whether a read may take its tags: out of the reserve behind its partition's own earlier requests, and else in arrival
order (R327). -/
def Port.mayGrant (p : Port) (r : PortRead) (earlier : List PortRead) : Bool :=
  let n := (r.len + 63) / 64
  let waiting := earlier.filter fun e => e.tags == 0
  p.mayTake r.part n && (waiting.isEmpty || (decide (p.tagsOf r.part + n ≤ tagReserve) && !waiting.any fun e => e.part == r.part))

/-- Give the waiting reads their tags, in arrival order, as far as they go. -/
def Port.grantTags : List PortRead → List PortRead → Port → Port
  | [], _, p => p
  | r :: l, earlier, p =>
    if r.tags = 0 ∧ p.mayGrant r earlier then
      let r1 := { r with tags := (r.len + 63) / 64 }
      Port.grantTags l (earlier ++ [r1]) { p with reads := earlier ++ r1 :: l }
    else Port.grantTags l (earlier ++ [r]) p

/-- The read that covers byte `i` of an operation. -/
def Port.readOf? (p : Port) (op i : Nat) : Option PortRead :=
  p.reads.find? fun r => r.op == op && decide (r.off ≤ i) && decide (i < r.off + r.len)

/-- Issue the read of a GET from byte `i` to the end of its row, at most 4 KiB (R329), where none covers the byte yet. -/
def State.issueRead (s : State) (o : Op) (b : Bulk) (w : Window) (i : Nat) : State :=
  s.onPort w.port fun p =>
    if (p.readOf? o.id i).isSome then p
    else
      let off := b.srcAddr i
      let n := min (min 4096 (b.width - i % b.width)) (w.len - off)
      let r : PortRead := ⟨o.id, i, n, w.base + off, w.ctrl, (s.whoTeam o.core o.team).part, 0⟩
      Port.grantTags (p.reads ++ [r]) [] { p with reads := p.reads ++ [r] }

/-- The completion of an operation's read has come once every byte of it has been performed: its tags are free (R327). -/
def State.freeReads (s : State) (id : Nat) (done : PortRead → Bool) : State :=
  { s with
      ports := s.ports.map fun p =>
        let l := p.reads.filter fun r => !(r.op == id && done r)
        if l = p.reads then p else Port.grantTags l [] { p with reads := l } }

/-- Whether every byte of a read has been performed. -/
def Bulk.hasRead (b : Bulk) (r : PortRead) : Bool := (List.range r.len).all fun k => b.done.testBit (r.off + k)

/-- The source byte of a bulk copy: what it is, with the number of the next free value, or what stands in its way. -/
inductive SrcByte where
  | byte (b : Byte) (fresh : Nat)
  | wait (dies : List DieId)
  | fault (cause addr : Nat)
  deriving DecidableEq, Repr

/-- Byte `i` of a GET, once its read is issued: it comes with the read's completion, over a link that carries traffic. -/
def State.getByte (s : State) (o : Op) (b : Bulk) (i : Nat) (stored : Byte) : SrcByte :=
  match s.findWindow o b.win (b.srcAddr i) with
  | .unbound => .fault Cause.copyFault (b.srcAddr i)
  | .lost c => .fault c (b.srcAddr i)
  | .wait ds => .wait ds
  | .at_ w =>
    match s.port? w.port with
    | none => .wait []
    | some p =>
      if p.isOpen && ((p.readOf? o.id i).map fun r => decide (0 < r.tags)).getD false then .byte stored s.fresh else .wait []

/-- Byte `i`'s source. `stored` is what the storage controller delivers for it. -/
def State.srcByte (s : State) (o : Op) (b : Bulk) (i : Nat) (stored : Byte) : SrcByte :=
  let a := b.srcAddr i
  if b.isGet then s.getByte o b i stored
  else
    match s.sidePlace o b.ssp a .read with
    | .fault c x => .fault c x
    | .lost c => .fault c a
    | .wait ds => .wait ds
    | .ok ((l, _, _) :: _) =>
      match s.meets o.id l 1 true with
      | .ok =>
        let r := s.readFor o o.engine l 1
        .byte (r.2.getD 0 0) r.1.fresh
      | .wait => .wait []
      | .dies c => .fault c a
    | .ok [] => .wait []

/-- The place of the source of byte `i` of a bulk copy, if it lies in the device or in host memory. -/
def State.srcLoc (s : State) (o : Op) (b : Bulk) (i : Nat) : Option Loc :=
  if b.isGet then none
  else
    match s.sidePlace o b.ssp (b.srcAddr i) .read with
    | .ok ((l, _, _) :: _) => some l
    | _ => none

/-- The dies whose traffic the read of byte `i` of a bulk copy needs; the ports are Caldera's. -/
def State.srcPath (s : State) (o : Op) (b : Bulk) (i : Nat) : List DieId :=
  match s.srcLoc o b i with
  | some l => s.locPath o l 1
  | none => if b.isGet then [dieOf o.core, .caldera] else []

/-- Change the block of an outstanding bulk copy. -/
def State.onBulk (s : State) (id : Nat) (f : Bulk → Bulk) : State :=
  s.onOp id fun o =>
    match o.kind with
    | .bulk b => { o with kind := .bulk (f b) }
    | _ => o

/-- A bulk copy meets a fault: it writes no further byte (R279). -/
def State.bulkFault (s : State) (id cause addr : Nat) : State :=
  s.onBulk id fun b => { b with fault := some (b.fault.getD (cause, BitVec.ofNat 64 addr)) }

/-- Issue the read of a GET that byte `i` needs, where its link carries traffic (R329). A window that is unbound, or behind a
lost line, is the copy's fault (R279). -/
def State.askByte (s : State) (o : Op) (b : Bulk) (i : Nat) : State :=
  if !b.isGet then s
  else
    match s.findWindow o b.win (b.srcAddr i) with
    | .unbound => s.bulkFault o.id Cause.copyFault (b.srcAddr i)
    | .lost c => s.bulkFault o.id c (b.srcAddr i)
    | .wait ds => s.wakeLinks ds
    | .at_ w =>
      if ((s.port? w.port).map Port.isOpen).getD false then
        s.cross [dieOf o.core, .caldera] fun s => s.issueRead o b w i
      else s

/-- Issue the reads that some bytes of an operation need, until a fault. -/
def askBytes (id : Nat) : List Nat → State → State
  | [], s => s
  | i :: l, s =>
    match s.op? id with
    | none => s
    | some o =>
      match o.kind with
      | .bulk b => askBytes id l (if b.fault.isSome ∨ b.width * b.height ≤ i ∨ b.done.testBit i then s else s.askByte o b i)
      | _ => s

/-- Whether a host page may be a copy's destination: of a BCPY's, not of a GET's (R278). -/
def hostDst (b : Bulk) (l : Loc) : Bool :=
  b.isGet && (match l with | .mem key => (portOfKey key).isSome | _ => false)

/-- The source of byte `i` of a bulk copy, if it lies in memory, arrives at its slice (R160). -/
def State.atSource (s : State) (o : Op) (b : Bulk) (i : Nat) (k : State → State) : State :=
  match s.srcLoc o b i with
  | some l => s.atPlace o i l k
  | none => k s

/-- Perform byte `i` of a bulk copy, whose read, of a GET, has been issued. -/
def State.bulkByte (s : State) (o : Op) (b : Bulk) (i : Nat) (stored : Byte) : State :=
  match s.srcByte o b i stored with
  | .wait ds => s.wakeLinks ds
  | .fault c a => s.bulkFault o.id c a
  | .byte x f =>
    match s.sidePlace o b.dsp (b.dstAddr i) .write with
    | .fault c a => s.bulkFault o.id c a
    | .lost c => s.bulkFault o.id c (b.dstAddr i)
    | .wait ds => s.wakeLinks ds
    | .ok [] => s
    | .ok ((l, _, _) :: _) =>
      if hostDst b l then s.bulkFault o.id Cause.permission (b.dstAddr i)
      else
        match s.meets o.id l 1 false with
        | .wait => s
        | .dies c => s.bulkFault o.id c (b.dstAddr i)
        | .ok =>
          s.cross (s.locPath o l 1 ++ s.srcPath o b i) fun s =>
            s.atSource o b i fun s =>
              s.atPlace o i l fun s =>
                ({ s with fresh := f }).ownedWrite o o.engine l [x] fun r => r.onBulk o.id fun b => { b with done := b.done ||| 2 ^ i }

/-- Perform the named bytes in that order, each once, until a fault. -/
def bulkBytes (id : Nat) : List (Nat × Byte) → State → State
  | [], s => s
  | (i, x) :: l, s =>
    match s.op? id with
    | none => s
    | some o =>
      match o.kind with
      | .bulk b =>
        if b.fault.isSome ∨ b.width * b.height ≤ i ∨ b.done.testBit i then bulkBytes id l s
        else bulkBytes id l ((s.askByte o b i).bulkByte o b i x)
      | _ => s

/-- The reads of a GET of which every byte has been performed are complete (R327). -/
def State.endReads (s : State) (id : Nat) : State :=
  match s.op? id with
  | none => s
  | some o =>
    match o.kind with
    | .bulk b => s.freeReads id b.hasRead
    | _ => s

/-- The bytes of a mask that are set. -/
def doneCount (b : Bulk) : Nat := bitCount (b.width * b.height) b.done

/-- The sync-word update after a transfer: the bytes performed since `before` (R216). -/
def State.bulkSync (s : State) (id before : Nat) : State :=
  match s.op? id with
  | none => s
  | some o =>
    match o.kind with
    | .bulk b =>
      if b.sync ∧ before < doneCount b then
        match s.scPlace (teamThread o.team) b.synca.toNat 8 with
        | none => s
        | some l =>
          if s.placeBad l 8 then s.bulkFault id Cause.uncorrectable b.synca.toNat
          else s.countSync l (doneCount b - before)
      else s
    | _ => s

/-- COPY_TRANSFER: the named positions of a CPY, or bytes of a bulk copy in row order; `storage` are the bytes that a
GET's controller delivers for them, one each; of bytes that it does not deliver yet the reads are issued. The reads of a GET that has ended complete without effect. -/
def execCopyTransfer (op : Nat) (parts : List Nat) (storage : List Byte) (s : State) : Out :=
  match s.op? op with
  | none => .next (s.freeReads op fun r => parts.contains r.off)
  | some o =>
    .next (
      match o.kind with
      | .cpy _ => performCpys op parts s
      | .bulk b =>
        let l := (List.range parts.length).zip parts
        let l := if b.isGet then l.filter fun e => decide (e.1 < storage.length) else l
        ((bulkBytes op (l.map fun e => (e.2, storage.getD e.1 0)) (askBytes op parts s)).bulkSync op (doneCount b)).endReads op
      | _ => s)

/-! ## Completion (R271, R279, R280) -/

/-- What comes of writing a completion record, with the state after it. -/
inductive RingWrite where
  | ok (s : State)
  | fault (cause : Nat) (s : State)
  | wait (s : State)
  deriving DecidableEq, Repr

/-- An access of a copy to its ring: `k` goes on with its memory key, once the links to the Vent that `at_` names carry traffic,
no way of its slice wakes and that Vent may write the line (R24, R25, R157, R160). -/
def State.ringAccess (s : State) (o : Op) (a n : Nat) (need : Need) (at_ : Nat → Nat) (k : Nat → State → RingWrite) :
    RingWrite :=
  match s.xlate (s.whoTeam o.core o.team) a n need with
  | .translation => .fault Cause.translation s
  | .permission => .fault Cause.permission s
  | .lost c => .fault c s
  | .wait ds => .wait (s.wakeLinks ds)
  | .ok key =>
    match s.meets o.id (.mem key) n (need == .atomic) with
    | .wait => .wait s
    | .dies c => .fault c s
    | .ok =>
      let vent := at_ key
      let ds := s.linePath o.core key n (need == .atomic)
      if inWindow key then k key s
      else if s.sliceWaking vent (lineOf key) then .wait s
      else if !ds.all s.linkFlows then .wait (s.wakeLinks ds)
      else if !s.mayWrite vent (lineOf key) then .wait (s.askOwn vent (lineOf key))
      else k key (s.causal ds)

/-- Words 0 to 3 of a completion record (R280). -/
def Bulk.record (b : Bulk) (idx : Nat) (status cause : Nat) (faddr : W64) : List Byte :=
  bytesOfNat 8 ((idx + 1) % 2 ^ 32 * 2 ^ 32 + status * 2 ^ 24 + cause * 2 ^ 16) ++
    bytesOfNat 8 (b.tag.toNat * 2 ^ 32 + b.run) ++ bytesOfNat 8 faddr.toNat ++ bytesOfNat 8 0

/-- The fetch-and-add of 1 on WIDX at its home slice, once for a record (R280): `k` goes on with the index. -/
def State.takeIndex (s : State) (o : Op) (b : Bulk) (k : Nat → State → RingWrite) : RingWrite :=
  match b.idx with
  | some i => k i s
  | none =>
    s.ringAccess o b.ringa.toNat 8 .atomic (fun key => s.homeVent (lineOf key)) fun key s =>
      let i := natOfBytes (s.readPlace o (.mem key) 8)
      k i ((s.storeAt (s.homeVent (lineOf key)) (s.whoCtx o) key (bytesOfNat 8 ((i + 1) % 2 ^ 64))).onBulk o.id fun b =>
        { b with idx := some i })

/-- Write the record with its index (R280): words 1 to 3 first, then word 0, which is a release at DEVICE scope. -/
def State.writeSlot (s : State) (o : Op) (b : Bulk) (status cause : Nat) (faddr : W64) (idx : Nat) : RingWrite :=
  s.ringAccess o ((b.ringa.toNat + 32 + 32 * (idx % b.rslots)) % 2 ^ 64) 32 .write
    (fun key => s.ventFor o.core (lineOf key)) fun key s =>
      let vent := s.ventFor o.core (lineOf key)
      let r := b.record idx status cause faddr
      let s1 := s.storeAt vent (s.whoCtx o) (key + 8) (r.drop 8)
      .ok (((s1.storeAt vent (s.whoCtx o) key (r.take 8)).markRelease key o.core 8).mark (.mem key))

/-- Take an index and write the record. -/
def State.writeRecord (s : State) (o : Op) (b : Bulk) (status cause : Nat) (faddr : W64) : RingWrite :=
  s.takeIndex o b fun i s => s.writeSlot o b status cause faddr i

/-- The cause byte of a record for a fault (R280). -/
def recordCause (c : Nat) : Nat := if c = 0x100 then Cause.killed else c

/-- The cause with which a copy's fault terminates its team (R279, R351). -/
def faultCause (c : Nat) : Nat :=
  if c = Cause.uncorrectable ∨ c = Cause.dieLost ∨ c = Cause.hostLineLost ∨ c = Cause.coherencePoison then c
  else Cause.copyFault

/-- A bulk copy ends with the fault that it met: the record where the ring can be written, CP falls, its team is
terminated (R279); a copy of a team that is terminated already leaves an ABORTED record. While the record waits the copy
stands with its fault and performs nothing more. -/
def State.endFaulted (s : State) (o : Op) (b : Bulk) (cause : Nat) (addr : W64) : State :=
  let status := if cause = 0x100 then 2 else 1
  let fin (r : State) : State :=
    if cause = 0x100 then r.retireOp o else (r.retireOp o).terminate o.team (faultCause cause) addr o.waddr
  if !b.ring then fin s
  else
    match s.writeRecord o b status (recordCause cause) addr with
    | .ok r => fin r
    | .fault _ r => fin r
    | .wait r => r.bulkFault o.id cause addr.toNat

/-- A fault of the ring itself (R279): it becomes the copy's fault, and no record is left. -/
def State.ringFault (s : State) (id cause : Nat) (addr : W64) : State :=
  (s.bulkFault id cause addr.toNat).onBulk id fun b => { b with ring := false }

/-- COPY_COMPLETE: a copy of which nothing is left to perform. A fault of the ring becomes the copy's fault. -/
def execCopyComplete (op : Nat) (s : State) : Out :=
  match s.op? op with
  | none => .next s
  | some o =>
    .next (
      match o.kind with
      | .cpy _ => if o.accs.isEmpty then s.retireOp o else s
      | .bulk b =>
        match b.fault with
        | some (c, a) => if c = 0x100 then s.endFaulted o b c a else s
        | none =>
          if !b.full then s
          else if !b.ring then s.retireOp o
          else
            match s.writeRecord o b 0 0 0 with
            | .ok r => r.retireOp o
            | .fault c r => r.ringFault op c b.ringa
            | .wait r => r
      | _ => s)

/-- COPY_FAULT: a bulk copy that has met a fault, or whose storage controller reports an error, ends. -/
def execCopyFault (op : Nat) (storageError : Bool) (s : State) : Out :=
  match s.op? op with
  | none => .next s
  | some o =>
    .next (
      match o.kind with
      | .bulk b =>
        match b.fault with
        | some (c, a) => s.endFaulted o b c a
        | none =>
          if storageError ∧ b.isGet ∧ !b.full then
            s.endFaulted o b Cause.copyFault (BitVec.ofNat 64 (b.srcAddr b.run))
          else s
      | _ => s)

/-- The bound of a GET, 4 s in time units of 1/16 ns (R271, R279). -/
def getBound : Nat := 64000000000

/-- GET_TIMEOUT: a GET that is outstanding 4 s after its issue. -/
def execGetTimeout (op : Nat) (s : State) : Out :=
  match s.op? op with
  | none => .next s
  | some o =>
    .next (
      match o.kind with
      | .bulk b =>
        if b.isGet ∧ b.fault.isNone ∧ getBound ≤ (s.time (dieOf o.core)).value - o.stamp then
          s.endFaulted o b Cause.copyFault (BitVec.ofNat 64 (b.srcAddr b.run))
        else s
      | _ => s)

end Sys2Proof.Machine
end

