-- ==== Sys2Proof/Machine/Cvt.lean ====
section
/-! DEFINITION. Class 7, CVT: conversion and packing, with the draws of stochastic rounding (R66 to R70, R143,
R144). -/

namespace Sys2Proof.Machine

/-- The key of a thread's random words: sr.team × 2^11 + sr.tid (R69). -/
def State.drawKey (s : State) (t : Thread) : W64 :=
  BitVec.ofNat 64 (((s.team? t.team).map (·.num)).getD 0 * 2 ^ 11 + t.tid)

/-- The random word of a thread's k-th draw from now (R69). -/
def State.drawWord (s : State) (t : Thread) (k : Nat) : Nat :=
  mix16 t.seed (s.drawKey t) (t.draw + BitVec.ofNat 32 k)

/-- The draw counter after `n` roundings: under `.rs` each takes one draw (R68, R144). -/
def Thread.afterDraws (t : Thread) (m : RMode) (n : Nat) : Thread :=
  if m = .rs then { t with draw := t.draw + BitVec.ofNat 32 n } else t

/-- `v[d] := f w t` with n sources from `a` upward and n roundings, `w k` the random word of the k-th. -/
def cvtWord (p : Pred) (m : RMode) (d a : RegNum) (n : Nat) (f : (Nat → Nat) → Thread → W32) (s : State) : Out :=
  issueWord p 1 (d.toNat :: regsFrom a n) (regsFrom a n) s fun g A s =>
    s.advance (g.onLanes A fun _ t => (t.put d.toNat (f (s.drawWord t) t)).afterDraws m n) 1

/-- FP32 to a narrower format. -/
def narrow (f : Fmt) (m : RMode) (w : Nat) (x : W32) : W32 := BitVec.ofNat 32 (rnd f m w (exF32 x))

/-- A narrow element to FP32, exact (R60). -/
def widen (f : Fmt) (x : W32) : W32 := toF32 .rn (decodeFmt f (x.toNat % 2 ^ f.bits))

/-- PACK: element e is v[a + e] rounded (R143). -/
def packWord (f : Fmt) (m : RMode) (a : RegNum) (w : Nat → Nat) (t : Thread) : W32 :=
  BitVec.ofNat 32 (ofElements f.bits ((List.range (32 / f.bits)).map fun e =>
    rnd f m (w e) (exF32 (t.get (a.toNat + e)))))

/-- CVT.bf16.f32. -/
def execCvtBf16F32 (p : Pred) (m : RMode) (d a : RegNum) (s : State) : Out :=
  cvtWord p m d a 1 (fun w t => narrow bf16 m (w 0) (t.get a.toNat)) s

/-- CVT.e4m3.f32. -/
def execCvtE4m3F32 (p : Pred) (m : RMode) (d a : RegNum) (s : State) : Out :=
  cvtWord p m d a 1 (fun w t => narrow e4m3 m (w 0) (t.get a.toNat)) s

/-- CVT.e5m2.f32. -/
def execCvtE5m2F32 (p : Pred) (m : RMode) (d a : RegNum) (s : State) : Out :=
  cvtWord p m d a 1 (fun w t => narrow e5m2 m (w 0) (t.get a.toNat)) s

/-- CVT.f32.bf16. -/
def execCvtF32Bf16 (p : Pred) (d a : RegNum) (s : State) : Out := alu1 p d a (widen bf16) s

/-- CVT.f32.e4m3. -/
def execCvtF32E4m3 (p : Pred) (d a : RegNum) (s : State) : Out := alu1 p d a (widen e4m3) s

/-- CVT.f32.e5m2. -/
def execCvtF32E5m2 (p : Pred) (d a : RegNum) (s : State) : Out := alu1 p d a (widen e5m2) s

/-- CVT.i32.f32 (R66). -/
def execCvtI32F32 (p : Pred) (m : RMode) (d a : RegNum) (s : State) : Out :=
  cvtWord p m d a 1 (fun w t =>
    BitVec.ofInt 32 (rndInt (-2 ^ 31) (2 ^ 31 - 1) m (w 0) (exF32 (t.get a.toNat)))) s

/-- CVT.n32.f32 (R66). -/
def execCvtN32F32 (p : Pred) (m : RMode) (d a : RegNum) (s : State) : Out :=
  cvtWord p m d a 1 (fun w t => BitVec.ofInt 32 (rndInt 0 (2 ^ 32 - 1) m (w 0) (exF32 (t.get a.toNat)))) s

/-- CVT.f32.i32. -/
def execCvtF32I32 (p : Pred) (m : RMode) (d a : RegNum) (s : State) : Out :=
  cvtWord p m d a 1 (fun w t => BitVec.ofNat 32 (rnd f32 m (w 0) (exOfInt (t.get a.toNat).toInt))) s

/-- CVT.f32.n32. -/
def execCvtF32N32 (p : Pred) (m : RMode) (d a : RegNum) (s : State) : Out :=
  cvtWord p m d a 1 (fun w t => BitVec.ofNat 32 (rnd f32 m (w 0) (exOfInt (t.get a.toNat).toNat))) s

/-- CVT.f32.i64: one element from the pair. -/
def execCvtF32I64 (p : Pred) (m : RMode) (d a : RegNum) (s : State) : Out :=
  issueWord p 1 (d.toNat :: regsFrom a 2) (regsFrom a 2) s fun g A s =>
    s.advance (g.onLanes A fun _ t =>
      (t.put d.toNat (BitVec.ofNat 32 (rnd f32 m (s.drawWord t 0) (exOfInt (t.get64 a.toNat).toInt)))).afterDraws m 1)
      1

/-- PACK.bf16. -/
def execPackBf16 (p : Pred) (m : RMode) (d a : RegNum) (s : State) : Out :=
  cvtWord p m d a 2 (packWord bf16 m a) s

/-- PACK.e4m3. -/
def execPackE4m3 (p : Pred) (m : RMode) (d a : RegNum) (s : State) : Out :=
  cvtWord p m d a 4 (packWord e4m3 m a) s

/-- PACK.e5m2. -/
def execPackE5m2 (p : Pred) (m : RMode) (d a : RegNum) (s : State) : Out :=
  cvtWord p m d a 4 (packWord e5m2 m a) s

end Sys2Proof.Machine
end

