-- ==== Sys2Proof/Machine/DieLoss.lean ====
section
/-! DEFINITION. The loss of a die, and the adoption of its scheduler (R21, R26, R309, R351, R352). -/

namespace Sys2Proof.Machine

/-! ## The loss of a die (R21, R26, R309, R351, R352) -/

/-- Whether a die scheduler can adopt (R309): admitted, not dead and not hung. -/
def State.canAdopt (s : State) (v : Nat) : Bool :=
  s.liveVents.contains v && !(s.scheds.any fun d => d.vent == v && d.hung)

/-- The adopter of a Vent's die scheduler, or none where the command processor adopts (R309). -/
def State.adopterOf (s : State) (v : Nat) : Option DieId :=
  ([v ^^^ 1, v ^^^ 2, v ^^^ 4].find? fun w => decide (w < 8) && s.canAdopt w).map DieId.vent

/-- Whether a core lies on a Vent. -/
def coreOn (v : Nat) (c : CoreId) : Bool := dieOf c == .vent v

/-- What a Vent's L2 alone held is lost: DRAM and host memory stay as they are behind the dirty sectors. The lines that were
pinned there, the host lines and the lines homed elsewhere that only it held dirty are marked (R351); a device line homed on
it by the table counts as marked (R352), but not one that a live Vent holds pinned, whose home is there. A pinned line keeps its place, from which the stand-in serves it (R352). -/
def State.loseL2 (s : State) (v : Nat) : State :=
  let away := (s.l2.filter fun l => l.pinned.isSome && l.vent != v && isDeviceLine l.line && s.tableVent l.line == v).map (·.line)
  let kept := s.lost.filter fun m => m.lasting || s.homeVent m.line != v || !isDeviceLine m.line
  let s0 : State :=
    { s with lost := kept ++ (away.filter fun n => !(kept.any fun m => m.line == n)).map fun n =>
        (⟨n, Cause.dieLost, allWritten, false⟩ : LostMark) }
  let s1 := (s.l2.filter fun l => l.vent == v).foldl
    (fun r l =>
      let r1 := r.restoreOld l
      if l.pinned.isSome ∨ (l.dirty ≠ 0 ∧ (s.tableVent l.line ≠ v ∨ !isDeviceLine l.line)) then
        r1.markLost l.line Cause.dieLost
      else r1) s0
  { s1 with
      l2 := (s1.l2.filter fun l => l.vent != v || l.pinned.isSome).map fun l => if l.vent == v then l.emptied else l
      gatedWays := s1.gatedWays.filter fun w => w.1 != v
      retry := s1.retry.filter fun r => r.vent != v
      narrow := s1.narrow.filter fun m => s.homeVent m.line != v
      ownReqs := (s1.ownReqs.filter fun r => r.vent != v).map fun (r : OwnReq) =>
        { r with toInv := r.toInv.filter (· != v), toAck := r.toAck.filter (· != v) } }

/-- The teams with a group, a record or a tracker entry on a Vent (R351): a group that has ended and not retired still is one, of
the team whose operations it has. Of a team whose image has been moved away nothing is there (R311). -/
def State.teamsOn (s : State) (v : Nat) : List Team :=
  s.teams.filter fun t =>
    coreOn v t.core && !t.swapped &&
      ((s.groups.any fun g => g.lanes.any fun o => (o.map fun x => x.team == t.key).getD false) ||
        (s.trackers.any fun x => x.team == t.key) || (s.ops.any fun o => o.team == t.key) ||
        s.cores.any fun c => c.bins.any fun b => b.recs.any fun r => r.thread.team == t.key)

/-- Whether a group is part of an image that has been moved away. -/
def State.inImage (s : State) (g : Group) : Bool :=
  g.lanes.any fun o => (o.map fun t => s.swappedTeam t.team).getD false

/-- What ran on a Vent's cores is gone, and what its command links carried. -/
def State.dropVent (s : State) (v : Nat) : State :=
  let ks := (s.groups.filter fun g => coreOn v g.core && !s.inImage g).map (·.key)
  { s with
      groups := s.groups.filter fun g => !ks.contains g.key
      issueQ := s.issueQ.filter fun k => !ks.contains k
      lateFaults := s.lateFaults.filter fun f => !ks.contains f.group
      ops := s.ops.filter fun o => !coreOn v o.core
      trackers := s.trackers.filter fun t => !coreOn v t.core
      narrow := s.narrow.filter fun m => !coreOn v m.core
      cmdLinks := s.cmdLinks.filter fun l => l.vent != v
      cores := s.cores.filter fun c => !coreOn v c.id }

/-- A Vent's die scheduler is adopted (R309). -/
def State.adoptSched (s : State) (v : Nat) : State :=
  let a := s.adopterOf v
  let d : Scheduler := ⟨v, s.now, false, none, []⟩
  { s with scheds := upsert (fun d => d.vent == v) (fun d => { d with hung := true, adopter := a }) d s.scheds }

/-- The die positions of a grid that stood on a Vent and have teams to place are given other clusters. -/
def State.remapGrid (s : State) (v : Nat) (x : Grid) : State :=
  ((List.range x.lrec.d).filter fun d => x.clusters.any fun e => e.1 == d && e.2.2.1 == v).foldl
    (fun s d =>
      match s.grid? x.key with
      | none => s
      | some y =>
        let kept := y.clusters.filter fun e => e.1 != d
        let new := s.chooseFrom y.part y.lrec.cl 1 d (kept.map fun e => e.2.2)
        if new.isEmpty then s
        else
          (s.onGrid y.key fun y =>
            { y with clusters := kept ++ new, ready := y.ready.filter fun e => e.1 != d }).sendPlaces y.key new) s

/-- A Vent is declared dead. -/
def State.ventLost (s : State) (v : Nat) : State :=
  let s1 := (s.teamsOn v).foldl (fun s t => s.terminate t.key Cause.dieLost 0 0) s
  let s2 := ((s1.loseL2 v).dropVent v).adoptSched v
  let s3 := { s2 with info := { s2.info with vents := s2.info.vents &&& ~~~(1 <<< v : BitVec 8) } }
  (s3.grids.filter Grid.waits).foldl (fun s x => s.remapGrid v x) s3

/-- A Spring is declared dead: `lostCause` marks its lines from then on. -/
def State.springLost (s : State) (n : Nat) : State :=
  { s with info := { s.info with springs := s.info.springs &&& ~~~(1 <<< n : BitVec 16) } }

/-- The link of a dead die: the flits that it still holds will not be delivered (R351). -/
def Link.kill (l : Link) : Link :=
  { l with
      st := .dead
      lanes := l.lanes.map fun x => x.waiting.foldl (fun x b => x.send 0 b) { x with waiting := [] } }

/-- DIE_DECLARED_DEAD: the link is dead, STATE becomes DEGRADED, and what the die held is lost. A device that has FAILED stays
so: R18 gives FAILED no way out, R21 makes no exception of it, DESIGN CHOICE (log 94). -/
def State.dieDead (s : State) (d : DieId) : State :=
  let s1 := s.onLink d Link.kill
  let s2 :=
    match d with
    | .vent v => s1.ventLost v
    | .spring n => s1.springLost n
    | .caldera => s1
  if s2.info.state = 1 then { s2 with info := { s2.info with state := 2 } } else s2

/-- TRAINING_ATTEMPT_END: after three failures in a row and 50 µs in RETRAIN the die is declared dead. -/
def execTrainingAttemptEnd (d : DieId) (ok : Bool) (s : State) : Out :=
  .next (
    match s.link? d with
    | none => s
    | some l =>
      if l.st ≠ .retrain then s
      else if ok then s.linkRises d fun l => l.activate s.now
      else
        let s1 := s.onLink d fun l => { l with failed := l.failed + 1 }
        if 3 ≤ l.failed + 1 ∧ l.since + deadBound ≤ s.now then s1.dieDead d else s1)

end Sys2Proof.Machine
end

