-- ==== Sys2Proof/Machine/FpA.lean ====
section
/-! DEFINITION. Class 4, FP-A: single-precision sum, difference, product and fused multiply-add (R136). -/

namespace Sys2Proof.Machine

/-- FADD: rnd(exact(x + y), f32, m). -/
def execFadd (p : Pred) (m : RMode) (d a : RegNum) (b : OpB) (s : State) : Out :=
  alu2 p d a b (fun x y => toF32 m (Ex.add m (exF32 x) (exF32 y))) s

/-- FSUB: rnd(exact(x - y), f32, m). -/
def execFsub (p : Pred) (m : RMode) (d a : RegNum) (b : OpB) (s : State) : Out :=
  alu2 p d a b (fun x y => toF32 m (Ex.add m (exF32 x) (exF32 y).neg)) s

/-- FMUL: rnd(exact(x × y), f32, m). -/
def execFmul (p : Pred) (m : RMode) (d a : RegNum) (b : OpB) (s : State) : Out :=
  alu2 p d a b (fun x y => toF32 m (Ex.mul (exF32 x) (exF32 y))) s

/-- FFMA: rnd(exact(x × y + z), f32, m). -/
def execFfma (p : Pred) (m : RMode) (d a : RegNum) (b : OpB) (s : State) : Out :=
  alu3 p d a b (fun x y z => toF32 m (Ex.add m (Ex.mul (exF32 x) (exF32 y)) (exF32 z))) s

end Sys2Proof.Machine
end

