-- ==== Sys2Proof/Machine/FpB.lean ====
section
/-! DEFINITION. Class 5, FP-B (R137 to R140). -/

namespace Sys2Proof.Machine

/-- Whether a pattern is a NaN. -/
def isNan32 (x : W32) : Bool := x.toNat / 2 ^ 23 % 256 == 255 && x.toNat % 2 ^ 23 != 0

/-- FMIN. -/
def execFmin (p : Pred) (d a : RegNum) (b : OpB) (s : State) : Out :=
  alu2 p d a b (fun x y => BitVec.ofNat 32 (fmtMinMax f32 false x.toNat y.toNat)) s

/-- FMAX. -/
def execFmax (p : Pred) (d a : RegNum) (b : OpB) (s : State) : Out :=
  alu2 p d a b (fun x y => BitVec.ofNat 32 (fmtMinMax f32 true x.toNat y.toNat)) s

/-- FABS: the sign bit cleared; a NaN gives the canonical NaN. -/
def execFabs (p : Pred) (d a : RegNum) (s : State) : Out :=
  alu1 p d a (fun x => if isNan32 x then nan32 else x &&& 0x7FFFFFFF) s

/-- FNEG: the sign bit inverted; a NaN gives the canonical NaN. -/
def execFneg (p : Pred) (d a : RegNum) (s : State) : Out :=
  alu1 p d a (fun x => if isNan32 x then nan32 else x ^^^ 0x80000000) s

/-- FCMP. -/
def execFcmp (p : Pred) (cc : Cond) (pd : BitVec 3) (a : RegNum) (b : OpB) (s : State) : Out :=
  aluCmp p pd a b (condF32 cc) s

/-- FCLASS. -/
def execFclass (p : Pred) (d a : RegNum) (s : State) : Out := alu1 p d a classF32 s

/-- FRCP (R58). -/
def execFrcp (p : Pred) (d a : RegNum) (s : State) : Out := alu1 p d a frcp s

/-- FSQRT (R58). -/
def execFsqrt (p : Pred) (d a : RegNum) (s : State) : Out := alu1 p d a fsqrt s

/-- FRSQ (R58). -/
def execFrsq (p : Pred) (d a : RegNum) (s : State) : Out := alu1 p d a frsq s

/-- FEXP2 (R58). -/
def execFexp2 (p : Pred) (d a : RegNum) (s : State) : Out := alu1 p d a fexp2 s

/-- FLOG2 (R58). -/
def execFlog2 (p : Pred) (d a : RegNum) (s : State) : Out := alu1 p d a flog2 s

/-- The integral FP32 value that x rounds to (R140): infinities unchanged, a zero result with the sign of x. -/
def frint (m : RMode) (x : W32) : W32 :=
  match exF32 x with
  | .nan => nan32
  | .inf _ => x
  | .fin neg k e =>
    let n := roundInt m 0 neg k e
    if n = 0 then (if neg then 0x80000000 else 0) else toF32 m (exOfInt n)

/-- FRINT. -/
def execFrint (p : Pred) (m : RMode) (d a : RegNum) (s : State) : Out := alu1 p d a (frint m) s

end Sys2Proof.Machine
end

