-- ==== Sys2Proof/Machine/Gather.lean ====
section
/-! DEFINITION. Class 22, GATHER: GATHER, DIST and TOPK (R270 to R272, R281 to R286). -/

namespace Sys2Proof.Machine

/-! ## Issue (R282, R283, R285) -/

/-- Bytes of an element (R281). -/
def elemSize (fmt : Nat) : Nat := if fmt = 0 then 2 else 1

/-- The row size RB (R281). -/
def rowBytes (fmt dim : Nat) : Nat := 16 * ((dim * elemSize fmt + 15) / 16)

/-- The A allotment of a team. -/
def State.aSize (s : State) (team : Nat) : Nat := ((s.teamRec team).map (·.asize)).getD 0

/-- The issue of a gather-engine command: its block, the checks in order, then the operation. While its counter stands at 63 the
word is held before those checks (R39), whether or not they would trap: DESIGN CHOICE (log 95). -/
def gatherWord (p : Pred) (ps : RegNum) (checks : State → Nat → List Byte → List (Bool × Nat))
    (cmd : List Byte → GatherCmd) (s : State) : Out :=
  issueWord p 1 [] [] s fun g A s =>
    if g.held .cp then s
    else
      withBlock g A ps 32 s fun l =>
        match firstFail (checks s (g.commandTeam A) l) with
        | some c => s.commandTrap g A c (g.blockAddr ps)
        | none => s.issueOp g A .gather .cp (.gather (cmd l)) [] (g.commandTeam A) 1

/-- The checks of GATHER. -/
def gatherChecks (s : State) (team : Nat) (l : List Byte) : List (Bool × Nat) :=
  let count := fld l 20 20
  let dim := fld l 22 23
  [ (fld l 21 21 / 4 == 0 && zeros l 28 31, Cause.illegalInstruction),
    (decide (1 ≤ count ∧ count ≤ 32 ∧ 1 ≤ dim ∧ dim ≤ 1024), Cause.illegalState),
    (fld l 0 7 % 16 == 0 && fld l 8 11 % 16 == 0 && fld l 16 19 % 4 == 0 && fld l 24 27 % 16 == 0, Cause.misaligned),
    (decide (fld l 16 19 + 4 * count ≤ s.scratchSize team ∧
      fld l 24 27 + count * rowBytes (fld l 21 21 % 4) dim ≤ s.aSize team), Cause.permission) ]

/-- The command of GATHER's block. -/
def gatherOf (l : List Byte) : GatherCmd :=
  .gather (BitVec.ofNat 64 (fld l 0 7)) (fld l 8 11) (fld l 12 15) (BitVec.ofNat 32 (fld l 16 19)) (fld l 20 20)
    (fld l 21 21 % 4) (fld l 22 23) (fld l 24 27)

/-- GATHER. -/
def execGather (p : Pred) (ps : RegNum) (s : State) : Out := gatherWord p ps gatherChecks gatherOf s

/-- The checks of DIST. -/
def distChecks (s : State) (team : Nat) (l : List Byte) : List (Bool × Nat) :=
  let count := fld l 24 24
  let dim := fld l 26 27
  let rb := rowBytes (fld l 25 25 % 4) dim
  [ (fld l 25 25 / 16 == 0 && zeros l 28 31, Cause.illegalInstruction),
    (decide (1 ≤ count ∧ count ≤ 32 ∧ 1 ≤ dim ∧ dim ≤ 1024 ∧ fld l 25 25 / 4 % 4 ≠ 3), Cause.illegalState),
    (fld l 0 3 % 16 == 0 && fld l 4 7 % 16 == 0 && fld l 8 11 % 8 == 0 && fld l 12 15 % 4 == 0, Cause.misaligned),
    (decide (fld l 0 3 + rb ≤ s.aSize team ∧ fld l 4 7 + count * rb ≤ s.aSize team ∧
      fld l 12 15 + 4 * count ≤ s.scratchSize team ∧ fld l 8 11 + 8 * count ≤ s.scratchSize team), Cause.permission) ]

/-- The command of DIST's block. -/
def distOf (l : List Byte) : GatherCmd :=
  .dist (fld l 0 3) (fld l 4 7) (BitVec.ofNat 32 (fld l 8 11)) (BitVec.ofNat 32 (fld l 12 15)) (fld l 16 19)
    (BitVec.ofNat 32 (fld l 20 23)) (fld l 24 24) (fld l 25 25 % 4) (fld l 25 25 / 4 % 4) (fld l 26 27)

/-- DIST. -/
def execDist (p : Pred) (ps : RegNum) (s : State) : Out := gatherWord p ps distChecks distOf s

/-- The checks of TOPK. -/
def topkChecks (s : State) (team : Nat) (l : List Byte) : List (Bool × Nat) :=
  let cap := fld l 8 9
  let count := fld l 10 11
  [ (zeros l 12 31, Cause.illegalInstruction),
    (decide (1 ≤ cap ∧ cap ≤ 256 ∧ 1 ≤ count ∧ count ≤ 256), Cause.illegalState),
    (fld l 0 3 % 8 == 0 && fld l 4 7 % 8 == 0, Cause.misaligned),
    (decide (fld l 0 3 + 8 + 8 * cap ≤ s.scratchSize team ∧ fld l 4 7 + 8 * count ≤ s.scratchSize team),
      Cause.permission) ]

/-- The command of TOPK's block. -/
def topkOf (l : List Byte) : GatherCmd :=
  .topk (BitVec.ofNat 32 (fld l 0 3)) (BitVec.ofNat 32 (fld l 4 7)) (fld l 8 9) (fld l 10 11)

/-- TOPK. -/
def execTopk (p : Pred) (ps : RegNum) (s : State) : Out := gatherWord p ps topkChecks topkOf s

/-! ## What the engine computes (R60, R61, R72, R284, R286) -/

/-- An element of a row, decoded exactly (R60, R61). -/
def gatherElem (fmt x : Nat) : Ex :=
  if fmt = 0 then decodeFmt bf16 x
  else if fmt = 1 then decodeFmt e4m3 x
  else if fmt = 2 then decodeFmt e5m2 x
  else exOfInt (BitVec.ofNat 8 x).toInt

/-- The elements of a row's bytes. -/
def rowElems (fmt dim : Nat) (l : List Byte) : List Ex :=
  (List.range dim).map fun k => gatherElem fmt (fld l (elemSize fmt * k) (elemSize fmt * k + elemSize fmt - 1))

/-- The score of a row (R284). -/
def distScore (metric : Nat) (q x : List Ex) : W32 :=
  if metric = 0 then
    chunkSum 0 (List.zipWith (fun a b => let d := Ex.add .rn a b.neg; Ex.mul d d) q x)
  else
    let r := chunkSum 0 (List.zipWith Ex.mul q x)
    if exF32 r = .nan then nan32 else r ^^^ 0x80000000

/-- Whether the key of a pair comes strictly before another's (R286). -/
def pairBefore (x y : W32 × W32) : Bool :=
  match exF32 x.1, exF32 y.1 with
  | .nan, .nan => decide (x.2.toNat < y.2.toNat)
  | .nan, _ => false
  | _, .nan => true
  | a, b =>
    match Ex.cmp a b with
    | some .lt => true
    | some .eq => decide (x.2.toNat < y.2.toNat)
    | _ => false

/-- Insert a pair behind every pair that it does not come before. -/
def insertPair (x : W32 × W32) : List (W32 × W32) → List (W32 × W32)
  | [] => [x]
  | y :: l => if pairBefore x y then x :: y :: l else y :: insertPair x l

/-- The stable sort of R286. -/
def sortPairs (l : List (W32 × W32)) : List (W32 × W32) := l.foldl (fun r x => insertPair x r) []

/-- Pairs from bytes. -/
def pairsOf (n : Nat) (l : List Byte) : List (W32 × W32) :=
  (List.range n).map fun i => (wordOfBytes ((l.drop (8 * i)).take 4), wordOfBytes ((l.drop (8 * i + 4)).take 4))

/-- TOPK's new list and header (R286), from the old header, the old list and the input. -/
def topkResult (cap len : Nat) (list input : List (W32 × W32)) : List Byte :=
  let all := list.take (min len cap) ++ input.filter fun x => x.2 != 0xFFFFFFFF
  let kept := (sortPairs all).take cap
  bytesOfNat 8 kept.length ++ kept.flatMap fun x => bytesOfWord x.1 ++ bytesOfWord x.2

/-! ## GATHER_COMMAND_COMPLETE (R252, R271, R272, R282, R284, R286, R340) -/

/-- A fault after issue of an engine's command: it performs nothing, its count falls (R252, R340). -/
def State.engineFault (s : State) (o : Op) (cause addr : Nat) : State :=
  let f : LateFault := ⟨o.group, o.team, cause, o.active, o.active, BitVec.ofNat 64 addr, o.waddr, o.id⟩
  let s1 := s.retireOp o
  { s1 with lateFaults := s1.lateFaults ++ [f] }

/-- An engine's command whose access meets an uncorrectable or lost word: its team is terminated (R351). -/
def State.engineDies (s : State) (o : Op) (cause : Nat) : State := (s.retireOp o).terminate o.team cause 0 0

/-- Global bytes that a command reads or writes: one address range, all of it translated before anything is
performed (R252, R282). A wait names the dies whose links are to carry a walk (R25). -/
inductive Span where
  | ok (l : List (Loc × Nat))
  | fault (cause addr : Nat)
  | dies (cause : Nat)
  | wait (dies : List DieId)
  deriving DecidableEq, Repr

/-- The pieces of `n` bytes at `a` that lie in one line each, at most `fuel` of them. -/
def lineSplit : Nat → Nat → Nat → List (Nat × Nat)
  | 0, _, _ => []
  | fuel + 1, a, n =>
    if n = 0 then []
    else
      let k := min n (1024 - a % 1024)
      (a % 2 ^ 64, k) :: lineSplit fuel (a + k) (n - k)

/-- Translate pieces in order; the first fault decides. -/
def State.spanOf (s : State) (o : Op) (need : Need) : List (Nat × Nat) → Span
  | [] => .ok []
  | (a, n) :: l =>
    match s.xlate (s.whoTeam o.core o.team) a n need with
    | .translation => .fault Cause.translation a
    | .permission => .fault Cause.permission a
    | .lost c => .dies c
    | .wait ds => .wait ds
    | .ok key =>
      match s.spanOf o need l with
      | .ok q => .ok ((.mem key, n) :: q)
      | x => x

/-- The slice of a place at which a command must wait (R160): the Vent and the line. -/
def State.spanSlice (s : State) (o : Op) (l : Loc) : Option (Nat × Nat) :=
  match l with
  | .mem key =>
    let v := s.ventFor o.core (lineOf key)
    if !inWindow key && s.mustRetry v (lineOf key) o.id 0 then some (v, lineOf key) else none
  | _ => none

/-- What a command meets at its places before it is performed. -/
def State.spanMeets (s : State) (o : Op) (reads : Bool) : List (Loc × Nat) → Meet
  | [] => .ok
  | (l, n) :: r =>
    match s.meets o.id l n reads with
    | .ok => if (s.spanSlice o l).isSome then .wait else s.spanMeets o reads r
    | x => x

/-- A command that has to wait joins the retry queue of the first slice that holds it. -/
def State.joinSpan (s : State) (o : Op) (l : List (Loc × Nat)) : State :=
  match (l.filterMap fun x => s.spanSlice o x.1).head? with
  | some e => s.joinRetry e.1 e.2 o.id 0
  | none => s

/-- The dies whose traffic a command's places need (R24, R25). -/
def State.spanPath (s : State) (o : Op) (l : List (Loc × Nat)) : List DieId := l.flatMap fun x => s.locPath o x.1 x.2

/-- The bytes that a command reads at its places, each in turn. -/
def State.readList (s : State) (o : Op) : List (Loc × Nat) → State × List (List Byte)
  | [] => (s, [])
  | x :: l =>
    let r := s.readFor o o.engine x.1 x.2
    let q := r.1.readList o l
    (q.1, r.2 :: q.2)

/-- The bytes of one gathered row after another. -/
def State.readRows (s : State) (o : Op) : List (List (Loc × Nat)) → State × List (List Byte)
  | [] => (s, [])
  | x :: l =>
    let r := s.readList o x
    let q := r.1.readRows o l
    (q.1, r.2.flatten :: q.2)

/-- The bytes of one gathered row; none for a row of padding. -/
def State.rowSpan (s : State) (o : Op) (tbase : W64) (tstride nrows idx n : Nat) : Span :=
  if nrows ≤ idx then .ok []
  else s.spanOf o .read (lineSplit 4 ((tbase.toNat + idx * tstride) % 2 ^ 64) n)

/-- Every row's span, the first fault deciding. -/
def State.rowSpans (s : State) (o : Op) (tbase : W64) (tstride nrows n : Nat) :
    List Nat → Except Span (List (List (Loc × Nat)))
  | [] => .ok []
  | i :: l =>
    match s.rowSpan o tbase tstride nrows i n with
    | .ok q =>
      match s.rowSpans o tbase tstride nrows n l with
      | .ok r => .ok (q :: r)
      | .error e => .error e
    | x => .error x

/-- Lay a row's bytes out with padding to `rb` bytes. -/
def padRow (rb : Nat) (l : List Byte) : List Byte := (l ++ List.replicate rb 0).take rb

/-- Words from scratchpad. -/
def State.scWords (s : State) (team off n : Nat) : List Nat :=
  (List.range n).map fun i => natOfBytes (s.placeBytes (.sc team (off + 4 * i)) 4)

/-- GATHER (R282). -/
def gatherPerform (o : Op) (tbase : W64) (tstride nrows : Nat) (ilist : W32) (count fmt dim aoff : Nat)
    (s : State) : State :=
  let n := dim * elemSize fmt
  let rb := rowBytes fmt dim
  if s.placeBad (.sc o.team ilist.toNat) (4 * count) then s.engineDies o Cause.uncorrectable
  else
    match s.rowSpans o tbase tstride nrows n (s.scWords o.team ilist.toNat count) with
    | .error (.fault c a) => s.engineFault o c a
    | .error (.dies c) => s.engineDies o c
    | .error (.wait ds) => s.wakeLinks ds
    | .error (.ok _) => s
    | .ok rows =>
      match s.spanMeets o true rows.flatten with
      | .wait => s.joinSpan o rows.flatten
      | .dies c => s.engineDies o c
      | .ok =>
        s.cross (s.spanPath o rows.flatten) fun s =>
          let r := (s.leaveRetry o.id 0).readRows o rows
          (r.1.writePlace 0 (0, 0) (.ab o.team aoff) (r.2.flatMap (padRow rb))).retireOp o

/-- DIST (R284): a row of padding is not read, nor the query where every row is one; of a row its DIM elements are. -/
def distPerform (o : Op) (qoff roff : Nat) (out ilist : W32) (nrows : Nat) (idbase : W32)
    (count fmt metric dim : Nat) (s : State) : State :=
  let rb := rowBytes fmt dim
  let n := dim * elemSize fmt
  let rows := (List.range count).zip (s.scWords o.team ilist.toNat count)
  let read := rows.filter fun e => decide (e.2 < nrows)
  if s.placeBad (.sc o.team ilist.toNat) (4 * count) ∨ (!read.isEmpty ∧ s.placeBad (.ab o.team qoff) n) ∨
      (read.any fun e => s.placeBad (.ab o.team (roff + e.1 * rb)) n) then
    s.engineDies o Cause.uncorrectable
  else
    let q := rowElems fmt dim (s.placeBytes (.ab o.team qoff) n)
    let pairs := rows.flatMap fun e =>
      if nrows ≤ e.2 then bytesOfWord nan32 ++ bytesOfWord 0xFFFFFFFF
      else
        let x := rowElems fmt dim (s.placeBytes (.ab o.team (roff + e.1 * rb)) n)
        bytesOfWord (distScore metric q x) ++ bytesOfWord (idbase + BitVec.ofNat 32 e.2)
    (s.writePlace 0 (0, 0) (.sc o.team out.toNat) pairs).retireOp o

/-- TOPK (R286): of the list, the pairs below its LEN are read. -/
def topkPerform (o : Op) (list inp : W32) (cap count : Nat) (s : State) : State :=
  let old := s.placeBytes (.sc o.team list.toNat) (8 + 8 * cap)
  if s.placeBad (.sc o.team list.toNat) 8 ∨ s.placeBad (.sc o.team (list.toNat + 8)) (8 * min (fld old 0 1) cap) ∨
      s.placeBad (.sc o.team inp.toNat) (8 * count) then
    s.engineDies o Cause.uncorrectable
  else
    let r := topkResult cap (fld old 0 1) (pairsOf cap (old.drop 8))
      (pairsOf count (s.placeBytes (.sc o.team inp.toNat) (8 * count)))
    (s.writePlace 0 (0, 0) (.sc o.team list.toNat) r).retireOp o

/-- Whether an earlier command of the same group on the same path is outstanding (R237, R272). -/
def State.behind (s : State) (o : Op) : Bool :=
  s.ops.any fun q => q.group == o.group && q.path == o.path && decide (q.id < o.id)

/-- Whether an operation's team has been terminated: its commands leave no result (R348). -/
def State.teamDead (s : State) (team : Nat) : Bool :=
  match s.team? team with
  | none => true
  | some t => t.dead.isSome

/-- GATHER_COMMAND_COMPLETE. -/
def execGatherCommandComplete (op : Nat) (s : State) : Out :=
  match s.op? op with
  | none => .next s
  | some o =>
    .next (
      match o.kind with
      | .gather c =>
        if s.behind o then s
        else if s.teamDead o.team then s.retireOp o
        else
          match c with
          | .gather tb ts nr il n f d ao =>
            gatherPerform o tb ts nr il n f d ao s
          | .dist qo ro out il nr ib n f m d => distPerform o qo ro out il nr ib n f m d s
          | .topk l i cap n => topkPerform o l i cap n s
      | _ => s)

end Sys2Proof.Machine
end

