-- ==== Sys2Proof/Machine/Hosts.lean ====
section
/-! DEFINITION. Host accesses, the loss and return of a host's link, snoops of host memory and the training of the
optical ports (R29, R191, R325, R326, R328, R330, R331). -/

namespace Sys2Proof.Machine

/-! ## CXL.mem and CXL.io (R191, R325, R326, R328) -/

/-- Lines of device memory that one host may hold (R328). -/
def hostLineLimit : Nat := 2 ^ 20

/-- The answer to a host read; none is poison. -/
def State.answer (s : State) (tag : Nat) (r : Option (List Byte)) : State := { s with hostLog := s.hostLog ++ [(tag, r)] }

/-- Whether a host's access lies in the ranges of the partition that its port is bound to (R317, R326); a port that is bound to
none reaches nothing, and one that failed to draw a key holds its ranges all the same. -/
def State.hostReach (s : State) (p : Port) (addr n : Nat) : Bool :=
  p.bound != 127 && ((s.part? p.bound).map fun x => x.status != 0).getD false && s.inReach p.bound addr n

/-- The oldest of the lines that a port's host holds, where the limit leaves no room for one more. -/
def Port.oldest (p : Port) : List (Nat × Bool) := if hostLineLimit ≤ p.held.length then p.held.take 1 else []

/-- Grant a host a copy of a line filled under the key `k`; at the limit the line that it has held longest is taken back
first. -/
def Port.grant (p : Port) (line k : Nat) : Port :=
  let gone := p.oldest.map (·.1)
  { p with
      held := (p.held.filter fun h => !gone.contains h.1) ++ [(line, false)]
      heldKeys := (p.heldKeys.filter fun h => h.1 != line && !gone.contains h.1) ++ [(line, k)] }

/-- Whether a host's access to a line that its host does not hold has to wait: for the directory, for a waking way of the line's
home (R160), for an earlier write on its port (R191), or for another host (R331). -/
def State.hostWaits (s : State) (p : Port) (line : Nat) : Bool :=
  (s.ownReqs.any fun r => r.line == line) || s.sliceWaking (s.homeVent line) line || (s.portBlock (1024 * line)).isSome ||
    p.writes.any fun w => lineOf w.addr == line

/-- Tags of a transfer of `n` bytes, one for every 64 (R327). -/
def tagsFor (n : Nat) : Nat := (n + 63) / 64

/-- Tags that a port's waiting writes hold. -/
def Port.writeTags (p : Port) : Nat := (p.writes.map (·.tags)).sum

/-- A port's host as one that makes accesses (R152). -/
def State.hostMaker (s : State) (p : Port) : Maker := ⟨.host, 0, p.n, s.nextOp⟩

/-- A host's read comes after what has been performed, DESIGN CHOICE (log 82). -/
def State.hostSees (s : State) (p : Port) : State := s.acquiredOn .host 0 (1 <<< p.n)

/-- A read: a line that the host holds is read there, and any other at its home, which keeps it shared with the host. With no tag
left it has not come yet (R327). -/
def State.hostRead (s : State) (p : Port) (tag addr n : Nat) (cached : Bool) : State :=
  let line := lineOf addr
  if portTags < p.writeTags + tagsFor n then s
  else if !s.hostReach p addr n ∨ (s.lostAt addr n).isSome then s.answer tag none
  else if (p.held.any fun h => h.1 == line) && !(p.writes.any fun w => lineOf w.addr == line) then
    (s.hostSees p).answer tag (some (s.readBytes addr n))
  else if s.hostWaits p line then s
  else
    s.cross (s.homeDies addr n) fun s0 =>
      let s := s0.hostSees p
      let s1 := (s.fillShared (s.homeVent line) line (sectorMask addr n)).answer tag (some (s.readBytes addr n))
      if cached then (s1.shareLine (100 + p.n) line).onPort p.n fun p => p.grant line (s.serialAt addr) else s1

/-- Whether a host alone holds a line: no Vent, no other host and no monitor entry has a copy. -/
def State.hostAlone (s : State) (p : Port) (line : Nat) : Bool := s.otherHolders 10000 line == [100 + p.n]

/-- Whether a host's write may be performed now: in its own copy, or at the line's home, once no other holder is left. -/
def State.hostWriteDue (s : State) (p : Port) (addr : Nat) : Bool :=
  let line := lineOf addr
  s.hostAlone p line ||
    (!s.sliceWaking (s.homeVent line) line && s.linkFlows (.vent (s.homeVent line)) &&
      (s.dropHolder (100 + p.n) line).mayWrite (s.homeVent line) line)

/-- A host's write is performed: a line that the host alone holds is written there, and is modified from then on; any other at
its home. Outside the host's reach it completes with poison and changes nothing (R326). -/
def State.performHostWrite (s : State) (p : Port) (addr : Nat) (bs : List Byte) : State :=
  let line := lineOf addr
  if !s.hostReach p addr bs.length then s.onPort p.n fun p => { p with poisoned := p.poisoned + 1 }
  else if s.hostAlone p line then
    let r := s.mixWrite (s.hostMaker p) addr bs
    let s1 := (r.1.notePast (s.hostMaker p) addr bs.length).onPort p.n fun p =>
      { p with held := p.held.map fun h => if h.1 == line then (line, true) else h }
    ((s1.noteWritten line (byteMask addr bs.length)).noteUnits false addr bs.length).writeBytes addr r.2
  else
    (((s.causal [.caldera, .vent (s.homeVent line)]).dropHolder (100 + p.n) line).writeMem (s.homeVent line) deviceWho
      (s.hostMaker p) addr bs).clearNarrow line

/-- A host's write that has to wait asks for what it waits for: the link of the line's home (R25), or the directory (R157); the
host gives up its own copy. -/
def State.askHostWrite (s : State) (p : Port) (addr : Nat) : State :=
  let line := lineOf addr
  let vent := s.homeVent line
  if !s.linkFlows (.vent vent) then s.wakeLink (.vent vent)
  else
    let s1 := s.dropHolder (100 + p.n) line
    if s1.mayWrite vent line then s1 else s1.askOwn vent line

/-- The writes that wait at a port are performed in arrival order, as far as they are due (R191). -/
def State.drainPort (s : State) (n : Nat) : List HostWrite → State
  | [] => s
  | w :: l =>
    match s.port? n with
    | none => s
    | some p =>
      if !s.hostReach p w.addr w.data.length ∨ s.hostWriteDue p w.addr then
        ((s.performHostWrite p w.addr w.data).onPort n fun p => { p with writes := p.writes.tail }).drainPort n l
      else s.askHostWrite p w.addr

def State.drainPorts (s : State) : State := s.ports.foldl (fun s p => s.drainPort p.n p.writes) s

/-- A write arrives: it is performed behind the earlier writes of its port, which it waits for; with no tag left it has not come
yet. -/
def State.hostWrite (s : State) (p : Port) (addr : Nat) (bs : List Byte) : State :=
  if portTags < p.writeTags + tagsFor bs.length then s
  else
    let w : HostWrite := ⟨addr, bs, tagsFor bs.length⟩
    (s.onPort p.n fun p => { p with writes := p.writes ++ [w] }).drainPort p.n (p.writes ++ [w])

/-- HOST_CXL_MEM_ACCESS: on a host port that is up. CXL.io reads the configuration window. -/
def execHostCxlMemAccess (port : Nat) (x : HostAccess) (s : State) : Out :=
  .next (
    match s.port? port with
    | none => s
    | some p =>
      if p.peer ∨ !p.up then s
      else
        match x with
        | .read tag addr n cached => s.hostRead p tag addr n cached
        | .write addr data => s.hostWrite p addr data
        | .ioRead tag off n => s.answer tag (some (bytesOfNat n (s.infoRead off n))))

/-! ## The loss of a host's link (R330, R331) -/

/-- 2 s in units of Caldera's time register. -/
def quarantineUnits : Nat := 32000000000

/-- Whether a line lies in host memory behind a port. -/
def lineOnPort (port line : Nat) : Bool := portOfKey (1024 * line) == some port

/-- HOST_LINK_DOWN: the link leaves ACTIVE, and the dirty lines of its memory are quarantined with their writers.
The tags of the reads that it had under way, and those of the writes that had come over it, are free (R327). -/
def execHostLinkDown (port : Nat) (s : State) : Out :=
  .next (
    match s.port? port with
    | none => s
    | some p =>
      if !p.up then s
      else if p.peer then s.onPort port fun p => { p with up := false, reads := [] }
      else
        let q := (s.l2.filter fun l => lineOnPort port l.line && l.dirty != 0).map fun l => (l.line, l.writers)
        s.onPort port fun p =>
          { p with
            up := false, failedAt := some s.now, lost := false, quarantine := q, reads := []
            writes := p.writes.map fun w => { w with tags := 0 } })

/-- Write the dirty lines of a port's memory back. -/
def State.writeBackPort (s : State) (port : Nat) : State :=
  { s with l2 := s.l2.map fun l => if lineOnPort port l.line then l.clean else l }

/-- What waited for a host's link goes on (R330). -/
def State.resumeHost (s : State) : State := (s.drainDevWrites.drainPorts).resumeQueues

/-- HOST_LINK_RETURN: before 2 s have passed the quarantined write-backs proceed; after the discard the port comes up, and what
was issued before that faults. -/
def execHostLinkReturn (port : Nat) (s : State) : Out :=
  .next (
    match s.port? port with
    | none => s
    | some p =>
      match p.failedAt with
      | none => s
      | some t =>
        let up (s : State) : State :=
          (s.onPort port fun p =>
            { p with
                up := true, failedAt := none, lost := false, quarantine := []
                lostBelow := if p.lost then s.nextOp else p.lostBelow }).resumeHost
        if p.lost then up s
        else if s.now < t + quarantineUnits then up (s.writeBackPort port)
        else s)

/-- The device lines that a host held modified are lost, and it holds no line any more; a write that waited for it waits
no longer. -/
def State.loseHeld (s : State) (p : Port) : State :=
  let s1 := (p.held.filter (·.2)).foldl (fun s h => s.markLost h.1 Cause.hostLineLost) s
  let s2 : State :=
    { (s1.onPort p.n fun p => { p with held := [], heldKeys := [] }) with
        ownReqs := s1.ownReqs.map fun (r : OwnReq) =>
          { r with toInv := r.toInv.filter (· != 100 + p.n), toAck := r.toAck.filter (· != 100 + p.n) } }
  (s2.ownReqs.map (·.line)).foldl (fun s l => s.grantOwn l) s2

/-- The context that last wrote a quarantined line, where one did. -/
def lastWriter (q : Nat × List (Nat × Nat)) : Option (Nat × Nat) := q.2.head?.filter fun w => decide (w.1 < 127)

/-- The device's copies of a port's memory are discarded: memory stays as the host's has it. -/
def State.discardPort (s : State) (port : Nat) : State :=
  let s1 := (s.l2.filter fun l => lineOnPort port l.line).foldl (fun s l => (s.forgetSizes l.vent l.line).restoreOld l) s
  { s1 with
      l2 := s1.l2.filter fun l => !lineOnPort port l.line
      narrow := s1.narrow.filter fun m => !lineOnPort port m.line
      monitors := s1.monitors.map fun (m : Monitor) => if lineOnPort port (m.key / 1024) then { m with held := false } else m }

/-- HOST_QUARANTINE_EXPIRY: 2 s without the link. The quarantined lines are discarded, and every context that last wrote
one faults. -/
def execHostQuarantineExpiry (port : Nat) (s : State) : Out :=
  .next (
    match s.port? port with
    | none => s
    | some p =>
      match p.failedAt with
      | none => s
      | some t =>
        if p.lost ∨ s.now < t + quarantineUnits then s
        else
          let s1 := ((s.discardPort port).onPort port fun p => { p with lost := true, quarantine := [] }).loseHeld p
          ((p.quarantine.filterMap lastWriter).dedup.foldl (fun s w => s.contextFault w.1 w.2 Cause.hostLineLost) s1).resumeHost)

/-! ## Snoops of host memory (R187, R325) -/

/-- The dies that a snoop of a line reaches: Caldera and the Vents that have a copy (R24, R25). -/
def State.copyDies (s : State) (line : Nat) : List DieId :=
  .caldera :: (s.l2.filter fun l => l.line == line).map fun l => .vent l.vent

/-- CXL_CACHE_SNOOP: a host asks for a line of its own memory. The device's dirty sectors are written back, and for an
invalidation its copies go; a marked line is promoted first. -/
def execCxlCacheSnoop (port line : Nat) (k : SnoopKind) (s : State) : Out :=
  .next (
    match s.port? port with
    | none => s
    | some p =>
      let l := hostKey port 0 / 1024 + line
      if p.peer ∨ !p.up ∨ Config.hostKeyBase ≤ 1024 * line then s
      else
        match k, s.narrow? l with
        | .invalidate, some m => if m.waitOps.isSome then s else s.promote m
        | .invalidate, none =>
          s.cross (s.copyDies l) fun s =>
            let s1 := (s.l2.filter fun x => x.line == l).foldl (fun s x => s.dropHolder x.vent l) s
            { s1 with monitors := s1.monitors.map fun (m : Monitor) => if m.key / 1024 = l then { m with held := false } else m }
        | .share, _ =>
          s.cross (s.copyDies l) fun s => { s with l2 := s.l2.map fun (x : L2Line) => if x.line = l then { x.clean with owned := false } else x })

/-! ## Port training (R29, R32) -/

/-- A fabric is configured: no Sync of its master has come yet, so that no fabric word bounds anything (R31, R32). -/
def TimeReg.joinFabric (t : TimeReg) : TimeReg := { t with fabState := 0, fabBound := maxBound }

/-- PORT_TRAINING: a port that is down and has not failed comes up under its role; a peer port may be the one toward the
fabric master. -/
def execPortTraining (port : Nat) (up master : Bool) (s : State) : Out :=
  .next (
    match s.port? port with
    | none => s
    | some p =>
      if !up ∨ p.up ∨ p.failedAt.isSome then s
      else
        let s1 := s.onPort port fun p => { p with up := true }
        if p.peer ∧ master then { s1 with fabric := some port, times := s1.times.map TimeReg.joinFabric } else s1)

end Sys2Proof.Machine
end

