-- ==== Sys2Proof/Machine/IntA.lean ====
section
/-! DEFINITION. Class 0, INT-A: 32-bit integer arithmetic (R126, R129). -/

namespace Sys2Proof.Machine

/-- clamp(v, lo, hi) of R129. -/
def clampInt (v lo hi : Int) : Int := max lo (min hi v)

/-- IADD: x + y. -/
def execIadd (p : Pred) (d a : RegNum) (b : OpB) (s : State) : Out := alu2 p d a b (fun x y => x + y) s

/-- ISUB: x - y. -/
def execIsub (p : Pred) (d a : RegNum) (b : OpB) (s : State) : Out := alu2 p d a b (fun x y => x - y) s

/-- IADD.sat.i32. -/
def execIaddSatI32 (p : Pred) (d a : RegNum) (b : OpB) (s : State) : Out :=
  alu2 p d a b (fun x y => BitVec.ofInt 32 (clampInt (x.toInt + y.toInt) (-2 ^ 31) (2 ^ 31 - 1))) s

/-- ISUB.sat.i32. -/
def execIsubSatI32 (p : Pred) (d a : RegNum) (b : OpB) (s : State) : Out :=
  alu2 p d a b (fun x y => BitVec.ofInt 32 (clampInt (x.toInt - y.toInt) (-2 ^ 31) (2 ^ 31 - 1))) s

/-- IMUL: x × y. -/
def execImul (p : Pred) (d a : RegNum) (b : OpB) (s : State) : Out := alu2 p d a b (fun x y => x * y) s

/-- IMULH.i32: the high half of the signed product. -/
def execImulhI32 (p : Pred) (d a : RegNum) (b : OpB) (s : State) : Out :=
  alu2 p d a b (fun x y => BitVec.ofInt 32 (x.toInt * y.toInt / 2 ^ 32)) s

/-- IMULH.n32: the high half of the unsigned product. -/
def execImulhN32 (p : Pred) (d a : RegNum) (b : OpB) (s : State) : Out :=
  alu2 p d a b (fun x y => BitVec.ofNat 32 (x.toNat * y.toNat / 2 ^ 32)) s

/-- IMAD: x × y + z. -/
def execImad (p : Pred) (d a : RegNum) (b : OpB) (s : State) : Out := alu3 p d a b (fun x y z => x * y + z) s

/-- IMIN.i32. -/
def execIminI32 (p : Pred) (d a : RegNum) (b : OpB) (s : State) : Out :=
  alu2 p d a b (fun x y => if x.toInt ≤ y.toInt then x else y) s

/-- IMIN.n32. -/
def execIminN32 (p : Pred) (d a : RegNum) (b : OpB) (s : State) : Out :=
  alu2 p d a b (fun x y => if x.toNat ≤ y.toNat then x else y) s

/-- IMAX.i32. -/
def execImaxI32 (p : Pred) (d a : RegNum) (b : OpB) (s : State) : Out :=
  alu2 p d a b (fun x y => if x.toInt ≤ y.toInt then y else x) s

/-- IMAX.n32. -/
def execImaxN32 (p : Pred) (d a : RegNum) (b : OpB) (s : State) : Out :=
  alu2 p d a b (fun x y => if x.toNat ≤ y.toNat then y else x) s

/-- IABS: |sx|; the most negative value gives itself. -/
def execIabs (p : Pred) (d a : RegNum) (s : State) : Out :=
  alu1 p d a (fun x => BitVec.ofNat 32 x.toInt.natAbs) s

/-- INEG: -sx. -/
def execIneg (p : Pred) (d a : RegNum) (s : State) : Out := alu1 p d a (fun x => -x) s

/-- IADD.sat.n32. -/
def execIaddSatN32 (p : Pred) (d a : RegNum) (b : OpB) (s : State) : Out :=
  alu2 p d a b (fun x y => BitVec.ofNat 32 (min (x.toNat + y.toNat) (2 ^ 32 - 1))) s

/-- ISUB.sat.n32. -/
def execIsubSatN32 (p : Pred) (d a : RegNum) (b : OpB) (s : State) : Out :=
  alu2 p d a b (fun x y => BitVec.ofNat 32 (x.toNat - y.toNat)) s

end Sys2Proof.Machine
end

