-- ==== Sys2Proof/Machine/IntB.lean ====
section
/-! DEFINITION. Class 1, INT-B: shifts, bit counts, bit fields and 64-bit integers (R130 to R132). -/

namespace Sys2Proof.Machine

/-- x × 2^n, 0 from the width up (R130, R132). -/
def shlBy {w : Nat} (x : BitVec w) (n : Nat) : BitVec w := if w ≤ n then 0 else x <<< n

/-- floor(x / 2^n), 0 from the width up. -/
def shrBy {w : Nat} (x : BitVec w) (n : Nat) : BitVec w := if w ≤ n then 0 else x >>> n

/-- floor(sx / 2^n), the sign from the width up. -/
def sarBy {w : Nat} (x : BitVec w) (n : Nat) : BitVec w :=
  if w ≤ n then (if x.toInt < 0 then BitVec.allOnes w else 0) else x.sshiftRight n

/-- The number of 1 bits of a 32-bit word. -/
def popCount (x : W32) : W32 := BitVec.ofNat 32 (bitCount 32 x.toNat)

/-- The number of leading 0 bits, 32 for 0 (R130). -/
def leadingZeros (x : W32) : W32 :=
  BitVec.ofNat 32 (((List.range 32).find? fun k => x.getLsbD (31 - k)).getD 32)

/-- Bit k of the result is bit 31 - k of x (R130). -/
def bitReverse (x : W32) : W32 := BitVec.ofNat 32 (maskN 32 fun k => x.getLsbD (31 - k))

/-- Position and length of a bit field, clamped into the word (R131). -/
def fieldOf (y : W32) : Nat × Nat :=
  let pos := y.toNat % 256
  let len := y.toNat / 256 % 256
  if 32 ≤ pos then (pos, 0) else (pos, min len (32 - pos))

/-- BFE.n32 (R131). -/
def bfeUnsigned (x y : W32) : W32 := BitVec.ofNat 32 (x.toNat / 2 ^ (fieldOf y).1 % 2 ^ (fieldOf y).2)

/-- BFE.i32 (R131). -/
def bfeSigned (x y : W32) : W32 :=
  let len := (fieldOf y).2
  let f := x.toNat / 2 ^ (fieldOf y).1 % 2 ^ len
  if len = 0 then 0
  else if 2 ^ (len - 1) ≤ f then BitVec.ofInt 32 ((f : Int) - 2 ^ len) else BitVec.ofNat 32 f

/-- BFI (R131): z with the field replaced by the low bits of x. -/
def bfiWord (x y z : W32) : W32 :=
  let pos := (fieldOf y).1
  let len := (fieldOf y).2
  BitVec.ofNat 32 (z.toNat - z.toNat / 2 ^ pos % 2 ^ len * 2 ^ pos + x.toNat % 2 ^ len * 2 ^ pos)

/-- SHL.b32. -/
def execShlB32 (p : Pred) (d a : RegNum) (b : OpB) (s : State) : Out :=
  alu2 p d a b (fun x y => shlBy x y.toNat) s

/-- SHR.n32. -/
def execShrN32 (p : Pred) (d a : RegNum) (b : OpB) (s : State) : Out :=
  alu2 p d a b (fun x y => shrBy x y.toNat) s

/-- SHR.i32. -/
def execShrI32 (p : Pred) (d a : RegNum) (b : OpB) (s : State) : Out :=
  alu2 p d a b (fun x y => sarBy x y.toNat) s

/-- ROL.b32: rotated left by n mod 32. -/
def execRolB32 (p : Pred) (d a : RegNum) (b : OpB) (s : State) : Out :=
  alu2 p d a b (fun x y => x.rotateLeft (y.toNat % 32)) s

/-- POPC. -/
def execPopc (p : Pred) (d a : RegNum) (s : State) : Out := alu1 p d a popCount s

/-- CLZ. -/
def execClz (p : Pred) (d a : RegNum) (s : State) : Out := alu1 p d a leadingZeros s

/-- BREV. -/
def execBrev (p : Pred) (d a : RegNum) (s : State) : Out := alu1 p d a bitReverse s

/-- BFE.n32. -/
def execBfeN32 (p : Pred) (d a : RegNum) (b : OpB) (s : State) : Out := alu2 p d a b bfeUnsigned s

/-- BFE.i32. -/
def execBfeI32 (p : Pred) (d a : RegNum) (b : OpB) (s : State) : Out := alu2 p d a b bfeSigned s

/-- BFI. -/
def execBfi (p : Pred) (d a : RegNum) (b : OpB) (s : State) : Out := alu3 p d a b bfiWord s

/-- IADD.i64. -/
def execIaddI64 (p : Pred) (d a : RegNum) (b : OpB) (s : State) : Out := alu64 p d a b (fun x y => x + y) s

/-- ISUB.i64. -/
def execIsubI64 (p : Pred) (d a : RegNum) (b : OpB) (s : State) : Out := alu64 p d a b (fun x y => x - y) s

/-- IMUL.i64. -/
def execImulI64 (p : Pred) (d a : RegNum) (b : OpB) (s : State) : Out := alu64 p d a b (fun x y => x * y) s

/-- SHL.b64. -/
def execShlB64 (p : Pred) (d a : RegNum) (b : OpB) (s : State) : Out := aluShift64 p d a b shlBy s

/-- SHR.n64. -/
def execShrN64 (p : Pred) (d a : RegNum) (b : OpB) (s : State) : Out := aluShift64 p d a b shrBy s

/-- SHR.i64. -/
def execShrI64 (p : Pred) (d a : RegNum) (b : OpB) (s : State) : Out := aluShift64 p d a b sarBy s

end Sys2Proof.Machine
end

