-- ==== Sys2Proof/Machine/Logic.lean ====
section
/-! DEFINITION. Classes 2 and 3: logic, comparison, selection and LDI (R48, R133 to R135). -/

namespace Sys2Proof.Machine

/-- IAND. -/
def execIand (p : Pred) (d a : RegNum) (b : OpB) (s : State) : Out := alu2 p d a b (fun x y => x &&& y) s

/-- IOR. -/
def execIor (p : Pred) (d a : RegNum) (b : OpB) (s : State) : Out := alu2 p d a b (fun x y => x ||| y) s

/-- IXOR. -/
def execIxor (p : Pred) (d a : RegNum) (b : OpB) (s : State) : Out := alu2 p d a b (fun x y => x ^^^ y) s

/-- IANDN: x and not y. -/
def execIandn (p : Pred) (d a : RegNum) (b : OpB) (s : State) : Out := alu2 p d a b (fun x y => x &&& ~~~y) s

/-- CMP.cc.i32. -/
def execCmpI32 (p : Pred) (cc : Cond) (pd : BitVec 3) (a : RegNum) (b : OpB) (s : State) : Out :=
  aluCmp p pd a b (condSigned cc) s

/-- CMP.cc.n32. -/
def execCmpN32 (p : Pred) (cc : Cond) (pd : BitVec 3) (a : RegNum) (b : OpB) (s : State) : Out :=
  aluCmp p pd a b (condUnsigned cc) s

/-- CMP.cc.i64. -/
def execCmpI64 (p : Pred) (cc : Cond) (pd : BitVec 3) (a : RegNum) (b : OpB) (s : State) : Out :=
  aluCmp64 p pd a b (condSigned cc) s

/-- CMP.cc.n64. -/
def execCmpN64 (p : Pred) (cc : Cond) (pd : BitVec 3) (a : RegNum) (b : OpB) (s : State) : Out :=
  aluCmp64 p pd a b (condUnsigned cc) s

/-- SEL.pk: x if p[k], else y. -/
def execSel (p : Pred) (k : BitVec 3) (d a : RegNum) (b : OpB) (s : State) : Out :=
  laneWord p (opBLen b) ([d.toNat, a.toNat] ++ opBRegs 1 b) (a.toNat :: opBRegs 1 b)
    (fun g t => t.put d.toNat (if t.pred k then t.get a.toNat else opBWord g t b)) s

/-- MOV: y. -/
def execMov (p : Pred) (d : RegNum) (b : OpB) (s : State) : Out :=
  laneWord p (opBLen b) (d.toNat :: opBRegs 1 b) (opBRegs 1 b) (fun g t => t.put d.toNat (opBWord g t b)) s

/-- LDI (R48): the sign-extended constant, into v[d] of each active position, or once into s[d]. -/
def execLdi (p : Pred) (u : Bool) (d : RegNum) (imm : BitVec 16) (s : State) : Out :=
  if u then issueWord p 1 [] [] s fun g _ s => s.advance (g.sPut d.toNat (imm.signExtend 32)) 1
  else laneWord p 1 [d.toNat] [] (fun _ t => t.put d.toNat (imm.signExtend 32)) s

end Sys2Proof.Machine
end

