-- ==== Sys2Proof/Machine/Matrix.lean ====
section
/-! DEFINITION. Classes 19 to 21: the matrix engine, tiles, the epilogue and butterfly stages (R72 to R78, R234 to
R269). -/

namespace Sys2Proof.Machine

/-! ## Tiles (R234, R235) -/

/-- Word `e` of a tile. -/
def Team.tileGet (t : Team) (n e : Nat) : W32 := sget 0 t.tiles (4096 * n + e)

/-- Replace every word of a tile. -/
def setTile (m : Words) (n : Nat) (f : Nat → W32) : Words :=
  m.filter (fun e => decide (e.1 < 4096 * n)) ++
    ((List.range 4096).filterMap fun e => if f e = 0 then none else some (4096 * n + e, f e)) ++
    m.filter fun e => decide (4096 * (n + 1) ≤ e.1)

/-- The tile count of a team. -/
def State.tileCount (s : State) (team : Nat) : Nat := ((s.teamRec team).map (·.tiles)).getD 0

/-- Whether a tile is poisoned (R256). -/
def State.poisoned (s : State) (team n : Nat) : Bool := ((s.team? team).map fun t => t.poison.getLsbD n).getD true

/-- Set or clear a tile's poison mark. -/
def Team.setPoison (t : Team) (n : Nat) (x : Bool) : Team :=
  { t with poison := if x then t.poison ||| (1 <<< n) else t.poison &&& ~~~(1 <<< n : BitVec 16) }

/-! ## Issue (R236) -/

/-- A matrix command's word: illegal on a service core (R319), held while TL is full. -/
def matrixWord (p : Pred) (s : State) (body : Group → Mask → State → State) : Out :=
  issueWord p 1 [] [] s fun g A s =>
    if isService g.core then s.trap g A Cause.illegalInstruction A 0
    else if g.held .tl then s
    else body g A s

/-- Issue a matrix command of the group `g`. -/
def State.issueMatrix (s : State) (g : Group) (A : Mask) (m : MatrixCmd) : State :=
  s.issueOp g A .matrix .tl (.matrix m) [] (g.commandTeam A) 1

/-! ## MMA (R239 to R247) -/

/-- Whether a format word is valid (R241). -/
def formatOk (f : W32) : Bool :=
  let at_ := f.toNat % 16
  let bt := f.toNat / 16 % 16
  decide (f.toNat / 256 ≤ 1) &&
    (at_ == 0 && bt == 0 || (at_ == 1 || at_ == 2) && (bt == 1 || bt == 2) || at_ == 3 && bt == 3)

/-- The A register count of a type (R241). -/
def regsOfType (at_ : Nat) : Nat := if at_ = 3 then 17 else 16

/-- K of a type (R241). -/
def kOfType (at_ : Nat) : Nat := if at_ = 0 then 32 else if at_ = 3 then 128 else 64

/-- The B panel size of a type (R241). -/
def panelSize (at_ : Nat) : Nat := if at_ = 3 then 4352 else 4096

/-- The A rows that the group's registers supply (R245). -/
def Group.rowsFrom (g : Group) (A : Mask) (base n : Nat) : List (List W32) :=
  (List.range 64).map fun i =>
    match g.thread? i with
    | none => List.replicate n 0
    | some t => if A.getLsbD i then (List.range n).map fun m => t.get (base + m) else List.replicate n 0

/-- The lanes of `A` whose register `r` differs from `f`. -/
def Group.differing (g : Group) (A : Mask) (r : Nat) (f : W32) : Mask :=
  maskOf fun i => A.getLsbD i && ((g.thread? i).map fun t => t.get r != f).getD false

/-- MMA, once its block is read. -/
def mmaBlock (reuse : Bool) (ps : RegNum) (g : Group) (A : Mask) (l : List Byte) (s : State) : State :=
  let dt := fld l 0 0
  let ct := fld l 1 1
  let abase := fld l 2 2
  let freg := fld l 3 3
  let boff := fld l 4 7
  let f := (((lowLane A).bind g.thread?).map fun t => t.get freg).getD 0
  let at_ := f.toNat % 16
  let n := regsOfType at_
  let bad (c : Nat) : State := s.trap g A c A (g.blockAddr ps)
  if 16 ≤ dt ∨ 16 ≤ ct ∨ 64 ≤ abase ∨ 64 ≤ freg ∨ !zeros l 8 31 then bad Cause.illegalInstruction
  else if g.cap ≤ freg then bad Cause.illegalState
  else if g.badRead A [freg] then s.terminateOf g A Cause.uncorrectable
  else if g.differing A freg f ≠ 0 then
    s.trap g A Cause.formatDivergence (g.differing A freg f) (g.blockAddr ps)
  else if !formatOk f then bad Cause.illegalState
  else if g.cap < abase + n then bad Cause.illegalState
  else if (g.latch.map fun x => x.n != n).getD false then bad Cause.illegalState
  else if boff % 256 ≠ 0 then bad Cause.misaligned
  else
    let team := g.commandTeam A
    let wsize := ((s.teamRec team).map (·.wsize)).getD 0
    if s.tileCount team ≤ dt ∨ s.tileCount team ≤ ct ∨ wsize < boff + panelSize at_ then bad Cause.permission
    else if g.latch.isNone ∧ g.badRead A ((List.range n).map fun m => abase + m) then
      s.terminateOf g A Cause.uncorrectable
    else
      let rows := (g.latch.map (·.rows)).getD (g.rowsFrom A abase n)
      let g' : Group := { g with latch := if reuse then some ⟨rows, n⟩ else none }
      s.issueMatrix g' A (.mma dt ct (f.toNat / 256 % 4 == 1) at_ (f.toNat / 16 % 16) boff rows)

/-- MMA and MMA.reuse. -/
def execMma (p : Pred) (reuse : Bool) (ps : RegNum) (s : State) : Out :=
  matrixWord p s fun g A s =>
    if g.width ≠ 64 ∨ !g.converged then s.trap g A Cause.illegalState g.entryMask 0
    else withBlock g A ps 32 s fun l => mmaBlock reuse ps g A l s

/-- Byte `k` of a list. -/
def byteAt (l : List Byte) (k : Nat) : Nat := (l.getD k 0).toNat

/-- An element of a type at a byte place: element `k` of a row or column whose codes lie at `code` and whose scale
byte is `sb` (R60, R62, R63). -/
def mmaElem (ty k : Nat) (code : Nat) (sb : Nat) : Ex :=
  if ty = 0 then decodeFmt bf16 code
  else if ty = 1 then decodeFmt e4m3 code
  else if ty = 2 then decodeFmt e5m2 code
  else decodeQ4 (if k % 2 = 0 then code % 16 else code / 16 % 16) sb

/-- a(i, k) of a row's bytes (R242); `sc` is register ABASE + 16. -/
def aElem (ty : Nat) (r : List Byte) (sc : W32) (k : Nat) : Ex :=
  if ty = 0 then mmaElem 0 k (byteAt r (2 * k) + 256 * byteAt r (2 * k + 1)) 0
  else if ty = 3 then mmaElem 3 k (byteAt r (k / 2)) (element 8 sc (k / 32))
  else mmaElem ty k (byteAt r k) 0

/-- b(k, j) of a panel's bytes (R243). -/
def bElem (ty : Nat) (w : List Byte) (k j : Nat) : Ex :=
  if ty = 0 then mmaElem 0 k (byteAt w (2 * (64 * k + j)) + 256 * byteAt w (2 * (64 * k + j) + 1)) 0
  else if ty = 3 then mmaElem 3 k (byteAt w (64 * (k / 2) + j)) (byteAt w (4096 + 64 * (k / 32) + j))
  else mmaElem ty k (byteAt w (64 * k + j)) 0

/-- The bytes of the 16 data registers of a row. -/
def rowBytesOf (row : List W32) : List Byte := (row.take 16).flatMap bytesOfWord

/-- D[i][j] of R245. -/
def mmaCell (zero : Bool) (at_ bt : Nat) (rows : List (List W32)) (w : List Byte) (c : Nat → W32) (e : Nat) : W32 :=
  let row := rows.getD (e / 64) []
  let r := rowBytesOf row
  chunkSum (if zero then 0 else c e)
    ((List.range (kOfType at_)).map fun k => Ex.mul (aElem at_ r (row.getD 16 0) k) (bElem bt w k (e % 64)))

/-! ## TZERO (R248) -/

/-- TZERO. -/
def execTzero (p : Pred) (t : BitVec 4) (s : State) : Out :=
  matrixWord p s fun g A s =>
    if s.tileCount (g.commandTeam A) ≤ t.toNat then s.trap g A Cause.permission A 0
    else s.issueMatrix g A (.tzero t.toNat)

/-! ## TLD and TST (R249 to R252) -/

/-- A radix code (R249). -/
def radixOf (c : Nat) : Nat := [0, 2, 3, 4, 5, 8].getD c 0

/-- The 12 nibbles from byte `lo`. -/
def nibbles (l : List Byte) (lo : Nat) : List Nat := (List.range 12).map fun i => fld l lo (lo + 5) / 16 ^ i % 16

/-- The radix sequence of nibbles (R250): none where a code is reserved, none is given, or one follows the end. -/
def radixSeq (ns : List Nat) : Option (List Nat) :=
  let q := ns.takeWhile (· ≠ 0)
  if q.isEmpty ∨ q.any (fun c => decide (5 < c)) ∨ (ns.drop q.length).any (· ≠ 0) then none
  else some (q.map radixOf)

/-- N of a sequence (R258). -/
def radixN (q : List Nat) : Nat := q.foldl (· * ·) 1

/-- Whether a batch of a sequence fits a tile (R250, R258). -/
def batchOk (q : Option (List Nat)) (b : Nat) : Bool :=
  match q with
  | none => false
  | some q => decide (1 ≤ b ∧ b * radixN q ≤ 2048)

/-- The command of TLD's or TST's block. -/
def moveOf (store : Bool) (l : List Byte) : TileMove :=
  { store := store
    addr := BitVec.ofNat 64 (fld l 0 7)
    stride := fld l 8 11
    tile := fld l 12 12
    rows := fld l 13 13
    bf16 := fld l 14 14 % 2 == 1
    dr := fld l 14 14 / 2 % 2 == 1
    batch := fld l 16 17
    radix := (radixSeq (nibbles l 18)).getD [] }

/-- The checks of R250. -/
def moveChecks (s : State) (team : Nat) (store : Bool) (l : List Byte) : List (Bool × Nat) :=
  let m := moveOf store l
  [ (decide (m.tile < 16) && fld l 14 14 / 4 == 0 && zeros l 15 15 && zeros l 24 31, Cause.illegalInstruction),
    (!(store && m.bf16) &&
      (if m.dr then m.rows == 0 && batchOk (radixSeq (nibbles l 18)) m.batch
       else decide (1 ≤ m.rows ∧ m.rows ≤ 64) && m.batch == 0 && zeros l 18 23), Cause.illegalState),
    (m.addr.toNat % 16 == 0 && m.stride % 16 == 0, Cause.misaligned),
    (decide (m.tile < s.tileCount team), Cause.permission) ]

/-- A command with a block of `n` bytes, of which `parts` are read, and checks in order. FADDR of a trap that a check of the
block's fields raises is the block's own address: DESIGN CHOICE (log 111). -/
def partsCommand (p : Pred) (ps : RegNum) (n : Nat) (parts : List Byte → List (Nat × Nat))
    (checks : State → Nat → List Byte → List (Bool × Nat)) (cmd : List Byte → MatrixCmd) (s : State) : Out :=
  matrixWord p s fun g A s =>
    withParts g A ps n parts s fun l =>
      match firstFail (checks s (g.commandTeam A) l) with
      | some c => s.trap g A c A (g.blockAddr ps)
      | none => s.issueMatrix g A (cmd l)

/-- A command with a block of `n` bytes and checks in order. -/
def blockCommand (p : Pred) (ps : RegNum) (n : Nat) (checks : State → Nat → List Byte → List (Bool × Nat))
    (cmd : List Byte → MatrixCmd) (s : State) : Out :=
  partsCommand p ps n (fun _ => [(0, n)]) checks cmd s

/-- TLD. -/
def execTld (p : Pred) (ps : RegNum) (s : State) : Out :=
  blockCommand p ps 32 (fun s t l => moveChecks s t false l) (fun l => .move (moveOf false l)) s

/-- TST. -/
def execTst (p : Pred) (ps : RegNum) (s : State) : Out :=
  blockCommand p ps 32 (fun s t l => moveChecks s t true l) (fun l => .move (moveOf true l)) s

/-- The memory elements that a move touches, in the order of R251, each with its word of the tile. -/
def TileMove.elems (m : TileMove) : List (Nat × Nat) :=
  let es := if m.bf16 then 2 else 4
  if m.dr then
    let n := radixN m.radix
    (List.range (m.batch * n)).flatMap fun k =>
      let a := m.addr.toNat + k / n * m.stride + 2 * es * digitRev (k % n) m.radix
      [(a % 2 ^ 64, 2 * k), ((a + es) % 2 ^ 64, 2 * k + 1)]
  else
    (List.range (64 * m.rows)).map fun k => ((m.addr.toNat + k / 64 * m.stride + k % 64 * es) % 2 ^ 64, k)

/-- Whether a move writes every word of its tile (R256). -/
def TileMove.whole (m : TileMove) : Bool := if m.dr then m.batch * radixN m.radix == 2048 else m.rows == 64

/-! ## EPI (R253, R254) -/

/-- The rounding mode of a code (R253). -/
def modeOf (c : Nat) : RMode :=
  if c = 0 then .rn else if c = 1 then .rz else if c = 2 then .rd else if c = 3 then .ru else .rs

/-- An array of 64 FP32 words of the block. -/
def blockWords (l : List Byte) (lo : Nat) : List W32 :=
  (List.range 64).map fun i => BitVec.ofNat 32 (fld l (lo + 4 * i) (lo + 4 * i + 3))

/-- The command of EPI's block. -/
def epiOf (l : List Byte) : Epi :=
  let ctl := fld l 15 15
  { daddr := BitVec.ofNat 64 (fld l 0 7)
    dstride := fld l 8 11
    tile := fld l 12 12
    rows := fld l 13 13
    out := fld l 14 14
    mode := modeOf (ctl % 8)
    act := ctl / 8 % 4
    lo := BitVec.ofNat 32 (fld l 16 19)
    hi := BitVec.ofNat 32 (fld l 20 23)
    seed := BitVec.ofNat 32 (fld l 24 27)
    ctr := BitVec.ofNat 32 (fld l 28 31)
    rowscale := if ctl.testBit 5 then some (blockWords l 64) else none
    colscale := if ctl.testBit 6 then some (blockWords l 320) else none
    bias := if ctl.testBit 7 then some (blockWords l 576) else none }

/-- The checks of EPI. -/
def epiChecks (s : State) (team : Nat) (l : List Byte) : List (Bool × Nat) :=
  let e := epiOf l
  let ctl := fld l 15 15
  [ (decide (e.tile < 16) && decide (e.out < 8) && zeros l 32 63, Cause.illegalInstruction),
    (decide (1 ≤ e.rows ∧ e.rows ≤ 64 ∧ e.out ≤ 3 ∧ ctl % 8 ≤ 4 ∧ e.act ≤ 2), Cause.illegalState),
    (e.daddr.toNat % 16 == 0 && e.dstride % 16 == 0, Cause.misaligned),
    (decide (e.tile < s.tileCount team), Cause.permission) ]

/-- The parts of EPI's block that are read (R253): neither the arrays that CTL marks absent, nor the bounds without clamp. -/
def epiParts (l : List Byte) : List (Nat × Nat) :=
  let ctl := fld l 15 15
  [(0, 16), (24, 64)] ++ (if ctl / 8 % 4 = 2 then [(16, 24)] else []) ++
    (if ctl.testBit 5 then [(64, 320)] else []) ++ (if ctl.testBit 6 then [(320, 576)] else []) ++
    if ctl.testBit 7 then [(576, 832)] else []

/-- EPI. -/
def execEpi (p : Pred) (ps : RegNum) (s : State) : Out :=
  partsCommand p ps 832 epiParts epiChecks (fun l => .epi (epiOf l)) s

/-- One FP32 operation of the epilogue, where it is present (R75). -/
def epiStep (x : W32) (y : Option W32) (f : Ex → Ex → Ex) : W32 :=
  match y with
  | none => x
  | some y => toF32 .rn (f (exF32 x) (exF32 y))

/-- The activation (R76). -/
def epiAct (e : Epi) (x : W32) : W32 :=
  if e.act = 0 then x
  else if e.act = 1 then
    match exF32 x with
    | .nan => nan32
    | v => if v.isNeg then 0 else x
  else (BitVec.ofNat 32 (fmtMinMax f32 true e.lo.toNat (fmtMinMax f32 false e.hi.toNat x.toNat)))

/-- The output format and its bytes (R253, R254). -/
def epiFmt (out : Nat) : Fmt := if out = 0 then f32 else if out = 1 then bf16 else if out = 2 then e4m3 else e5m2

/-- The output element of word `k` of the tile (R254). -/
def epiCell (e : Epi) (c : W32) (k : Nat) : Nat :=
  let at_ (l : Option (List W32)) (i : Nat) := l.map fun l => l.getD i 0
  let x1 := epiStep c (at_ e.rowscale (k / 64)) Ex.mul
  let x2 := epiStep x1 (at_ e.colscale (k % 64)) Ex.mul
  let x3 := epiStep x2 (at_ e.bias (k % 64)) (Ex.add .rn)
  rnd (epiFmt e.out) e.mode (mix16 e.seed (BitVec.ofNat 64 k) e.ctr) (exF32 (epiAct e x3))

/-! ## BFLY (R257 to R269) -/

/-- The command of BFLY's block. -/
def bflyOf (l : List Byte) : Bfly :=
  let ctl := fld l 4 4
  { dt := fld l 0 0
    srct := fld l 1 1
    stage := fld l 2 2
    shift := fld l 3 3
    inverse := ctl.testBit 0
    bf16 := ctl.testBit 1
    dro := ctl.testBit 2
    batch := fld l 6 7
    radix := (radixSeq (nibbles l 8)).getD [] }

/-- The checks of R266. -/
def bflyChecks (s : State) (team : Nat) (l : List Byte) : List (Bool × Nat) :=
  let b := bflyOf l
  [ (decide (b.dt < 16 ∧ b.srct < 16 ∧ b.shift < 32 ∧ fld l 4 4 < 8) && zeros l 5 5 && zeros l 14 31,
      Cause.illegalInstruction),
    (batchOk (radixSeq (nibbles l 8)) b.batch && decide (radixN b.radix ≤ 2048 ∧ b.stage ≤ b.radix.length),
      Cause.illegalState),
    (decide (b.dt < s.tileCount team ∧ b.srct < s.tileCount team), Cause.permission) ]

/-- BFLY. -/
def execBfly (p : Pred) (ps : RegNum) (s : State) : Out :=
  blockCommand p ps 32 bflyChecks (fun l => .bfly (bflyOf l)) s

/-- The twiddle w(k, L) as an exact complex value (R259). -/
def twiddleEx (inverse : Bool) (k l : Nat) : Ex × Ex :=
  let w := twiddle k l
  (exF32 w.1, if inverse then exF32 w.2 else (exF32 w.2).neg)

def cmul (x y : Ex × Ex) : Ex × Ex :=
  (Ex.add .rn (Ex.mul x.1 y.1) (Ex.mul x.2 y.2).neg, Ex.add .rn (Ex.mul x.1 y.2) (Ex.mul x.2 y.1))

def cadd (x y : Ex × Ex) : Ex × Ex := (Ex.add .rn x.1 y.1, Ex.add .rn x.2 y.2)

def Ex.isFin : Ex → Bool
  | .fin _ _ _ => true
  | _ => false

/-- One result component (R261, R262): an exact zero is +0. -/
def bflyRound (b : Bfly) : Ex → W32
  | .nan => nan32
  | .inf n => BitVec.ofNat 32 (infBits f32 n)
  | .fin n m e =>
    if m = 0 then 0
    else if b.bf16 then BitVec.ofNat 32 (2 ^ 16 * rnd bf16 .rn 0 (.fin n m (e - b.shift)))
    else toF32 .rn (.fin n m (e - b.shift))

/-- Result `n` of stage `b.stage` of a transform with elements `x` (R260, R262). -/
def stageValue (b : Bfly) (x : Nat → Ex × Ex) (n : Nat) : Ex × Ex :=
  if b.stage = 0 then x n
  else
    let r := b.radix.getD (b.stage - 1) 2
    let l0 := radixN (b.radix.take (b.stage - 1))
    let l := l0 * r
    let base := n / l * l
    let j := n % l % l0
    let k := n % l / l0
    let ins := (List.range r).map fun a => x (base + j + l0 * a)
    if ins.all fun z => z.1.isFin && z.2.isFin then
      ((List.range r).zip ins).foldl
        (fun acc e => cadd acc (cmul (cmul (twiddleEx b.inverse (e.1 * k % r) r) (twiddleEx b.inverse (e.1 * j) l)) e.2))
        (.fin false 0 0, .fin false 0 0)
    else (.nan, .nan)

/-- The two words that complex element `p` of the destination takes (R263, R267), the source's words being `src`. -/
def bflyElem (b : Bfly) (src : Nat → W32) (p : Nat) : W32 × W32 :=
  let n := radixN b.radix
  let t := p / n
  let i := if b.dro then digitRev (p % n) b.radix else p % n
  let z := stageValue b (fun k => (exF32 (src (2 * (t * n + k))), exF32 (src (2 * (t * n + k) + 1)))) i
  (bflyRound b z.1, bflyRound b z.2)

/-- The tile after a BFLY. -/
def bflyWord (b : Bfly) (src old : Nat → W32) (e : Nat) : W32 :=
  if b.batch * radixN b.radix ≤ e / 2 then old e
  else if e % 2 = 0 then (bflyElem b src (e / 2)).1 else (bflyElem b src (e / 2)).2

/-! ## MATRIX_COMMAND_COMPLETE (R237, R245, R251, R252, R254 to R256, R267, R269) -/

/-- The command ends with tile `n` holding `f` and the poison mark `x`; none leaves the mark. -/
def State.endTile (s : State) (o : Op) (n : Nat) (f : Nat → W32) (x : Option Bool) : State :=
  (s.onTeam o.team fun t =>
    let u := { t with tiles := setTile t.tiles n f }
    match x with
    | none => u
    | some v => u.setPoison n v).retireOp o

/-- Word `e` of a team's tile. -/
def State.tileWord (s : State) (team n e : Nat) : W32 := ((s.team? team).map fun t => t.tileGet n e).getD 0

/-- The MMA in the engine. -/
def mmaPerform (o : Op) (dt ct : Nat) (zero : Bool) (at_ bt boff : Nat) (rows : List (List W32)) (ok : Bool)
    (s : State) : State :=
  if (!zero && s.poisoned o.team ct) ∨ s.placeBad (.wb o.team boff) (panelSize at_) then
    s.engineDies o Cause.uncorrectable
  else
    let w := s.placeBytes (.wb o.team boff) (panelSize at_)
    s.endTile o dt (mmaCell zero at_ bt rows w (s.tileWord o.team ct)) (some !ok)

/-- The places of a list of elements of `n` bytes each. -/
def State.elemSpan (s : State) (o : Op) (need : Need) (n : Nat) (l : List Nat) : Span :=
  s.spanOf o need (l.map fun a => (a, n))

/-- The first line among places that a Vent may not write yet. -/
def State.unowned (s : State) (o : Op) (l : List (Loc × Nat)) : Option (Nat × Nat) :=
  ((l.filter fun x => !x.1.isWindow).map fun x => (s.ventFor o.core (lineOf x.1.off), lineOf x.1.off)).find? fun e =>
    !s.mayWrite e.1 e.2

/-- Store elements in order, each at its place. -/
def State.storeElems (s : State) (o : Op) : List ((Loc × Nat) × List Byte) → State
  | [] => s
  | (x, bs) :: l =>
    (s.writeAs (s.ventFor o.core (lineOf x.1.off)) (s.whoCtx o) o.engine x.1 bs).storeElems o l

/-- Stores of a command to memory: all translated first, then all performed (R252). -/
def State.engineStore (s : State) (o : Op) (n : Nat) (l : List (Nat × List Byte)) : State :=
  match s.elemSpan o .write n (l.map (·.1)) with
  | .fault c a => s.engineFault o c a
  | .dies c => s.engineDies o c
  | .wait ds => s.wakeLinks ds
  | .ok ps =>
    match s.spanMeets o false ps with
    | .wait => s.joinSpan o ps
    | .dies c => s.engineDies o c
    | .ok =>
      s.cross (s.spanPath o ps) fun s =>
        match s.unowned o ps with
        | some e => (s.leaveRetry o.id 0).askOwn e.1 e.2
        | none => ((s.leaveRetry o.id 0).storeElems o (ps.zip (l.map (·.2)))).retireOp o

/-- TLD in the engine: the tile's new words from the bytes read for them, a BF16 element converted (R60). -/
def tldWord (m : TileMove) (l : List (Nat × List Byte)) (old : Nat → W32) (e : Nat) : W32 :=
  match l.find? fun x => x.1 == e with
  | none => old e
  | some x =>
    let v := natOfBytes x.2
    if m.bf16 then widen bf16 (BitVec.ofNat 32 v) else BitVec.ofNat 32 v

/-- TLD and TST in the engine. A TST whose tile is poisoned ends its team whatever its pages do, as an EPI does: the spec does not
say which of the two comes first, DESIGN CHOICE (log 110). -/
def movePerform (o : Op) (m : TileMove) (s : State) : State :=
  let n := if m.bf16 then 2 else 4
  if m.store then
    if s.poisoned o.team m.tile then s.engineDies o Cause.uncorrectable
    else s.engineStore o n (m.elems.map fun e => (e.1, bytesOfWord (s.tileWord o.team m.tile e.2)))
  else
    match s.elemSpan o .read n (m.elems.map (·.1)) with
    | .fault c a => s.engineFault o c a
    | .dies c => s.engineDies o c
    | .wait ds => s.wakeLinks ds
    | .ok ps =>
      match s.spanMeets o true ps with
      | .wait => s.joinSpan o ps
      | .dies c => s.engineDies o c
      | .ok =>
        s.cross (s.spanPath o ps) fun s =>
          let r := (s.leaveRetry o.id 0).readList o ps
          r.1.endTile o m.tile (tldWord m ((m.elems.map (·.2)).zip r.2) (s.tileWord o.team m.tile))
            (if m.whole then some false else none)

/-- EPI in the engine. -/
def epiPerform (o : Op) (e : Epi) (s : State) : State :=
  if s.poisoned o.team e.tile then s.engineDies o Cause.uncorrectable
  else
    let n := (epiFmt e.out).bits / 8
    s.engineStore o n ((List.range (64 * e.rows)).map fun k =>
      ((e.daddr.toNat + k / 64 * e.dstride + k % 64 * n) % 2 ^ 64,
        bytesOfNat n (epiCell e (s.tileWord o.team e.tile k) k)))

/-- BFLY in the engine. -/
def bflyPerform (o : Op) (b : Bfly) (ok : Bool) (s : State) : State :=
  if s.poisoned o.team b.srct then s.engineDies o Cause.uncorrectable
  else
    s.endTile o b.dt (bflyWord b (s.tileWord o.team b.srct) (s.tileWord o.team b.dt))
      (if !ok then some true
       else if b.batch * radixN b.radix = 2048 ∧ b.dt ≠ b.srct then some false
       else none)

/-- MATRIX_COMMAND_COMPLETE; `residueOk` is the outcome of the array's own check. -/
def execMatrixCommandComplete (op : Nat) (residueOk : Bool) (s : State) : Out :=
  match s.op? op with
  | none => .next s
  | some o =>
    .next (
      match o.kind with
      | .matrix c =>
        if s.behind o then s
        else if s.teamDead o.team then s.retireOp o
        else
          match c with
          | .mma d c z a b f r => mmaPerform o d c z a b f r residueOk s
          | .move m => movePerform o m s
          | .tzero t => s.endTile o t (fun _ => 0) (some false)
          | .epi e => epiPerform o e s
          | .bfly b => bflyPerform o b residueOk s
      | _ => s)

end Sys2Proof.Machine
end

