-- ==== Sys2Proof/Machine/Packed.lean ====
section
/-! DEFINITION. Class 6, PACKED: two BF16 or four FP8 values in one register (R141, R142). -/

namespace Sys2Proof.Machine

/-- Element-wise: element e of the result is `f` of the elements e of x, y and z (R141). -/
def elementwise (w n : Nat) (f : Nat → Nat → Nat → Nat) (x y z : W32) : W32 :=
  BitVec.ofNat 32 (ofElements w ((List.range n).map fun e => f (element w x e) (element w y e) (element w z e)))

/-- A BF16 operation on decoded elements, rounded to nearest even (R141). -/
def bf16Op (f : Ex → Ex → Ex → Ex) : W32 → W32 → W32 → W32 :=
  elementwise 16 2 fun x y z => rnd bf16 .rn 0 (f (decodeFmt bf16 x) (decodeFmt bf16 y) (decodeFmt bf16 z))

/-- A minimum or maximum of elements (R137, R141). -/
def packedMinMax (fmt : Fmt) (isMax : Bool) (x y : W32) : W32 :=
  elementwise fmt.bits (32 / fmt.bits) (fun a b _ => fmtMinMax fmt isMax a b) x y 0

/-- PDOT (R142): one chunk of products added to z. -/
def packedDot (fmt : Fmt) (x y z : W32) : W32 :=
  chunkSum z ((List.range (32 / fmt.bits)).map fun e =>
    Ex.mul (decodeFmt fmt (element fmt.bits x e)) (decodeFmt fmt (element fmt.bits y e)))

/-- PADD.bf16. -/
def execPaddBf16 (p : Pred) (d a : RegNum) (b : OpB) (s : State) : Out :=
  alu2 p d a b (fun x y => bf16Op (fun u v _ => Ex.add .rn u v) x y 0) s

/-- PSUB.bf16. -/
def execPsubBf16 (p : Pred) (d a : RegNum) (b : OpB) (s : State) : Out :=
  alu2 p d a b (fun x y => bf16Op (fun u v _ => Ex.add .rn u v.neg) x y 0) s

/-- PMUL.bf16. -/
def execPmulBf16 (p : Pred) (d a : RegNum) (b : OpB) (s : State) : Out :=
  alu2 p d a b (fun x y => bf16Op (fun u v _ => Ex.mul u v) x y 0) s

/-- PFMA.bf16. -/
def execPfmaBf16 (p : Pred) (d a : RegNum) (b : OpB) (s : State) : Out :=
  alu3 p d a b (bf16Op fun u v z => Ex.add .rn (Ex.mul u v) z) s

/-- PMIN.bf16. -/
def execPminBf16 (p : Pred) (d a : RegNum) (b : OpB) (s : State) : Out :=
  alu2 p d a b (packedMinMax bf16 false) s

/-- PMAX.bf16. -/
def execPmaxBf16 (p : Pred) (d a : RegNum) (b : OpB) (s : State) : Out :=
  alu2 p d a b (packedMinMax bf16 true) s

/-- PDOT.bf16. -/
def execPdotBf16 (p : Pred) (d a : RegNum) (b : OpB) (s : State) : Out := alu3 p d a b (packedDot bf16) s

/-- PDOT.e4m3. -/
def execPdotE4m3 (p : Pred) (d a : RegNum) (b : OpB) (s : State) : Out := alu3 p d a b (packedDot e4m3) s

/-- PDOT.e5m2. -/
def execPdotE5m2 (p : Pred) (d a : RegNum) (b : OpB) (s : State) : Out := alu3 p d a b (packedDot e5m2) s

/-- PMIN.e4m3. -/
def execPminE4m3 (p : Pred) (d a : RegNum) (b : OpB) (s : State) : Out :=
  alu2 p d a b (packedMinMax e4m3 false) s

/-- PMAX.e4m3. -/
def execPmaxE4m3 (p : Pred) (d a : RegNum) (b : OpB) (s : State) : Out :=
  alu2 p d a b (packedMinMax e4m3 true) s

/-- PMIN.e5m2. -/
def execPminE5m2 (p : Pred) (d a : RegNum) (b : OpB) (s : State) : Out :=
  alu2 p d a b (packedMinMax e5m2 false) s

/-- PMAX.e5m2. -/
def execPmaxE5m2 (p : Pred) (d a : RegNum) (b : OpB) (s : State) : Out :=
  alu2 p d a b (packedMinMax e5m2 true) s

end Sys2Proof.Machine
end

