-- ==== Sys2Proof/Machine/PredVote.lean ====
section
/-! DEFINITION. Class 8: predicates and votes (R107, R108). -/

namespace Sys2Proof.Machine

/-- PAND. -/
def execPand (p : Pred) (pd pa pb : BitVec 3) (s : State) : Out :=
  predWord p pd (fun t => t.pred pa && t.pred pb) s

/-- POR. -/
def execPor (p : Pred) (pd pa pb : BitVec 3) (s : State) : Out :=
  predWord p pd (fun t => t.pred pa || t.pred pb) s

/-- PXOR. -/
def execPxor (p : Pred) (pd pa pb : BitVec 3) (s : State) : Out :=
  predWord p pd (fun t => t.pred pa != t.pred pb) s

/-- PANDN. -/
def execPandn (p : Pred) (pd pa pb : BitVec 3) (s : State) : Out :=
  predWord p pd (fun t => t.pred pa && !t.pred pb) s

/-- PSAVE: the seven predicates in bits [6:0]. -/
def execPsave (p : Pred) (d : RegNum) (s : State) : Out :=
  laneWord p 1 [d.toNat] [] (fun _ t => t.put d.toNat (t.p.setWidth 32)) s

/-- PREST: p0 to p6 from bits [6:0]. -/
def execPrest (p : Pred) (a : RegNum) (s : State) : Out :=
  laneWord p 1 [a.toNat] [a.toNat] (fun _ t => { t with p := (t.get a.toNat).setWidth 7 }) s

/-- The threads of the active positions, ascending. -/
def Group.activeThreads (g : Group) (A : Mask) : List Thread := (lanesOf A).filterMap g.thread?

/-- A vote writes one bit to every active position's predicate (R108). -/
def voteWord (p : Pred) (pd : BitVec 3) (reads : List Nat) (f : List Thread → Bool) (s : State) : Out :=
  issueWord p 1 reads reads s fun g A s =>
    collective g A s fun s =>
      let r := f (g.activeThreads A)
      s.advance (g.onLanes A fun _ t => t.setPred pd r) 1

/-- VOTE.any. -/
def execVoteAny (p : Pred) (pd pa : BitVec 3) (s : State) : Out :=
  voteWord p pd [] (fun l => l.any fun t => t.pred pa) s

/-- VOTE.all. -/
def execVoteAll (p : Pred) (pd pa : BitVec 3) (s : State) : Out :=
  voteWord p pd [] (fun l => l.all fun t => t.pred pa) s

/-- VOTE.eq. -/
def execVoteEq (p : Pred) (pd : BitVec 3) (a : RegNum) (s : State) : Out :=
  voteWord p pd [a.toNat] (fun l =>
    match l with
    | [] => true
    | t :: l => l.all fun u => u.get a.toNat == t.get a.toNat) s

/-- VOTE.ballot: the lanes in A whose predicate is true, into a uniform pair. -/
def execVoteBallot (p : Pred) (sd : RegNum) (pa : BitVec 3) (s : State) : Out :=
  issueWord p 1 [] [] s fun g A s =>
    collective g A s fun s =>
      let m := maskOf fun i => A.getLsbD i && ((g.thread? i).map fun t => t.pred pa).getD false
      s.advance (g.sPut64 sd.toNat m) 1

end Sys2Proof.Machine
end

