-- ==== Sys2Proof/Machine/Priv.lean ====
section
/-! DEFINITION. Class 24, PRIV: RESUME, KILL, the supervisor registers, SRET, TLBINV and KEYNEW (R322, R332 to
R337). -/

namespace Sys2Proof.Machine

/-- A class 24 word: it runs in supervisor state on a service core; elsewhere it raises PRIVILEGE (R53, R332). `k` is the
service core's number. -/
def privWord (p : Pred) (len : Nat) (s : State) (body : Nat → Group → Mask → State → State) : Out :=
  issueWord p len [] [] s fun g A s =>
    match g.core with
    | .service k => if g.supervisor then body k g A s else s.trap g A Cause.privilege A 0
    | .vent _ _ _ => s.trap g A Cause.privilege A 0

/-- Status values (R332). -/
def Privs.ok : W32 := 0
def Privs.notParked : W32 := 1
def Privs.badArg : W32 := 2
def Privs.notMine : W32 := 3
def Privs.busy : W32 := 4
def Privs.denied : W32 := 5
def Privs.noKey : W32 := 6

/-- The issuing group, as the word's effect has left it, goes on with a status in s[sd]. -/
def State.advanceWith (s : State) (key : Nat) (sd : RegNum) (st : W32) (len : Nat) : State :=
  match s.group? key with
  | none => s
  | some g => s.advance (g.sPut sd.toNat st) len

/-- Requests of a partition's service core join its queue on the shared path (R321). -/
def State.request (s : State) (k : Nat) (l : List Request) : State :=
  s.onPart k fun x => { x with requests := x.requests ++ l }

/-! ## RESUME and KILL (R313, R333) -/

/-- The handle of an act that waits for a saved context. -/
def PendingEvent.handle : PendingEvent → Option W32
  | .resume h _ => some h
  | .kill h _ _ => some h
  | .childDone _ => none
  | .phase _ _ _ _ => none

/-- The parking that a handle names for an issuer of partition `k`, or the status that it gives. -/
def State.findParking (s : State) (k : Nat) (h : W32) : Except W32 Parking :=
  if s.preempts.any fun x => x.req.part == k && x.events.any fun e => e.handle == some h then .error Privs.notParked
  else
    match s.parkings.find? fun p => p.part == k && p.handle == some h with
    | some p => .ok p
    | none => if s.parkings.any fun p => p.handle == some h then .error Privs.notMine else .error Privs.notParked

/-- Act on a parking, or record the act while its context is halted for pre-emption (R313, R333). -/
def State.actOn (s : State) (p : Parking) (e : PendingEvent) (act : State → State) : State :=
  match (s.group? p.group).bind s.heldBy with
  | none => act s
  | some x => s.recordEvent x.n e

/-- What reaches a parked group goes over its die's link, which raises that die's time register; on Caldera, and of a context that
is halted, it stays there. While the link carries no traffic the word is held (R24, R25, R27). -/
def State.tellGroup (s : State) (p : Parking) (k : State → State) : State :=
  match s.group? p.group with
  | none => k s
  | some g =>
    if isCaldera (dieOf g.core) ∨ (s.heldBy g).isSome then k s
    else s.message .caldera (dieOf g.core) k

/-- RESUME and KILL: `bad` says that the operand breaks its limits, `waits` that the act has to wait, for the links of the dies
named (R25, R312, R331). -/
def parkingWord (p : Pred) (sd sa : RegNum) (b : OpS) (bad : W32 → Bool) (e : W32 → W32 → PendingEvent)
    (waits : W32 → Parking → State → Option (List DieId)) (act : W32 → Parking → State → State) (s : State) : Out :=
  privWord p (opSLen b) s fun k g _ s =>
    let h := g.sGet sa.toNat
    let x := opSWord g b
    match s.findParking k h with
    | .error st => s.advanceWith g.key sd st (opSLen b)
    | .ok q =>
      if bad x then s.advanceWith g.key sd Privs.badArg (opSLen b)
      else
        match waits x q s with
        | some ds => s.wakeLinks ds
        | none => s.tellGroup q fun s => (s.actOn q (e h x) (act x q)).advanceWith g.key sd Privs.ok (opSLen b)

/-- What a RESUME waits for, with the links that it needs: its replies, or what still goes into the save area (R25, R312, R331). -/
def State.resumeWaits (s : State) (p : Parking) (mode : Nat) : Option (List DieId) :=
  match s.replyMeets p mode with
  | some (.wait ds) => some ds
  | _ =>
    if !p.area.isEmpty && s.areaPending p.part then some []
    else if (s.areaDies p.area).all s.linkFlows then none
    else some (s.areaDies p.area)

/-- RESUME. -/
def execResume (p : Pred) (sd sa : RegNum) (b : OpS) (s : State) : Out :=
  parkingWord p sd sa b (fun x => decide (2 ≤ x.toNat)) (fun h x => .resume h x.toNat)
    (fun x q s => s.resumeWaits q x.toNat) (fun x q s => s.resumeParking q x.toNat) s

/-- KILL: cause 0x01 to 0x16 in [7:0], end mode in [8], the rest 0. -/
def execKill (p : Pred) (sd sa : RegNum) (b : OpS) (s : State) : Out :=
  parkingWord p sd sa b
    (fun x => x.toNat % 256 == 0 || decide (0x16 < x.toNat % 256) || decide (512 ≤ x.toNat))
    (fun h x => .kill h (x.toNat % 256) (x.toNat / 256 == 1))
    (fun _ _ _ => none) (fun x q s => s.killParking q (x.toNat % 256) (x.toNat / 256 == 1)) s

/-! ## Supervisor registers (R322, R334) -/

/-- A queue that lies in the issuer's partition (R322) and in no active child's (R317). -/
def State.ownsQueue (s : State) (k q : Nat) : Bool :=
  match s.part? k with
  | none => false
  | some x =>
    x.desc.hasQueue q &&
      (childrenOf k).all fun c =>
        match s.part? c with
        | none => true
        | some y => !(y.status != 0 && y.desc.hasQueue q)

/-- A partition whose SPSTAT the issuer reaches (R322). -/
def reachesPart (k p : Nat) : Bool := decide (p < 72) && (k == 127 || k == p || (childrenOf k).contains p)

/-- SPART (R322). -/
def spart (k : Nat) : Nat :=
  k + (if k = 127 then 0 else levelOf k) * 2 ^ 7 + ((parentOf k).getD 127) * 2 ^ 9

/-- The value of a supervisor register, or the trap that reading it raises (R334). -/
def State.superRead (s : State) (k : Nat) (sup : Bool) (n idx : Nat) : Except Nat Nat :=
  let x := (s.part? k).getD (Part.reset k)
  let plain (v : Nat) : Except Nat Nat := if idx = 0 then .ok v else .error Cause.privilege
  if n = 0 then plain (spart k)
  else if n = 1 then plain (if sup then 1 else 0)
  else if n = 2 then plain x.svec.toNat
  else if n = 3 then plain (x.scause.toNat % 256)
  else if n = 4 then (if idx < 256 then .ok (x.ctxpOf idx) else .error Cause.privilege)
  else if n = 5 then (if idx < 256 then .ok (x.ctxrOf idx) else .error Cause.privilege)
  else if n = 7 then (if s.ownsQueue k idx then .ok (s.queue idx).statusWord else .error Cause.privilege)
  else if n = 8 then plain x.sring.toNat
  else if n = 9 then plain x.sringn.toNat
  else if n = 10 then plain x.swint.toNat
  else if n = 11 then plain x.swinn.toNat
  else if n = 13 then
    if reachesPart k idx then
      let y := (s.part? idx).getD (Part.reset idx)
      .ok (y.status + y.commit * 2 ^ 8 + y.keyId * 2 ^ 16)
    else .error Cause.privilege
  else if n = 14 then
    if k = 127 ∧ idx < 8 then
      .ok (((s.port? idx).map fun q => (if q.peer then 1 else 0) + q.bound * 2 ^ 8).getD 0x7F00)
    else .error Cause.privilege
  else if n = 15 then plain x.ssave.toNat
  else if n = 16 then plain x.ssaven.toNat
  else .error Cause.illegalInstruction

/-- SRDSR. Outside supervisor state it raises PRIVILEGE whatever register it names: the spec gives no order between that and
the ILLEGAL_INSTRUCTION of R334, DESIGN CHOICE (log 96). -/
def execSrdsr (p : Pred) (sd n : RegNum) (b : OpS) (s : State) : Out :=
  privWord p (opSLen b) s fun k g A s =>
    match s.superRead k g.supervisor n.toNat (opSWord g b).toNat with
    | .error c => s.trap g A c A 0
    | .ok v => s.advance (g.sPut64 sd.toNat (BitVec.ofNat 64 v)) (opSLen b)

/-- Bytes of a partition's save area that hold parts of images (R312). -/
def State.saveHeld (s : State) (k : Nat) : Bool :=
  (s.preempts.any fun x => x.req.part == k && (x.saved.map fun y => decide (0 < y.2)).getD false) ||
    s.parkings.any fun p => p.part == k && (p.store.map fun y => decide (0 < y.2)).getD false

/-- Whether another valid context of a partition has the same PASID (R322). -/
def Part.pasidTaken (x : Part) (c v : Nat) : Bool :=
  x.ctxp.any fun e => e.1 != c && bitsOf e.2.toNat 31 31 == 1 && bitsOf e.2.toNat 19 0 == v % 2 ^ 20

/-- Write a plain supervisor register (R322, R334): the unnamed bits of the value are ignored (R6), and a value whose
fields break their limits leaves the register unchanged. -/
def State.superWrite (s : State) (k n idx v : Nat) : State :=
  let x := (s.part? k).getD (Part.reset k)
  let put (f : Part → Part) : State := s.onPart k f
  if n = 2 then (if v % 4 = 0 then put fun x => { x with svec := BitVec.ofNat 64 (v % 2 ^ 32) } else s)
  else if n = 4 then
    let u := v % 2 ^ 20 + bitsOf v 31 30 * 2 ^ 30
    if bitsOf v 31 31 = 1 ∧ x.pasidTaken idx v then s
    else put fun x => { x with ctxp := sput 0 x.ctxp idx (BitVec.ofNat 64 u) }
  else if n = 5 then
    let u := bitsOf v 59 58 * 2 ^ 58 + bitsOf v 54 52 * 2 ^ 52 + bitsOf v 51 17 * 2 ^ 17
    if 1 < bitsOf v 59 58 ∨ (bitsOf v 59 58 = 0 ∧ bitsOf v 54 52 ≠ 0) then s
    else put fun x => { x with ctxr := sput 0 x.ctxr idx (BitVec.ofNat 64 u) }
  else if n = 8 then (if s.inReach k v 1 then put fun x => { x with sring := BitVec.ofNat 64 v, seq := 0 } else s)
  else if n = 9 then
    (if v % 32 ≤ 12 then put fun x => { x with sringn := BitVec.ofNat 64 (v % 32) } else s)
  else if n = 10 then
    (if v % 32 = 0 ∧ s.inReach k v 1 then put fun x => { x with swint := BitVec.ofNat 64 v } else s)
  else if n = 11 then (if v ≤ 65536 then put fun x => { x with swinn := BitVec.ofNat 64 v } else s)
  else if n = 14 then
    if (bitsOf v 14 8 < 72 ∨ bitsOf v 14 8 = 127) ∧ k = 127 then
      { s with ports := s.ports.map fun q =>
          if q.n == idx && !q.up then { q with peer := v % 2 == 1, bound := bitsOf v 14 8 } else q }
    else s
  else if n = 15 then
    if v % 65536 = 0 ∧ !s.saveHeld k ∧ s.inReach k v (max 1 (65536 * x.ssaven.toNat)) then
      put fun x => { x with ssave := BitVec.ofNat 64 v }
    else s
  else if n = 16 then
    let u := v % 65536
    if !s.saveHeld k ∧ (u = 0 ∨ s.inReach k x.ssave.toNat (65536 * u)) then
      put fun x => { x with ssaven := BitVec.ofNat 64 u }
    else s
  else s

/-- The request that an SQCMD makes of the command processor (R290, R322), or the trap that its index raises. -/
def State.queueCommands (s : State) (k idx : Nat) (v : W64) : Except Nat (List Instr) :=
  let q := idx % 2 ^ 14
  let op := bitsOf idx 19 16
  let vd := bitsOf idx 20 20 == 1
  if bitsOf idx 15 14 ≠ 0 ∨ 2 ^ 21 ≤ idx ∨ op = 0 ∨ 5 < op ∨ !s.ownsQueue k q then .error Cause.privilege
  else
    .ok (
      if op = 1 then (if vd then [] else [.queueOpen q k v])
      else if op = 2 then [.queueStop ⟨q, vd⟩]
      else if op = 3 then [.queueRestart ⟨q, vd⟩]
      else if op = 4 then [.queueClose ⟨q, vd⟩]
      else [.queueReset ⟨q, vd⟩ k v])

/-- The trap that writing a supervisor register raises, if any (R334). -/
def superWriteTrap (k n idx : Nat) : Option Nat :=
  if [2, 8, 9, 10, 11, 15, 16].contains n then (if idx = 0 then none else some Cause.privilege)
  else if n = 4 ∨ n = 5 then (if idx < 256 then none else some Cause.privilege)
  else if n = 6 then none
  else if n = 12 then (if k = 127 ∧ idx < 72 then none else some Cause.privilege)
  else if n = 14 then (if k = 127 ∧ idx < 8 then none else some Cause.privilege)
  else some Cause.illegalInstruction

/-- SWRSR: SQCMD and SPDESC are requests to the command processor and for a commit; the others are written. -/
def execSwrsr (p : Pred) (n sa : RegNum) (b : OpS) (s : State) : Out :=
  privWord p (opSLen b) s fun k g A s =>
    let idx := (opSWord g b).toNat
    let v := g.sGet64 sa.toNat
    match superWriteTrap k n.toNat idx with
    | some c => s.trap g A c A 0
    | none =>
      if n = 6 then
        match s.queueCommands k idx v with
        | .error c => s.trap g A c A 0
        | .ok l => (s.request k (l.map .event)).advance g (opSLen b)
      else if n = 12 then (s.request k [.event (.partitionCommit idx v)]).advance g (opSLen b)
      else (s.superWrite k n.toNat idx v.toNat).advance g (opSLen b)

/-- SUPERVISOR_REGISTER_WRITE: the write of a supervisor register that has no row of its own, as SWRSR makes it. -/
def execSupervisorRegisterWrite (k n : Nat) (idx : W32) (value : W64) (s : State) : Out :=
  .next (if (superWriteTrap k n idx.toNat).isNone then s.superWrite k n idx.toNat value.toNat else s)

/-! ## SRET (R335) -/

/-- SRET: the code offset is recorded; the next control word leaves supervisor state. The root monitor core is always in
supervisor state (R320). -/
def execSret (p : Pred) (sa : RegNum) (s : State) : Out :=
  privWord p 1 s fun k g _ s => s.advance (if k = 127 then g else { g with sret := some (g.sGet sa.toNat) }) 1

/-! ## TLBINV (R163, R322, R336) -/

/-- TLBINV. -/
def execTlbinv (p : Pred) (m : BitVec 2) (sa sb : RegNum) (s : State) : Out :=
  privWord p 1 s fun k g A s =>
    let c := (g.sGet sa.toNat).toNat
    if 255 < c then s.trap g A Cause.illegalState A 0
    else if g.held .st then s
    else s.issueOp g A .lsu .st (.tlbinv k m.toNat c (g.sGet64 sb.toNat)) [] (g.commandTeam A) 1

/-- Whether a removal names a cached translation. -/
def removes (part mode ctx va : Nat) (t : Tlb) : Bool :=
  t.part == part && (mode == 2 || t.ctx == ctx && (mode == 0 || t.base == va / 2 ^ t.bits * 2 ^ t.bits))

/-- TLBINV_COMPLETE: the entries are gone everywhere, and walks see SCTXP and SCTXR as they now stand (R322). -/
def execTlbinvComplete (op : Nat) (s : State) : Out :=
  match s.op? op with
  | none => .next s
  | some o =>
    .next (
      match o.kind with
      | .tlbinv part mode ctx va =>
        let s1 : State :=
          { s with cores := s.cores.map fun c => { c with tlb := c.tlb.filter fun t => !removes part mode ctx va.toNat t } }
        (s1.onPart part fun x =>
          if mode = 2 then { x with walkp := x.ctxp, walkr := x.ctxr }
          else
            { x with
                walkp := sput 0 x.walkp ctx (sget 0 x.ctxp ctx)
                walkr := sput 0 x.walkr ctx (sget 0 x.ctxr ctx) }).retireOp o
      | _ => s)

/-! ## KEYNEW (R324, R337) -/

/-- KEYNEW: a request to the key store, which joins its partition's queue on the shared path (R321). -/
def execKeynew (p : Pred) (sd sa : RegNum) (s : State) : Out :=
  privWord p 1 s fun k g A s =>
    if g.held .ld then s
    else (s.request k [.keynew s.nextOp]).issueOp g A .lsu .ld (.keynew (g.sGet sa.toNat).toNat sd.toNat 0) [] (g.commandTeam A) 1

/-- The status of a KEYNEW of partition `p` by service core `k` (R337). -/
def State.keynewStatus (s : State) (k p : Nat) : W32 :=
  if k ≠ 127 ∧ !(childrenOf k).contains p then Privs.denied
  else if !s.partOn p then Privs.badArg
  else if !s.allQuiescent p then Privs.busy
  else if s.freeKeyId.isNone then Privs.noKey
  else Privs.ok

/-- Renew a partition's key: a new key under a free key ID, the old one discarded (R324). -/
def State.renewKey (s : State) (p : Nat) : State :=
  match s.freeKeyId with
  | none => s
  | some k => ((s.newKey k).discardKey p).onPart p fun x => { x with keyId := k, keySer := s.fresh + 1 }

/-- A KEYNEW's steps have ended and its status is written. -/
def State.completeKeynew (s : State) (op : Nat) : State :=
  match s.op? op with
  | none => s
  | some o =>
    match o.kind, o.core with
    | .keynew p sd _, .service k =>
      let st := s.keynewStatus k p
      ((if st = Privs.ok then s.renewKey p else s).onGroup o.group fun g => g.sPut sd st).retireOp o
    | _, _ => s

/-- KEYNEW_COMPLETE. -/
def execKeynewComplete (op : Nat) (s : State) : Out := .next (s.completeKeynew op)

end Sys2Proof.Machine
end

