-- ==== Sys2Proof/Machine/Queues.lean ====
section
/-! DEFINITION. Service of the queues: the watched lines, dispatch with its levels, deficits, rounds and caps, and
replicated copies (R291 to R294, R301, R302, R305 to R307, R318). -/

namespace Sys2Proof.Machine

/-! ## Who is eligible (R296, R306, R318) -/

/-- Whether TB stops a partition's own queues in this window: 0 is no cap. -/
def Part.capped (x : Part) : Bool := decide (x.desc.tb ≠ 0 ∧ x.desc.tb < x.charged)

/-- Whether a launch may start (R296): ORD waits for every earlier command, NOUT bounds what has started; a replicated
one starts nothing here. -/
def Queue.mayStart (x : Queue) (ord : Bool) (c : Cmd) : Bool :=
  match x.desc with
  | none => false
  | some d =>
    let adds :=
      match c with
      | .launchAt repl _ _ _ _ _ => !repl
      | _ => true
    (!ord || x.running.isEmpty) && (!adds || decide (x.running.length < d.nout))

/-- The launch at the head of a queue, where it may start; a GRAPH that waits for the graph store may not (R304). -/
def State.headLaunch (s : State) (x : Queue) : Option Cmd :=
  match x.desc, s.headCmd x with
  | some d, .cmd ord c =>
    let ok : Bool :=
      match c with
      | .launch _ _ => true
      | .launchAt _ _ _ _ _ _ => true
      | .graph gdesc _ =>
        match s.findGraph d.part ((s.queueCtx d).getD 0) d.pasid gdesc with
        | .wait _ => false
        | _ => true
      | .signal _ _ _ => false
      | .after _ _ _ _ => false
    if ok ∧ x.mayStart ord c then some c else none
  | _, _ => none

/-- The dies whose sleeping links the reads of a queue's head need (R25). -/
def State.headDies (s : State) (x : Queue) : List DieId :=
  match x.desc, s.headCmd x with
  | _, .wait ds => ds
  | some d, .cmd _ (.graph gdesc _) =>
    match s.findGraph d.part ((s.queueCtx d).getD 0) d.pasid gdesc with
    | .wait ds => ds
    | _ => []
  | _, _ => []

/-- Whether a queue is eligible. -/
def State.eligibleNow (s : State) (x : Queue) : Bool := (s.headLaunch x).isSome

/-- Queues that have become eligible join the round-robin order, in ascending number, and those that no longer are leave
it. -/
def State.refreshEligible (s : State) : State :=
  (sortNat (s.queues.map (·.num))).foldl
    (fun s q =>
      let x := s.queue q
      if !s.eligibleNow x then if x.eligible = 0 then s else s.onQueue q fun x => { x with eligible := 0 }
      else if x.eligible ≠ 0 then s
      else
        let n := s.rounds.elig + 1
        ({ s with rounds := { s.rounds with elig := n } }).onQueue q fun x => { x with eligible := n }) s

/-! ## The choice of a queue (R306, R307) -/

/-- The level-one partition of a partition. -/
def rootOf (p : Nat) : Nat := (parentOf p).getD p

/-- The first of some queues: the lowest level, and in it the one that has waited longest in the round-robin order. -/
def firstQueue (l : List Queue) : Option Queue :=
  leastBy (fun (x : Queue) => x.eligible) (l.filter fun x =>
    l.all fun y => decide (((x.desc.map (·.prio)).getD 0) ≤ ((y.desc.map (·.prio)).getD 0)))

/-- A partition's MIN; none while TB stops its own queues, since it then does not apply to the partition (R318). -/
def State.minOf (s : State) (p : Nat) : Nat := ((s.part? p).map fun x => if x.capped then 0 else x.desc.min).getD 0

/-- Dispatches that count toward a partition in this round. -/
def Rounds.count (r : Rounds) (p : Nat) : Nat := ((r.parts.find? fun e => e.1 == p).map (·.2)).getD 0

/-- The partition of a queue that holds a descriptor. -/
def Queue.partNum (x : Queue) : Nat := x.part.getD 0

/-- The eligible queues that TB lets be dispatched. -/
def State.candidates (s : State) : List Queue :=
  s.queues.filter fun x =>
    decide (x.eligible ≠ 0) && s.eligibleNow x && !(((s.part? x.partNum).map Part.capped).getD false)

/-- The queue that is visited next (R307): first the level-one partitions below their MIN, and within one its children
below theirs; then all. -/
def State.nextVisit (s : State) : Option Nat :=
  let all := s.candidates
  let below := all.filter fun x =>
    let p := rootOf x.partNum
    decide (s.rounds.count p < s.minOf p)
  match firstQueue below with
  | none => (firstQueue all).map (·.num)
  | some b =>
    let p := rootOf b.partNum
    let family := below.filter fun x => rootOf x.partNum == p
    let child := (childrenOf p).find? fun c =>
      decide (s.rounds.count c < s.minOf c) && family.any fun x => x.partNum == c
    match child with
    | some c => (firstQueue (family.filter fun x => x.partNum == c)).map (·.num)
    | none => (firstQueue family).map (·.num)

/-- A dispatch counts for its partition and its parent; a round has 64. -/
def Rounds.note (r : Rounds) (p : Nat) : Rounds :=
  let ps := (if rootOf p = p then [p] else [p, rootOf p]).foldl
    (fun l k => upsert (fun e => e.1 == k) (fun e => (e.1, e.2 + 1)) (k, 0) l) r.parts
  if r.used + 1 < 64 then { r with used := r.used + 1, parts := ps } else { r with used := 0, parts := [] }

/-! ## Dispatch (R301, R302, R304, R306) -/

/-- The last generation that a fabric queue accepted from a source. -/
def Queue.lastGen (x : Queue) (src : Nat) : Option Nat := (x.gens.find? fun e => e.1 == src).map (·.2)

/-- What a copy meets at its fabric queue. -/
inductive CopyFate where
  | old
  | refused (code : Nat)
  | wait (dies : List DieId)
  | runs (ctx : Nat) (l : LaunchRec)
  deriving DecidableEq, Repr

/-- An old generation is discarded; a copy that comes to a device that has FAILED, without lock or too late is refused; any other
runs. -/
def State.copyFate (s : State) (q : Nat) (d : QDesc) (c : ReplCopy) : CopyFate :=
  if (((s.queue q).lastGen c.src).map fun n => decide (c.gen ≤ n)).getD false then .old
  else if s.info.state = 3 then .refused Code.failed
  else if (s.time .caldera).fabState ≠ 2 then .refused Code.unsync
  else if startT1 c.start ≤ s.now then .refused Code.late
  else
    match s.queueCtx d with
    | none => .refused Code.translation
    | some ctx =>
      match s.checkLaunch d.part ctx c.lrec with
      | .refused e => .refused e
      | .wait ds => .wait ds
      | .ok l => .runs ctx l

/-- What a copy does at its fabric queue: one that runs does so with T1 in place of T0. -/
def State.receiveCopy (s : State) (q : Nat) (d : QDesc) (c : ReplCopy) : State :=
  match s.copyFate q d c with
  | .old => s
  | .refused e => s.refuse q e
  | .wait ds => s.wakeLinks ds
  | .runs ctx l =>
    ((s.cpCrossAt d.part ctx c.lrec.toNat 128).launchGrid q d ctx l c.done (some (startT1 c.start)) none).onQueue q fun x =>
      { x with
          running := x.running ++ [.grid s.nextKey]
          gens := upsert (fun e => e.1 == c.src) (fun e => (e.1, c.gen)) (c.src, c.gen) x.gens }

/-- The queue that takes the copies which this device sends itself, if it takes one now (R302). -/
def State.ownFabricQueue (s : State) : Option QDesc :=
  if (s.queue Config.fabricQueue).status = 1 ∧ (s.queue Config.fabricQueue).closing.isNone then
    (s.queue Config.fabricQueue).desc
  else none

/-- Whether a copy can be delivered to fabric device `k` (R302): to this device's own fabric queue, or over a peer port that is
up. -/
def State.peerReachable (s : State) (k : Nat) : Bool :=
  if k = Config.fabricNumber then s.ownFabricQueue.isSome else s.ports.any fun p => p.peer && p.up

/-- A replicated LAUNCH-AT: the copies that can be delivered leave, and one that cannot refuses the command; the copy to this
device itself is delivered at once. The command starts when every copy has been delivered (R302). -/
def State.replicate (s : State) (q : Nat) (c : ReplCopy) (peers : W64) : State :=
  let ks := (List.range 64).filter fun k => peers.getLsbD k
  let s1 : State :=
    { s with peerOut := s.peerOut ++ (ks.filter fun k => k != Config.fabricNumber && s.peerReachable k).map fun k => (k, c) }
  let ends (t : State) : State := if ks.all s.peerReachable then t.nextCommand q else t.refuse q Code.noPeer
  match ks.contains Config.fabricNumber, s.ownFabricQueue with
  | true, some d =>
    match s.copyFate Config.fabricQueue d c with
    | .wait ds => s.wakeLinks ds
    | _ => ends (s1.receiveCopy Config.fabricQueue d c)
  | _, _ => ends s1

/-- Dispatch a queue's head. -/
def State.dispatchHead (s : State) (q : Nat) (d : QDesc) (c : Cmd) : State :=
  let ctx := (s.queueCtx d).getD 0
  match c with
  | .launch lrec done => s.startLaunch q d ctx lrec done none
  | .launchAt true lrec done start peers gen =>
    s.replicate q ⟨Config.fabricNumber, gen.toNat, lrec, done, start.toNat⟩ peers
  | .launchAt false lrec done start _ _ =>
    if (s.time .caldera).pkgState ≠ 2 then s.refuse q Code.unsync
    else s.startLaunch q d ctx lrec done (some (startT0 start))
  | .graph gdesc done =>
    match s.findGraph d.part ctx d.pasid gdesc with
    | .err e => s.refuse q e
    | .wait ds => s.wakeLinks ds
    | .ok i l => ((s.cpCrossAt d.part ctx gdesc.toNat 64).addGraphLaunch q i l done).nextCommand q
  | .signal _ _ _ => s
  | .after _ _ _ _ => s

/-- A visit (R306): DEF takes QUANTUM, bounded by it, and the head is dispatched if DEF is positive. -/
def visitDeficit (d : QDesc) (deficit : Int) : Int := min (deficit + d.quantum) d.quantum

def State.visit (s : State) (q : Nat) (d : QDesc) (c : Cmd) : State :=
  let n := s.rounds.elig + 1
  let def1 := visitDeficit d (s.queue q).deficit
  let s1 := ({ s with rounds := { s.rounds with elig := n } }).onQueue q fun x => { x with eligible := n, deficit := def1 }
  if 0 < def1 then
    let s2 := (s1.headRead q).dispatchHead q d c
    if (s2.queue q).ridx = (s1.queue q).ridx then s2 else { s2 with rounds := s2.rounds.note d.part }
  else s1

/-- The command that a visit would dispatch, with its queue. -/
def State.dueVisit (s : State) : Option (Nat × QDesc × Cmd) :=
  match s.nextVisit with
  | none => none
  | some q =>
    match (s.queue q).desc, s.headLaunch (s.queue q) with
    | some d, some c => some (q, d, c)
    | _, _ => none

/-- The first queue, in ascending number, whose head is refused before any dispatch. -/
def State.badHead (s : State) : Option (Nat × Nat) :=
  (sortNat (s.queues.map (·.num))).findSome? fun q =>
    match s.headCmd (s.queue q) with
    | .bad c => some (q, c)
    | _ => none

/-- DISPATCH: a head that cannot be read or is malformed is refused; otherwise the next queue is visited. The reads that are
due over sleeping links start their wakes. -/
def execDispatch (s : State) : Out :=
  .next (
    match s.badHead with
    | some (q, c) => s.refuse q c
    | none =>
      let s1 := (s.wakeLinks (s.queues.flatMap s.headDies)).refreshEligible
      match s1.dueVisit with
      | none => s1
      | some (q, d, c) => (s1.visit q d c).refreshEligible)

/-- The DISPATCH whose visit starts exactly the command given. -/
def dispatchOf (q : Nat) (ord : Bool) (c : Cmd) (s : State) : Out :=
  .next (
    let s1 := s.refreshEligible
    match s1.dueVisit with
    | none => s
    | some (n, d, k) =>
      if n = q ∧ k = c ∧ s1.headCmd (s1.queue q) = .cmd ord c ∧ 0 < visitDeficit d (s1.queue q).deficit then
        (s1.visit q d c).refreshEligible
      else s)

/-- LAUNCH. -/
def execLaunch (q : Nat) (ord : Bool) (lrec done : W64) (s : State) : Out := dispatchOf q ord (.launch lrec done) s

/-- LAUNCH-AT. -/
def execLaunchAt (q : Nat) (ord repl : Bool) (lrec done start peers : W64) (gen : W32) (s : State) : Out :=
  dispatchOf q ord (.launchAt repl lrec done start peers gen) s

/-- GRAPH. -/
def execGraph (q : Nat) (ord : Bool) (gdesc done : W64) (s : State) : Out := dispatchOf q ord (.graph gdesc done) s

/-! ## The watched lines (R291 to R294) -/

/-- What a look at a monitor-table entry's line gives. A copy that the command processor holds is read where it is; any other
is fetched, and held from then on (R292). -/
def State.lookAt (s : State) (m : Monitor) (ctx : Nat) : State × CpRead :=
  let va := m.mline.toNat
  if m.held && s.xlate ⟨cpCore, m.part, ctx⟩ va 1024 .read == .ok m.key && (s.lostAt m.key 1024).isNone then
    (s, .ok (s.readBytes m.key 1024))
  else
    match s.cpReadIn m.part ctx va 1024, s.cpPlace m.part ctx va 1024 .read with
    | .ok l, .ok key => (s.watchLine m.entry key, .ok l)
    | .wait ds, _ => (s.wakeLinks ds, .wait ds)
    | r, _ => (s, r)

/-- A queue takes the WIDX found for it; one that is overrun enters ERROR (R291), closing or stopped as it may be. -/
def State.takeWidx (s : State) (l : List Byte) (q : Nat) : State :=
  match (s.queue q).desc with
  | none => s
  | some d =>
    let s1 := s.onQueue q fun x => { x with widx := fld64 l (8 * d.mpos) }
    if (s.queue q).status ≠ 3 ∧ 2 ^ d.rszlog < (s1.queue q).pending then s1.refuse q Code.overrun else s1

/-- WATCHED_LINE_READ: every queue of the entry takes its WIDX. -/
def execWatchedLineRead (entry : Nat) (s : State) : Out :=
  .next (
    match s.monitors.find? fun m => m.entry == entry with
    | none => s
    | some m =>
      let qs := (s.queues.filter fun x => (x.desc.map fun d => d.ment == entry).getD false).map (·.num)
      let fail (code : Nat) : State :=
        qs.foldl (fun s q => if (s.queue q).status = 1 then s.refuse q code else s) s
      match (s.part? m.part).bind fun x => x.ctxOf m.pasid with
      | none => fail Code.translation
      | some c =>
        match s.lookAt m c with
        | (_, .err e) => fail e
        | (t, .wait _) => t
        | (t, .ok l) => (qs.foldl (fun s q => s.takeWidx l q) t).refreshEligible)

/-! ## Replicated copies (R302) -/

/-- Whether a copy may arrive from outside: one that this device sends itself is delivered with its command (R302). -/
def copyDue (c : ReplCopy) : Bool := c.src != Config.fabricNumber

/-- REPLICATED_COPY_RECEIVE. -/
def execReplicatedCopyReceive (q : Nat) (c : ReplCopy) (s : State) : Out :=
  .next (
    match (s.queue q).desc with
    | none => s
    | some d =>
      if (s.queue q).status ≠ 1 ∨ (s.queue q).closing.isSome ∨ !copyDue c then s else s.receiveCopy q d c)

end Sys2Proof.Machine
end

