-- ==== Sys2Proof/Machine/Ring.lean ====
section
/-! DEFINITION. The request ring, faults after issue and lockstep mismatches (R311, R312, R340, R342 to R344, R346, R351). -/

namespace Sys2Proof.Machine

/-! ## Storage for what leaves its core (R311, R312, R346) -/

/-- Bytes that the image of a group takes: its registers, and 8 KiB for all else. The layout is the device's own. -/
def Group.imageBytes (g : Group) : Nat := g.width * g.cap * 4 + 8192

/-- Free shadow storage: 48 MiB on each live Spring. -/
def State.freeShadow (s : State) : Nat :=
  48 * 2 ^ 20 * ((s.info.bootSprings.filter fun n => s.info.springs.toNat.testBit n).length) -
    ((s.preempts.map fun x => (x.saved.map (·.1)).getD 0).sum + (s.parkings.map fun p => (p.store.map (·.1)).getD 0).sum)

/-- The parts of images and parked groups that stand in a partition's save area. -/
def State.areaHeld (s : State) (part : Nat) : List AreaPart :=
  ((s.preempts.filter fun x => x.req.part == part).flatMap (·.area)) ++
    (s.parkings.filter fun p => p.part == part).flatMap (·.area)

/-- The free ranges of a partition's save area: what an active child holds of it is out of the partition's reach (R317): DEDUCED (log 116). -/
def State.areaFree (s : State) (part : Nat) : List (Nat × Nat) :=
  match s.part? part with
  | none => []
  | some x =>
    let own := (s.areaHeld part).foldl (fun l a => cutRange l a.addr a.data.length) [(x.ssave.toNat, 65536 * x.ssaven.toNat)]
    (childrenOf part).foldl
      (fun l c =>
        match s.part? c with
        | none => l
        | some y => if y.status = 0 then l else y.desc.ranges.foldl (fun l r => cutRange l r.1 r.2) l) own

/-- Free bytes of a partition's save area. -/
def State.freeArea (s : State) (part : Nat) : Nat := ((s.areaFree part).map (·.2)).sum

/-- Where `n` bytes go: to shadow storage, and what does not fit there to the save area; none without room. -/
def State.storage (s : State) (part n : Nat) : Option (Nat × Nat) :=
  let a := min n s.freeShadow
  if n - a ≤ s.freeArea part then some (a, n - a) else none

/-- Lay bytes into ranges, in order. -/
def layOut : List (Nat × Nat) → List Byte → List AreaPart
  | [], _ => []
  | r :: l, bs => if bs.isEmpty then [] else ⟨r.1, bs.take r.2⟩ :: layOut l (bs.drop r.2)

/-- The pieces of some bytes that lie in one line each. -/
def linePieces : Nat → Nat → List Byte → List (Nat × List Byte)
  | 0, _, _ => []
  | n + 1, a, bs =>
    if bs.isEmpty then []
    else
      let k := 1024 - a % 1024
      (a, bs.take k) :: linePieces n (a + k) (bs.drop k)

/-- Write bytes of any number of lines for a partition, those that are in its reach. -/
def State.partWriteAll (s : State) (part a : Nat) (bs : List Byte) : State :=
  (linePieces (bs.length + 1) a bs).foldl (fun s p => s.partWrite part p.1 p.2) s

/-- Where the bytes of an image go that shadow storage does not take, and their writes there under the partition's key (R312,
R323). -/
def State.saveArea (s : State) (part : Nat) (bs : List Byte) : State × List AreaPart :=
  let l := layOut (s.areaFree part) bs
  (l.foldl (fun s a => s.partWriteAll part a.addr a.data) s, l)

/-- Bytes that the device writes in a layout of its own: free values (R312, log 59). -/
def ownBytes (epoch n : Nat) : List Byte := (List.range n).map (Config.imageByte epoch)

/-! ## Records (R342 to R344) -/

/-- The header of a record, with its STATE byte 0. -/
def Post.header (r : Post) (handle : Nat) : List Byte :=
  bytesOfNat 4 handle ++ bytesOfNat 1 r.kind ++ bytesOfNat 1 r.cause ++ bytesOfNat 1 r.flags ++ [0] ++
    bytesOfNat 8 r.active.toNat ++ bytesOfNat 8 r.fmask.toNat ++ bytesOfNat 8 r.faddr.toNat ++ bytesOfWord r.waddr ++
    bytesOfWord r.kaddr ++ bytesOfWord r.hdr ++ bytesOfWord r.svc ++ bytesOfWord r.team ++ bytesOfNat 2 r.ctx ++
    bytesOfNat 1 r.core ++ bytesOfNat 1 r.place ++ bytesOfWord r.grid ++ bytesOfNat 4 0

/-- Block k of a record, 64 bytes. -/
def Post.block (r : Post) (k : Nat) : List Byte :=
  let ws := ((r.blocks.find? fun b => b.1 == k).map (·.2)).getD []
  ((ws.flatMap bytesOfWord) ++ List.replicate 64 0).take 64

/-- Write a record: every field, then STATE, then SEQ (R344). -/
def State.writePost (s : State) (x : Part) (slot : Nat) (r : Post) : State :=
  let a := x.slotAddr slot
  let s1 := s.partWriteAll x.num a (r.header (x.seq % 2 ^ 32))
  let s2 := (List.range 64).foldl (fun s k => s.partWriteAll x.num (a + 64 + 64 * k) (r.block k)) s1
  ((s2.partWrite x.num (a + 7) (bytesOfNat 1 r.state)).clearNarrow (lineOf (a + 7))).partWriteAll x.num x.sring.toNat
    (bytesOfNat 8 (x.seq + 1))

/-- A TRAP's group goes off-core (R346). -/
def State.offCore (s : State) (group : Nat) : State := s.onGroup group fun g => { g with seat := none }

/-- The parking of a record has its handle and slot. -/
def State.notePosted (s : State) (r : Post) (handle : W32) (slot : Nat) (store : Option (Nat × Nat)) (area : List AreaPart) :
    State :=
  { s with parkings := s.parkings.map fun p =>
      if r.parking = some p.key then { p with handle := some handle, slot := some slot, store := store, area := area } else p }

/-- Post a partition's next record into a slot. `x` is the partition before it; of a TRAP's group `store` says how much goes to
shadow storage and to the save area. -/
def State.postNext (s : State) (x : Part) (r : Post) (slot : Nat) (store : Option (Nat × Nat)) : State :=
  let r0 := s.saveArea x.num (match store with | some (a, n) => (ownBytes s.fresh (a + n)).drop a | none => [])
  let s0 : State := { r0.1 with posted := x.num, fresh := s.fresh + 1 }
  let s1 := (s0.writePost x slot r).onPart x.num fun y => { y with posts := y.posts.tail, seq := y.seq + 1 }
  let s2 := s1.notePosted r (BitVec.ofNat 32 x.seq) slot store r0.2
  match store, r.parking.bind fun k => s2.parkings.find? fun p => p.key == k with
  | some _, some p => s2.offCore p.group
  | _, _ => s2

/-- RING_POST: the partition's next record is posted if its slot is FREE; a TRAP also needs room for its group. A ring that is
out of the partition's reach takes none (R317), and the read of the slot's STATE waits for the links that it needs (R25). -/
def execRingPost (part : Nat) (s : State) : Out :=
  .next (
    match s.part? part with
    | none => s
    | some x =>
      match x.posts with
      | [] => s
      | r :: _ =>
        let slot := x.seq % 2 ^ (x.sringn.toNat)
        let state := x.slotAddr slot + 7
        if !s.inReach part (x.slotAddr slot) 8192 ∨ !s.inReach part x.sring.toNat 8 ∨
            (s.devWrites.any fun w => w.stream == part) then s
        else if (s.readBar cpCore state 1).isSome then s.wakeLinks (s.readDies cpCore state 1)
        else if s.readByte state ≠ 0 then s
        else if r.kind ≠ 1 then s.postNext x r slot none
        else
          match (r.parking.bind fun k => s.parkings.find? fun p => p.key == k).bind fun p => s.group? p.group with
          | none => s.postNext x r slot none
          | some g =>
            match s.storage part g.imageBytes with
            | none => s
            | some st => s.postNext x r slot (some st))

/-! ## Faults after issue and lockstep (R340, R351) -/

/-- FAULT_AFTER_ISSUE: the n-th fault that is not delivered, once its operation has left its counter. While its group is parked
it is held. -/
def execFaultAfterIssue (n : Nat) (s : State) : Out :=
  .next (
    match s.lateFaults[n]? with
    | none => s
    | some f =>
      if !s.lateDue f ∨ ((s.group? f.group).map fun g => g.run == .parked).getD false then s else s.deliverLate f)

/-- LOCKSTEP_MISMATCH_SERVICE_CORE: the pair is reset, and starts again from its kernel image. -/
def execLockstepMismatchServiceCore (k : Nat) (s : State) : Out := .next (s.haltService k)

/-- LOCKSTEP_MISMATCH_COMMAND_PROCESSOR: the pair replays its journal; no command is lost or started twice. -/
def execLockstepMismatchCommandProcessor (s : State) : Out := .next s

/-- LOCKSTEP_MISMATCH_ROOT_MONITOR: STATE := FAILED. -/
def execLockstepMismatchRootMonitor (s : State) : Out := .next { s with info := { s.info with state := 3 } }

end Sys2Proof.Machine
end

