-- ==== Sys2Proof/Machine/Preempt.lean ====
section
/-! DEFINITION. The pre-emption ladder, and context images (R105, R148, R232, R310 to R313). -/

namespace Sys2Proof.Machine

/-! ## The ladder (R310) -/

/-- Whether a team is of the context and on the cores of a pre-emption. -/
def State.preemptsTeam (s : State) (r : PreemptReq) (t : Team) : Bool :=
  r.cores.contains t.core && !(isService t.core) &&
    ((s.grid? t.grid).map fun x => x.part == r.part && x.ctx == r.ctx).getD false

/-- PREEMPT_REQUEST. -/
def execPreemptRequest (r : PreemptReq) (s : State) : Out := .next (s.requestPreempt r)

def State.preemptNo (s : State) (n : Nat) : Option Preempt := s.preempts.find? fun x => x.n == n

def State.onPreempt (s : State) (n : Nat) (f : Preempt → Preempt) : State :=
  { s with preempts := s.preempts.map fun x => if x.n == n then f x else x }

/-- PREEMPT_HALT: stage 2, GRACE after stage 1 began. -/
def execPreemptHalt (n : Nat) (s : State) : Out :=
  .next (
    match s.preemptNo n with
    | none => s
    | some x =>
      if x.stage ≠ 1 ∨ s.now < x.since + x.grace * microUnits then s
      else
        let s1 := s.onPreempt n fun x => { x with stage := 2, since := s.now }
        { s1 with groups := s1.groups.map fun (g : Group) => if s.preempts? x g then { g with halt := some 0 } else g })

/-- PREEMPT_KILL: stage 3, KILLT after stage 2 began, where no image has been moved. -/
def execPreemptKill (n : Nat) (s : State) : Out :=
  .next (
    match s.preemptNo n with
    | none => s
    | some x =>
      if x.stage ≠ 2 ∨ x.saved.isSome ∨ s.now < x.since + x.killt * microUnits then s
      else
        let ts := s.teams.filter fun t => s.preemptsTeam x.req t
        let s1 := ts.foldl (fun s t => s.terminate t.key Cause.killed 0 0) s
        { s1 with preempts := s1.preempts.filter fun y => y.n != n })

/-! ## Swap-out (R232, R311, R312) -/

/-- The grids of a pre-emption's context. -/
def State.ctxGrids (s : State) (r : PreemptReq) : List Nat :=
  (s.grids.filter fun x => x.part == r.part && x.ctx == r.ctx).map (·.key)

/-- The number whose fields, from the top bit down, are the values given with their widths. -/
def fieldsDown : List (Nat × Nat) → Nat
  | [] => 0
  | (n, x) :: l => x % 2 ^ n * 2 ^ (l.map (·.1)).sum + fieldsDown l

/-- The head slot of a record (R221); `t` is its thread's team, if it is still there. -/
def Rec.headSlot (r : Rec) (b : Bin) (t : Option Team) : Nat :=
  fieldsDown
    [(32, b.resume.toNat), (12, b.prio), (16, b.key.toNat), (2, b.role), (1, if r.stp then 1 else 0), (7, r.nreg),
      (7, r.thread.p.toNat), (16, r.thread.depth), (11, r.thread.tid), (8, (t.map (·.tslot)).getD 0),
      (32, (t.map (·.num)).getD 0), (16, r.age), (96, 0)]

/-- The state slot (R221). -/
def Rec.stateSlot (r : Rec) : Nat :=
  let a := r.thread.arr
  let gen (o : Option W16) : Nat := (o.map (·.toNat)).getD 0
  let has (o : Option W16) : Nat := if o.isSome then 1 else 0
  fieldsDown
    [(32, r.thread.seed.toNat), (32, r.thread.draw.toNat), (32, r.thread.splim.toNat), (16, gen a.team), (16, gen a.cluster),
      (16, gen a.die), (16, gen a.grid), (1, has a.grid), (1, has a.die), (1, has a.cluster), (1, has a.team), (92, 0)]

/-- Register slot `j` (R221). -/
def Rec.regSlot (r : Rec) (j : Nat) : Nat :=
  fieldsDown ((List.range 8).reverse.map fun m =>
    (32, if 8 * j + m < r.nreg then (r.thread.get (8 * j + m)).toNat else 0))

/-- The bytes of a record's slots in an image (R221). -/
def Rec.slotBytes (r : Rec) (b : Bin) (t : Option Team) : List Byte :=
  let regs := (List.range ((r.nreg + 7) / 8)).map r.regSlot
  ((r.headSlot b t) :: (if r.stp then r.stateSlot :: regs else [])).flatMap (bytesOfNat 32)

/-- The bytes of an image's records, in bin order (R232). -/
def State.recordBytes (s : State) (x : Preempt) : List Byte :=
  x.bins.flatMap fun b => b.2.recs.flatMap fun r => r.slotBytes b.2 (s.team? r.thread.team)

/-- The bytes of the rest of an image: groups that are not already stored off-core, allotments and tiles. Their layout is the
device's own (R312, log 59). -/
def State.ownSize (s : State) (x : Preempt) : Nat :=
  let gs := s.groups.filter fun g =>
    s.preempts? x g && !(s.parkings.any fun p => some p.key == g.parking && p.store.isSome)
  let ts := (s.teams.filter fun t => s.preemptsTeam x.req t).map fun t =>
    ((s.grid? t.grid).map fun g => g.lrec.scratch + g.lrec.wsize + g.lrec.asize + 16384 * g.lrec.tiles).getD 0
  (gs.map Group.imageBytes).sum + ts.sum

/-- An image: what the device lays out as it likes, and then the records. -/
def State.imageOf (s : State) (x : Preempt) : List Byte := ownBytes s.fresh (s.ownSize x) ++ s.recordBytes x

/-- Take the context's records from the cores. -/
def State.gatherBins (s : State) (x : Preempt) : List (CoreId × Bin) :=
  let ks := s.ctxGrids x.req
  (s.cores.filter fun c => x.req.cores.contains c.id && !(isService c.id)).flatMap fun c =>
    (c.bins.filter fun b => ks.contains b.grid).map fun b => (c.id, b)

/-- The image moves: `r` says how much of it goes to shadow storage and to the save area, and its groups, teams and records
leave their cores. -/
def State.moveOut (s : State) (x : Preempt) (r : Nat × Nat) : State :=
  let ks := s.ctxGrids x.req
  let w := s.saveArea x.req.part (if r.2 = 0 then [] else (s.imageOf x).drop r.1)
  let s1 := { w.1 with fresh := s.fresh + 1 }.onPreempt x.n fun _ => { x with saved := some r, area := w.2 }
  { s1 with
      groups := s1.groups.map fun (g : Group) => if s.preempts? x g then { g with seat := none } else g
      teams := s1.teams.map fun (t : Team) => if s.preemptsTeam x.req t then { t with swapped := true } else t
      cores := s1.cores.map fun (c : CoreState) =>
        if x.req.cores.contains c.id && !(isService c.id) then
          { c with bins := c.bins.filter fun b => !ks.contains b.grid }
        else c }

/-- CONTEXT_SWAP_OUT: stage 2 has ended, and the image moves where there is room for it, over the links of its Vents. -/
def execContextSwapOut (n : Nat) (s : State) : Out :=
  .next (
    match s.preemptNo n with
    | none => s
    | some x0 =>
      let x : Preempt := { x0 with bins := s.gatherBins x0 }
      if x.saved.isSome ∨ !s.stageTwoDone x then s
      else
        match s.storage x.req.part (s.ownSize x + (s.recordBytes x).length) with
        | none => s
        | some r => s.cross (.caldera :: x.req.cores.map dieOf) fun s => s.moveOut x r)

/-! ## Swap-in (R232, R311, R313) -/

/-- The core that a placement gives a team. -/
def placedAt (place : List (Nat × CoreId)) (team : Nat) : Option CoreId := (place.find? fun e => e.1 == team).map (·.2)

/-- The Vent and cluster of a core. -/
def clusterOfCore (c : CoreId) : Nat × Nat :=
  match c with
  | .vent v k _ => (v, k)
  | .service _ => (8, 0)

/-- Where a team stands once the image is back. -/
def placedCore (place : List (Nat × CoreId)) (t : Team) : CoreId := (placedAt place t.key).getD t.core

/-- Whether a placement keeps what a grid's positions need: the teams of a cluster position on one cluster, and the
positions of a die on one Vent. -/
def State.placeTogether (s : State) (place : List (Nat × CoreId)) : Bool :=
  s.teams.all fun t => s.teams.all fun u =>
    match s.grid? t.grid with
    | none => true
    | some x =>
      t.grid != u.grid || isService t.core || (x.posOf t.num).1 != (x.posOf u.num).1 ||
        ((clusterOfCore (placedCore place t)).1 == (clusterOfCore (placedCore place u)).1 &&
          (x.posOf t.num != x.posOf u.num ||
            clusterOfCore (placedCore place t) == clusterOfCore (placedCore place u)))

/-- Whether the teams that share a group or a bin of the image stay on one core. -/
def State.placeGroups (s : State) (place : List (Nat × CoreId)) : Bool :=
  s.groups.all fun g =>
    let ts := g.lanes.filterMap fun o => o.map fun t => placedAt place t.team
    ts.all fun c => some c == ts.head?

/-- Move a line that a grid holds pinned to another Vent: none where another grid's window keeps it, where it carries a mark that
is still to be promoted (R187), or where no way of its set there can take it. A host that holds the line goes on holding it
(R328). -/
def State.movePin (s : State) (grid v w line : Nat) : Option State :=
  if (s.nextPinner grid v line).isSome ∨ s.markLeaves w line then none
  else
    let s1 := s.forgetSizes v line
    State.pinLine
      { s1 with l2 := s1.l2.map fun l => if l.vent == v && l.line == line then { l with pinned := none } else l } grid w line

/-- The lines of a die position's window that a grid holds pinned on a Vent. -/
def State.pinnedWindow (s : State) (x : Grid) (d v : Nat) : List Nat :=
  (s.windowLines x d).filter fun n => s.l2.any fun l => l.vent == v && l.line == n && l.pinned == some x.key

/-- The Vent that a grid's position stands on. -/
def Grid.ventOf (x : Grid) (num : Nat) : Option Nat :=
  (x.clusters.find? fun e => (e.1, e.2.1) == x.posOf num).map fun e => e.2.2.1

/-- Give a cluster position its place, and move a die's window with it (R148); none where the window cannot move. -/
def State.movePosition (s : State) (x : Grid) (num : Nat) (c : CoreId) : Option State :=
  let p := x.posOf num
  let k := clusterOfCore c
  let s1 := s.onGrid x.key fun x =>
    { x with clusters := x.clusters.map fun e => if (e.1, e.2.1) = p then (e.1, e.2.1, k.1, k.2) else e }
  match x.ventOf num with
  | none => some s1
  | some v =>
    if v = k.1 ∨ x.lrec.dws = 0 ∨ (s1.pinnedWindow x p.1 v).isEmpty then some s1
    else if 2 ^ 26 < s1.pinnedBytes k.1 + x.lrec.dws then none
    else (s1.pinnedWindow x p.1 v).foldl (fun r n => r.bind fun s => s.movePin x.key v k.1 n) (some s1)

/-- Whether a lane of a group is of one of some teams. -/
def Group.hasTeam (g : Group) (ts : List Nat) : Bool := g.lanes.any fun o => (o.map fun t => ts.contains t.team).getD false

/-- Restore a team on a core that can hold it, where the leases that the core's L1 holds end (log 20). -/
def State.restoreTeam (s : State) (team : Nat) (c : CoreId) : Option State :=
  match s.team? team with
  | none => none
  | some t =>
    match s.grid? t.grid with
    | none => none
    | some x =>
      let k := clusterOfCore c
      if isService c ∨ !s.clusterOk x.part k.1 k.2 ∨ !s.teamRoom c x.lrec then none
      else
        (s.movePosition x t.num c).map fun s1 =>
          let slot := s1.freeTslot c
          let s2 : State :=
            { s1 with
                teams := s1.teams.map fun (u : Team) =>
                  if u.key == team then { u with core := c, tslot := slot, swapped := false } else u
                groups := s1.groups.map fun (g : Group) => if g.hasTeam [team] then { g with core := c } else g }
          s2.endLeases c

def State.restoreTeams : List (Nat × CoreId) → State → Option State
  | [], s => some s
  | e :: l, s => (s.restoreTeam e.1 e.2).bind fun t => t.restoreTeams l

/-- Whether two bins have one key tuple (R222). -/
def Bin.sameKey (a b : Bin) : Bool :=
  a.grid == b.grid && a.sup == b.sup && a.resume == b.resume && a.prio == b.prio && a.key == b.key && a.role == b.role &&
    a.team == b.team

/-- A record enters a bin at the end; a flushed mark is kept. A restored record has a state slot (R220). -/
def Bin.restore (y : Bin) (now : Nat) (flushed : Bool) (r : Rec) : Bin :=
  let r1 : Rec := { r with age := now, stp := true, slots := 2 + (r.nreg + 7) / 8 }
  { y with recs := y.recs ++ [r1], flushed := y.flushed || flushed }

/-- A saved record re-enters its bin: AGE is the restore time. -/
def CoreState.restoreRec (c : CoreState) (b : Bin) (now : Nat) (r : Rec) : CoreState :=
  let empty : Bin := { b with recs := [], waiting := none, room := false }
  { c with bins := upsert (fun y => y.sameKey b) (fun y => y.restore now b.flushed r) empty c.bins }

/-- The saved records re-enter in their saved order, each on the core of its team. -/
def State.restoreBins (s : State) (l : List (CoreId × Bin)) : State :=
  l.foldl
    (fun s e => e.2.recs.foldl
      (fun s r =>
        match s.team? r.thread.team with
        | none => s
        | some t => s.setCore t.core fun c => c.restoreRec e.2 (s.cyclesOf t.core) r) s) s

/-- The parking that a pending event acts on. -/
def State.eventParking (s : State) (part : Nat) (e : PendingEvent) : Option Parking :=
  e.handle.bind fun h => s.parkings.find? fun p => p.part == part && p.handle == some h

/-- Deliver a pending event. The end of a child grid and of a barrier phase stand in the state already: with the delivery they
count (R313). -/
def State.deliverEvent (s : State) (part : Nat) (e : PendingEvent) : State :=
  match s.eventParking part e with
  | none => s
  | some p =>
    match e with
    | .resume _ mode => s.resumeParking p mode
    | .kill _ cause lanesOnly => s.killParking p cause lanesOnly
    | .childDone _ => s
    | .phase _ _ _ _ => s

/-- What a pending event has to wait for, with the links that it needs (R25, R312, R331). -/
def State.eventWaits (s : State) (part : Nat) (e : PendingEvent) : Option (List DieId) :=
  match s.eventParking part e, e with
  | some p, .resume _ mode => s.resumeWaits p mode
  | _, _ => none

/-- What the return of an image waits for, with the links that it needs: the rest of it that is still going to the save area, the
reads of the save area, the pages of a window that moves, and the events that are to be delivered. -/
def State.returnWaits (s : State) (x : Preempt) (place : List (Nat × CoreId)) : Option (List DieId) :=
  let pages := place.flatMap fun e =>
    match (s.team? e.1).bind fun t => (s.grid? t.grid).map fun g => (t, g) with
    | none => []
    | some (t, g) =>
      if g.lrec.dws = 0 ∨ g.ventOf t.num = some (clusterOfCore e.2).1 then []
      else s.windowPlaces g (g.posOf t.num).1
  let events := x.events.filterMap (s.eventWaits x.req.part)
  if s.areaPending x.req.part ∨ !(s.areaDies x.area).all s.linkFlows ∨ pages.any Xl.waits ∨ !events.isEmpty then
    some (s.areaDies x.area ++ pages.flatMap Xl.awaits ++ events.flatten)
  else none

/-- The marked lines that the return of an image moves away from their slices: they are promoted first (R187). -/
def State.returnMarks (s : State) (place : List (Nat × CoreId)) : List Nat :=
  place.flatMap fun e =>
    match (s.team? e.1).bind fun t => (s.grid? t.grid).map fun g => (t, g) with
    | none => []
    | some (t, g) =>
      match g.ventOf t.num with
      | none => []
      | some v =>
        if v = (clusterOfCore e.2).1 then []
        else (s.pinnedWindow g (g.posOf t.num).1 v).filter (s.markLeaves (clusterOfCore e.2).1)

/-- Whether what the cores hold fits: the slots and bins of their continuation stores, their register and scratchpad allotments
with what is kept for launch records, and their groups with those that these are to form (R115, R116, R220). -/
def State.storesFit (s : State) : Bool :=
  s.cores.all fun c =>
    decide (c.usedSlots ≤ 4096 ∧ c.bins.length ≤ 1024 ∧ s.seatedGroups c.id + s.pendingGroups c.id ≤ 256) &&
      (isService c.id || s.granulesFit c.id)

/-- The teams of an image that can come back. -/
def State.imageTeams (s : State) (x : Preempt) : List Nat :=
  (s.teams.filter fun t => t.swapped && t.dead.isNone && s.preemptsTeam x.req t).map (·.key)

/-- The image comes back: `ts` are its teams. Where there is no room nothing changes. The L1s keep what still fits (R115). -/
def State.moveIn (s : State) (x : Preempt) (place : List (Nat × CoreId)) (ts : List Nat) : State :=
  match State.restoreTeams place { s with preempts := s.preempts.filter fun y => y.n != x.n } with
  | none => s
  | some s1 =>
    let s2 := s1.restoreBins x.bins
    if !s2.storesFit then s
    else
      let s3 : State :=
        { s2 with groups := s2.groups.map fun (g : Group) =>
            if g.hasTeam ts then { g with halt := none, run := if g.run = .halted then .running else g.run } else g }
      let s4 := (place.map (·.2)).foldl (fun s c => s.trimL1 c) s3
      x.events.foldl (fun s e => s.deliverEvent x.req.part e) s4

/-- CONTEXT_SWAP_IN: the saved context is restored where `place` puts its teams, over the links of their Vents; then what
happened meanwhile is delivered in its order, and its groups go on. An image that is damaged, in shadow storage or in the save
area, ends its teams with UNCORRECTABLE, and one with a part in a lost line with the cause of its mark (R312, R351, R353). -/
def execContextSwapIn (n : Nat) (place : List (Nat × CoreId)) (s : State) : Out :=
  .next (
    match s.preemptNo n with
    | none => s
    | some x =>
      let ts := s.imageTeams x
      let names := ts.all (fun t => place.any fun e => e.1 == t) && place.all fun e => ts.contains e.1
      if x.saved.isNone ∨ !names ∨ place.length ≠ ts.length ∨ !s.placeTogether place ∨ !s.placeGroups place then s
      else
        match s.returnWaits x place with
        | some ds => s.wakeLinks ds
        | none =>
          if x.bad ∨ !s.areaIntact x.area then
            State.failRestore { s with preempts := s.preempts.filter fun y => y.n != n } ts
              (if x.bad then Cause.uncorrectable else s.restoreCause x.area)
          else if !(s.returnMarks place).isEmpty then s.promoteAll fun m => (s.returnMarks place).contains m.line
          else s.cross (.caldera :: place.map fun e => dieOf e.2) fun s => s.moveIn x place ts)

end Sys2Proof.Machine
end

