-- ==== Sys2Proof/Machine/Sched.lean ====
section
/-! DEFINITION. Heartbeats, hung die schedulers and core-time windows (R309, R318). -/

namespace Sys2Proof.Machine

/-- HEARTBEAT: it goes over the link of the Vent, and an answer is heard. A core that is held in reset gives none: where a hung
scheduler of a live Vent answers again, the root monitor core has returned its Vent's queues to it, DEDUCED (log 101). -/
def execHeartbeat (v : Nat) (answered : Bool) (s : State) : Out :=
  .next (
    if answered then
      s.cross [.caldera, .vent v] fun s =>
        s.onSched v fun d =>
          if !d.hung then { d with seen := s.now }
          else if s.liveVents.contains v then { d with hung := false, adopter := none, seen := s.now }
          else d
    else s)

/-- The silence after which a die scheduler is hung: 100 µs (R309). -/
def hungUnits : Nat := 1600000

/-- When a die scheduler was last heard. -/
def State.lastHeard (s : State) (v : Nat) : Nat := ((s.scheds.find? fun d => d.vent == v).map (·.seen)).getD 0

/-- SCHEDULER_HUNG: the adopter takes over; what its Vent has dispatched, waits for and holds in its child ring stays as
it is, and the messages of its links are consumed as before. -/
def execSchedulerHung (v : Nat) (s : State) : Out :=
  .next (if s.canAdopt v ∧ s.lastHeard v + hungUnits ≤ s.now then s.adoptSched v else s)

/-- TB_WINDOW: a new window of 1 ms begins. -/
def execTbWindow (s : State) : Out := .next { s with parts := s.parts.map fun x => { x with charged := 0 } }

end Sys2Proof.Machine
end

