-- ==== Sys2Proof/Machine/Sys.lean ====
section
/-! DEFINITION. Class 23, SYS: special registers, TIME and TRAP (R33 to R36, R68, R81, R113, R114, R345 to R347). -/

namespace Sys2Proof.Machine

/-! ## Special registers (R81, R113) -/

/-- The package and fabric status words (R31). -/
def TimeReg.pkgWord (t : TimeReg) : W32 := BitVec.ofNat 32 (t.pkgState * 2 ^ 30 + t.pkgBound)
def TimeReg.fabWord (t : TimeReg) : W32 := BitVec.ofNat 32 (t.fabState * 2 ^ 30 + t.fabBound)

/-- Special register `n` of the thread `t` in lane `i` of the group `g`. A service core runs no grid: there the
registers that a grid sets read 0 (log 15). -/
def State.specialReg (s : State) (g : Group) (i : Nat) (t : Thread) (n : Nat) : W32 :=
  let team := s.team? t.team
  let grid := team.bind fun x => s.grid? x.grid
  let num := (team.map (·.num)).getD 0
  let w (x : Nat) : W32 := BitVec.ofNat 32 x
  if n = 0 then w t.tid
  else if n = 1 then w i
  else if n = 2 then w ((g.seat.map (·.gid)).getD 0)
  else if n = 3 then w num
  else if n = 4 then w ((team.map fun x => (placeOf x.core).1).getD 0)
  else if n = 5 then w ((grid.map fun x => (x.posOf num).2).getD 0)
  else if n = 6 then w ((grid.map fun x => (x.posOf num).1).getD 0)
  else if n = 7 then (grid.map (·.id)).getD 0
  else if n = 8 then w g.width
  else if n = 9 then w ((grid.map (·.depth)).getD 0)
  else if n = 10 then w (s.time (dieOf g.core)).value
  else if n = 11 then (s.time (dieOf g.core)).pkgWord
  else if n = 12 then t.splim
  else if n = 13 then t.seed
  else if n = 14 then w ((grid.map fun x => x.pasid % 2 ^ 20).getD 0)
  else w ((grid.map (·.lrec.pvs)).getD 0)

/-- RDSR. -/
def execRdsr (p : Pred) (d : RegNum) (n : BitVec 4) (s : State) : Out :=
  issueWord p 1 [d.toNat] [] s fun g A s =>
    s.advance (g.onLanes A fun i t => t.put d.toNat (s.specialReg g i t n.toNat)) 1

/-- WRSR (R68, R114): `sr.splim`, and `sr.seed`, whose write sets the draw counter to 0. -/
def execWrsr (p : Pred) (n : BitVec 4) (b : OpB) (s : State) : Out :=
  issueWord p (opBLen b) (opBRegs 1 b) (opBRegs 1 b) s fun g A s =>
    if n = 12 then s.advance (g.onLanes A fun _ t => { t with splim := opBWord g t b }) (opBLen b)
    else if n = 13 then s.advance (g.onLanes A fun _ t => { t with seed := opBWord g t b, draw := 0 }) (opBLen b)
    else s.trap g A Cause.illegalInstruction A 0

/-! ## TIME (R34 to R36) -/

/-- TIME.now. -/
def execTimeNow (p : Pred) (sd : RegNum) (s : State) : Out :=
  issueWord p 1 [] [] s fun g _ s =>
    s.advance (g.sPut64 sd.toNat (BitVec.ofNat 64 (s.time (dieOf g.core)).value)) 1

/-- TIME.err. -/
def execTimeErr (p : Pred) (sd : RegNum) (s : State) : Out :=
  issueWord p 1 [] [] s fun g _ s =>
    let t := s.time (dieOf g.core)
    s.advance (g.sPut64 sd.toNat (pairOf t.pkgWord t.fabWord)) 1

/-- TIME.after. -/
def execTimeAfter (p : Pred) (pd : BitVec 3) (sa : RegNum) (s : State) : Out :=
  issueWord p 1 [] [] s fun g A s =>
    let now := (s.time (dieOf g.core)).value % 2 ^ 64
    s.advance (g.onLanes A fun _ t => t.setPred pd (decide ((g.sGet64 sa.toNat).toNat ≤ now))) 1

/-! ## TRAP (R345, R346) -/

/-- The argument blocks of a TRAP: 16 registers of each active lane. -/
def trapBlocks (g : Group) (A : Mask) (a : Nat) : List (Nat × List W32) :=
  (lanesOf A).filterMap fun i => (g.thread? i).map fun t => (i, (List.range 16).map fun k => t.get (a + k))

/-- Park a group without a record (R346, on a service core). -/
def State.parkQuiet (s : State) (g : Group) (A : Mask) (d : Nat) : State :=
  let s1 := s.parkGroup g 1 Cause.software A A 0 0 d []
  { s1 with parts := s1.parts.map fun x => { x with posts := x.posts.filter fun r => r.parking != some s.nextKey } }

/-- TRAP: held until the group has nothing outstanding; then the group parks with a record of its arguments. On a
service core a user-state group parks without a record and the supervisor starts; a supervisor-state group halts
its core. -/
def execTrap (p : Pred) (d a : RegNum) (b : OpS) (s : State) : Out :=
  issueControl p (regsFrom d 16 ++ regsFrom a 16) (regsFrom a 16) s fun g _ _ A s =>
    if !g.cnt.allZero then s
    else
      match g.core with
      | .vent _ _ _ => s.parkGroup g 1 Cause.software A A 0 (opSWord g b) d.toNat (trapBlocks g A a.toNat)
      | .service k => if g.supervisor then s.haltService k else (s.parkQuiet g A d.toNat).superEntry k Cause.software

end Sys2Proof.Machine
end

