-- ==== Sys2Proof/Machine/Time.lean ====
section
/-! DEFINITION. Synchronised time: ticks, the messages of the synchronisation, the servo, holdover and the master's value
(R28 to R32). -/

namespace Sys2Proof.Machine

/-- The nominal increment of a die's register, in units of 2^-32 (R28). -/
def nominalInc (d : DieId) : Nat := (if isCaldera d then 8 else 16) * 2 ^ 32

/-- The increment that the servo sets, within 500 parts per million of the nominal one (R28). -/
def servoInc (d : DieId) (x : Int) : Nat :=
  let n : Int := nominalInc d
  (max (n - n / 2000) (min (n + n / 2000) (n + x))).toNat

/-- How far a bound has grown in HOLDOVER between two readings: 1 unit for every 20,000 (R32). -/
def driftOf (since before now : Nat) : Nat := (now - since) / 20000 - (before - since) / 20000

/-- A tick of a local clock; the reading has 64 bits and wraps. -/
def TimeReg.tick (t : TimeReg) : TimeReg :=
  let x := t.frac + t.inc
  let now := t.value + x / 2 ^ 32
  let g := driftOf t.heldSince t.value now
  { t with
      value := now % 2 ^ 64
      frac := x % 2 ^ 32
      cycles := t.cycles + 1
      pkgBound := if t.pkgState = 3 then min maxBound (t.pkgBound + g) else t.pkgBound
      fabBound := if t.fabState = 3 then min maxBound (t.fabBound + g) else t.fabBound }

/-- The team that a group's positions are charged to: that of its lowest live lane, and of an ended group the team that it
is tracked for. -/
def State.chargedTeam (s : State) (g : Group) : Nat := ((g.lanes.findSome? id).map (·.team)).getD (s.trackedTeam g)

/-- Partitions whose 1 µs boundary has come take what a commit left waiting (R316). -/
def State.settleParts (s : State) : State :=
  if s.parts.all fun x => x.next.isNone then s else { s with parts := s.parts.map fun x => x.settle s.now }

/-- A cycle of a Vent: every team is charged the positions that its groups hold (R306). -/
def State.chargeCycle (s : State) (v : Nat) : State :=
  let l := (s.groups.filterMap fun g => g.seat.map fun x => (x.core, g)).filter fun e => dieOf e.1 == .vent v && !(isService e.1)
  let add (t : Team) : Nat := ((l.filter fun e => s.chargedTeam e.2 == t.key).map fun e => e.2.width).sum
  { s with teams := s.teams.map fun (t : Team) => { t with charge := t.charge + add t } }

/-- Whether a register's reading lies within its package bound of the master's reading `c`, where it has one. -/
def TimeReg.withinBound (t : TimeReg) (c : Nat) : Bool := t.pkgState == 0 || decide (apart t.value c ≤ t.pkgBound)

/-- Whether every admitted Vent's reported bound holds (R32). -/
def State.boundsHold (s : State) : Bool := s.liveVents.all fun v => (s.time (.vent v)).withinBound s.now

/-- TIME_TICK: a cycle of a Vent's clock is also a cycle that its teams are charged for. A tick that would break a bound that
a Vent reports is not due: the clocks run so that the bounds hold (R32). -/
def execTimeTick (d : DieId) (s : State) : Out :=
  .next (
    if !hasTime d ∨ (s.boundsHold ∧ !(s.onTime d TimeReg.tick).boundsHold) then s
    else
      let s1 := (s.onTime d TimeReg.tick).settleParts
      match d with
      | .vent v => s1.chargeCycle v
      | _ => s1)

/-- Without a fabric the two status words are equal (R31). -/
def State.evenWords (s : State) (d : DieId) : State :=
  if s.fabric.isSome then s else s.onTime d fun t => { t with fabState := t.pkgState, fabBound := t.pkgBound }

/-- A sync interval on the package, and on the optical links (R29), in time units. -/
def syncUnits : Nat := 16000
def fabricUnits : Nat := 16 * syncUnits

/-- Send timing messages on an optical port (R29). -/
def State.sendTimed (s : State) (port : Nat) (l : List TimeMsg) : State :=
  s.onPort port fun p => { p with timeOut := p.timeOut ++ l }

/-- As a boundary clock Caldera sends Sync and Follow_Up every 16 µs on each peer port that is up, but for the one toward the
fabric master (R29). -/
def State.opticalSync (s : State) : State :=
  if s.now < (s.time .caldera).lastOpt + fabricUnits then s
  else
    (s.ports.filter fun p => p.peer && p.up && s.fabric != some p.n).foldl
      (fun s p => s.sendTimed p.n [.sync, .followUp s.now]) (s.onTime .caldera fun t => { t with lastOpt := s.now })

/-- SYNC_INTERVAL: Caldera, 1 µs after the last, sends Sync and Follow_Up to every Vent. Its own register is the master's
(R31). -/
def execSyncInterval (s : State) : Out :=
  .next (
    let now := s.now
    if now < (s.time .caldera).lastSync + syncUnits then s
    else
      let s1 := (s.onTime .caldera fun t => { t with lastSync := now, pkgState := 2, pkgBound := 0 }).evenWords .caldera
      (s1.liveVents.foldl
        (fun s v =>
          (s.sendFlit (.vent v) true .timing (.time .sync)).sendFlit (.vent v) true .timing (.time (.followUp now)))
        s1).opticalSync)

/-- The first message of a kind in a die's inbox: its sender, its arrival reading and its value. -/
def TimeReg.take (t : TimeReg) (f : TimeMsg → Option Nat) : Option (DieId × Nat × Nat) :=
  t.inbox.findSome? fun e => (f e.2.2).map fun x => (e.1, e.2.1, x)

/-- The inbox without that message. -/
def dropFirst (p : TimeMsg → Bool) : List (DieId × Nat × TimeMsg) → List (DieId × Nat × TimeMsg)
  | [] => []
  | e :: l => if p e.2.2 then l else e :: dropFirst p l

def msgSync : TimeMsg → Option Nat
  | .sync => some 0
  | _ => none

def msgFollowUp : TimeMsg → Option Nat
  | .followUp x => some x
  | _ => none

def msgReq : TimeMsg → Option Nat
  | .pdelayReq => some 0
  | _ => none

def msgResp : TimeMsg → Option Nat
  | .pdelayResp x => some x
  | _ => none

def msgRespFollowUp : TimeMsg → Option Nat
  | .pdelayRespFollowUp x => some x
  | _ => none

/-- A message of a kind that a die has received, `ext` being what an optical link brings to Caldera, is consumed. -/
def State.withMsg (s : State) (d : DieId) (f : TimeMsg → Option Nat) (ext : Option Nat)
    (k : DieId → Nat → Nat → State → State) : State :=
  match ext with
  | some x => if isCaldera d ∧ s.fabric.isSome then k d (s.time d).value x s else s
  | none =>
    match (s.time d).take f with
    | none => s
    | some (p, at_, x) => k p at_ x (s.onTime d fun t => { t with inbox := dropFirst (fun m => (f m).isSome) t.inbox })

/-- A state that was UNSYNC or HOLDOVER is CONVERGING once Sync messages come (R32). -/
def converging (st : Nat) : Nat := if st = 2 then 2 else 1

/-- SYNC: the arrival is kept, and a link delay measurement starts, over the link that brought the message. -/
def execSync (d : DieId) (ext : Bool) (s : State) : Out :=
  .next (s.withMsg d msgSync (if ext then some 0 else none) fun _ at_ _ s =>
    let now := (s.time d).value
    if isCaldera d then
      let s1 := s.onTime d fun t =>
        { t with syncAt := some at_, fabSync := at_, reqSent := now, fabState := converging t.fabState }
      match s.fabric with
      | none => s1
      | some p => s1.sendTimed p [.pdelayReq]
    else
      ((s.onTime d fun t =>
        { t with syncAt := some at_, lastSync := at_, pkgState := converging t.pkgState }).evenWords
          d).sendFlit d false .timing (.time .pdelayReq))

/-- What a Vent's reading and the master's may lie apart between two ticks: one greatest step of each (R28). -/
def stepBound : Nat := 26

/-- CONVERGING or LOCKED by a bound's ceiling. -/
def lockState (ceiling b : Nat) : Nat := if b ≤ ceiling then 2 else 1

/-- FOLLOW_UP: the offset against the master sets the servo and the status; a device that is not the fabric master jumps
forward once, when it first locks (R30), and the Vents' bounds follow. A Vent's bound is at least one step of both registers,
which no measurement undercuts (log 9). -/
def execFollowUp (d : DieId) (ext : Option Nat) (s : State) : Out :=
  .next (s.withMsg d msgFollowUp ext fun _ _ sent s =>
    let t := s.time d
    match t.syncAt with
    | none => s
    | some r =>
      let off : Int := (sent : Int) + t.delay - r
      let b := Config.syncBound s.fresh off
      let inc := servoInc d (Config.servo s.fresh off)
      let s1 := { s with fresh := s.fresh + 1 }
      if isCaldera d then
        if !t.locked ∧ 0 < off then
          (s1.onTime d fun t =>
            { t with value := (t.value + off.toNat) % 2 ^ 64, frac := 0, locked := true, syncAt := none }).rebound
        else
          s1.onTime d fun t =>
            { t with
                inc := inc, locked := true, syncAt := none
                fabBound := min maxBound b, fabState := lockState fabCeiling b }
      else
        let c := s.time .caldera
        let p := min maxBound (max stepBound (max b (apart t.value c.value)))
        let f := min maxBound (p + c.fabBound)
        (s1.onTime d fun t =>
          { t with
              inc := inc, syncAt := none
              pkgBound := p, pkgState := lockState pkgCeiling p
              fabBound := f, fabState := if c.fabState = 0 then 0 else lockState fabCeiling f }).evenWords d)

/-- PDELAY_REQ: the request is answered in two steps, what an optical port brings on that port. -/
def execPdelayReq (d : DieId) (ext : Option Nat) (s : State) : Out :=
  .next (
    match ext with
    | some n =>
      if isCaldera d ∧ ((s.port? n).map fun p => p.peer && p.up).getD false then
        s.sendTimed n [.pdelayResp s.now, .pdelayRespFollowUp s.now]
      else s
    | none =>
      s.withMsg d msgReq none fun p at_ _ s =>
        let l := if isCaldera d then p else d
        let toDie := isCaldera d
        (s.sendFlit l toDie .timing (.time (.pdelayResp at_))).sendFlit l toDie .timing
          (.time (.pdelayRespFollowUp (s.time d).value)))

/-- The reading at which a die's last Pdelay_Req left on its link (R29), where it has one; Caldera's own leave on its optical
port at once. -/
def State.reqStamp (s : State) (d : DieId) : Option Nat :=
  ((s.link? d).bind fun l => l.lane? false .timing).map (·.stamped)

/-- PDELAY_RESP: when the request left, when the peer received it, and when its answer came. -/
def execPdelayResp (d : DieId) (ext : Option Nat) (s : State) : Out :=
  .next (s.withMsg d msgResp ext fun _ at_ x s => s.onTime d fun t =>
    { t with peerRecv := x, respRecv := at_, reqSent := (s.reqStamp d).getD t.reqSent })

/-- PDELAY_RESP_FOLLOW_UP: the link delay is half of the round trip less the peer's turn-round. -/
def execPdelayRespFollowUp (d : DieId) (ext : Option Nat) (s : State) : Out :=
  .next (s.withMsg d msgRespFollowUp ext fun _ _ x s =>
    s.onTime d fun t => { t with delay := ((t.respRecv - t.reqSent) - (x - t.peerRecv)) / 2 })

/-- HOLDOVER: 4 sync intervals without a Sync. -/
def execHoldover (d : DieId) (s : State) : Out :=
  .next (
    let held (st : Nat) : Nat := if st = 1 ∨ st = 2 then 3 else st
    if isCaldera d then
      s.onTime d fun t =>
        if s.fabric.isSome ∧ (t.fabState = 1 ∨ t.fabState = 2) ∧ t.fabSync + 4 * fabricUnits ≤ t.value then
          { t with fabState := 3, heldSince := t.value }
        else t
    else if !hasTime d then s
    else
      s.onTime d fun t =>
        if (t.pkgState = 1 ∨ t.pkgState = 2) ∧ t.lastSync + 4 * syncUnits ≤ t.value then
          { t with pkgState := 3, fabState := held t.fabState, heldSince := t.value }
        else t)

/-- BOUND_SATURATION. -/
def execBoundSaturation (d : DieId) (s : State) : Out :=
  .next (
    let drop (st b : Nat) : Nat := if st = 3 ∧ maxBound ≤ b then 0 else st
    if hasTime d then
      s.onTime d fun t => { t with pkgState := drop t.pkgState t.pkgBound, fabState := drop t.fabState t.fabBound }
    else s)

/-- MASTER_TIME_WRITE: once, before the first context runs (R30). R28 says that the register never moves backwards and R30
allows the write without a limit: any value is taken, one below the present reading too, DESIGN CHOICE (log 93). The bounds
follow (R32). -/
def execMasterTimeWrite (x : W64) (s : State) : Out :=
  .next (
    if s.masterSet ∨ s.nextGrid ≠ 1 then s
    else { (s.moveMaster fun t => { t with value := x.toNat, frac := 0 }) with masterSet := true })

end Sys2Proof.Machine
end

