-- ==== Sys2Proof/Machine/Xlane.lean ====
section
/-! DEFINITION. Class 9: lanes reading other lanes (R109, R110). -/

namespace Sys2Proof.Machine

/-- SHFL (R110): position i receives the register of lane `src i n` when that lane is in A, else its own. -/
def shflWord (p : Pred) (d a : RegNum) (b : OpB) (src : Nat → Nat → Nat → Option Nat) (s : State) : Out :=
  issueWord p (opBLen b) ([d.toNat, a.toNat] ++ opBRegs 1 b) (a.toNat :: opBRegs 1 b) s fun g A s =>
    collective g A s fun s =>
      s.advance (g.onLanes A fun i t =>
        let own := t.get a.toNat
        t.put d.toNat
          (match src g.width i (opBWord g t b).toNat with
           | none => own
           | some j =>
             if j < g.width ∧ A.getLsbD j then ((g.thread? j).map fun u => u.get a.toNat).getD own else own))
        (opBLen b)

/-- SHFL.idx: lane n mod W. -/
def execShflIdx (p : Pred) (d a : RegNum) (b : OpB) (s : State) : Out :=
  shflWord p d a b (fun w _ n => some (n % w)) s

/-- SHFL.up: lane L - n. -/
def execShflUp (p : Pred) (d a : RegNum) (b : OpB) (s : State) : Out :=
  shflWord p d a b (fun _ i n => if n ≤ i then some (i - n) else none) s

/-- SHFL.down: lane L + n. -/
def execShflDown (p : Pred) (d a : RegNum) (b : OpB) (s : State) : Out :=
  shflWord p d a b (fun _ i n => some (i + n)) s

/-- SHFL.xor: lane L xor (n mod W). -/
def execShflXor (p : Pred) (d a : RegNum) (b : OpB) (s : State) : Out :=
  shflWord p d a b (fun w i n => some (i ^^^ (n % w))) s

/-- A word that reads register `a` of the lanes in `B` alone; an uncorrectable word there terminates the team
(R119). -/
def readLane (g : Group) (A B : Mask) (a : RegNum) (s : State) (k : W32 → State) : State :=
  if g.badRead B [a.toNat] then s.terminateOf g A Cause.uncorrectable
  else k ((((lowLane B).bind g.thread?).map fun t => t.get a.toNat).getD 0)

/-- RDFL: the register of the lowest active lane. -/
def execRdfl (p : Pred) (sd a : RegNum) (s : State) : Out :=
  issueWord p 1 [a.toNat] [] s fun g A s =>
    readLane g A (maskOf fun i => lowLane A == some i) a s fun x => s.advance (g.sPut sd.toNat x) 1

/-- RDLN: the register of lane n if it is active, else 0. -/
def execRdln (p : Pred) (sd a : RegNum) (b : OpS) (s : State) : Out :=
  issueWord p (opSLen b) [a.toNat] [] s fun g A s =>
    let n := (opSWord g b).toNat
    readLane g A (maskOf fun i => i == n && decide (n < g.width) && A.getLsbD i) a s fun x =>
      s.advance (g.sPut sd.toNat x) (opSLen b)

end Sys2Proof.Machine
end

