-- ==== Sys2Proof/Machine/Dispatch.lean ====
section
/-! DEFINITION. The dispatch: one arm per constructor, each a call of that instruction's meaning. -/

namespace Sys2Proof.Machine

def exec (i : Instr) (s : State) : Host.Outcome State Fault Refusal :=
  match i with
  | .iadd p d a b => Sys2Proof.Machine.execIadd p d a b s
  | .isub p d a b => Sys2Proof.Machine.execIsub p d a b s
  | .iaddSatI32 p d a b => Sys2Proof.Machine.execIaddSatI32 p d a b s
  | .isubSatI32 p d a b => Sys2Proof.Machine.execIsubSatI32 p d a b s
  | .imul p d a b => Sys2Proof.Machine.execImul p d a b s
  | .imulhI32 p d a b => Sys2Proof.Machine.execImulhI32 p d a b s
  | .imulhN32 p d a b => Sys2Proof.Machine.execImulhN32 p d a b s
  | .imad p d a b => Sys2Proof.Machine.execImad p d a b s
  | .iminI32 p d a b => Sys2Proof.Machine.execIminI32 p d a b s
  | .iminN32 p d a b => Sys2Proof.Machine.execIminN32 p d a b s
  | .imaxI32 p d a b => Sys2Proof.Machine.execImaxI32 p d a b s
  | .imaxN32 p d a b => Sys2Proof.Machine.execImaxN32 p d a b s
  | .iabs p d a => Sys2Proof.Machine.execIabs p d a s
  | .ineg p d a => Sys2Proof.Machine.execIneg p d a s
  | .iaddSatN32 p d a b => Sys2Proof.Machine.execIaddSatN32 p d a b s
  | .isubSatN32 p d a b => Sys2Proof.Machine.execIsubSatN32 p d a b s
  | .shlB32 p d a b => Sys2Proof.Machine.execShlB32 p d a b s
  | .shrN32 p d a b => Sys2Proof.Machine.execShrN32 p d a b s
  | .shrI32 p d a b => Sys2Proof.Machine.execShrI32 p d a b s
  | .rolB32 p d a b => Sys2Proof.Machine.execRolB32 p d a b s
  | .popc p d a => Sys2Proof.Machine.execPopc p d a s
  | .clz p d a => Sys2Proof.Machine.execClz p d a s
  | .brev p d a => Sys2Proof.Machine.execBrev p d a s
  | .bfeN32 p d a b => Sys2Proof.Machine.execBfeN32 p d a b s
  | .bfeI32 p d a b => Sys2Proof.Machine.execBfeI32 p d a b s
  | .bfi p d a b => Sys2Proof.Machine.execBfi p d a b s
  | .iaddI64 p d a b => Sys2Proof.Machine.execIaddI64 p d a b s
  | .isubI64 p d a b => Sys2Proof.Machine.execIsubI64 p d a b s
  | .imulI64 p d a b => Sys2Proof.Machine.execImulI64 p d a b s
  | .shlB64 p d a b => Sys2Proof.Machine.execShlB64 p d a b s
  | .shrN64 p d a b => Sys2Proof.Machine.execShrN64 p d a b s
  | .shrI64 p d a b => Sys2Proof.Machine.execShrI64 p d a b s
  | .iand p d a b => Sys2Proof.Machine.execIand p d a b s
  | .ior p d a b => Sys2Proof.Machine.execIor p d a b s
  | .ixor p d a b => Sys2Proof.Machine.execIxor p d a b s
  | .iandn p d a b => Sys2Proof.Machine.execIandn p d a b s
  | .cmpI32 p cc pd a b => Sys2Proof.Machine.execCmpI32 p cc pd a b s
  | .cmpN32 p cc pd a b => Sys2Proof.Machine.execCmpN32 p cc pd a b s
  | .cmpI64 p cc pd a b => Sys2Proof.Machine.execCmpI64 p cc pd a b s
  | .cmpN64 p cc pd a b => Sys2Proof.Machine.execCmpN64 p cc pd a b s
  | .sel p k d a b => Sys2Proof.Machine.execSel p k d a b s
  | .mov p d b => Sys2Proof.Machine.execMov p d b s
  | .ldi p u d imm => Sys2Proof.Machine.execLdi p u d imm s
  | .fadd p m d a b => Sys2Proof.Machine.execFadd p m d a b s
  | .fsub p m d a b => Sys2Proof.Machine.execFsub p m d a b s
  | .fmul p m d a b => Sys2Proof.Machine.execFmul p m d a b s
  | .ffma p m d a b => Sys2Proof.Machine.execFfma p m d a b s
  | .fmin p d a b => Sys2Proof.Machine.execFmin p d a b s
  | .fmax p d a b => Sys2Proof.Machine.execFmax p d a b s
  | .fabs p d a => Sys2Proof.Machine.execFabs p d a s
  | .fneg p d a => Sys2Proof.Machine.execFneg p d a s
  | .fcmp p cc pd a b => Sys2Proof.Machine.execFcmp p cc pd a b s
  | .fclass p d a => Sys2Proof.Machine.execFclass p d a s
  | .frcp p d a => Sys2Proof.Machine.execFrcp p d a s
  | .fsqrt p d a => Sys2Proof.Machine.execFsqrt p d a s
  | .frsq p d a => Sys2Proof.Machine.execFrsq p d a s
  | .fexp2 p d a => Sys2Proof.Machine.execFexp2 p d a s
  | .flog2 p d a => Sys2Proof.Machine.execFlog2 p d a s
  | .frint p m d a => Sys2Proof.Machine.execFrint p m d a s
  | .paddBf16 p d a b => Sys2Proof.Machine.execPaddBf16 p d a b s
  | .psubBf16 p d a b => Sys2Proof.Machine.execPsubBf16 p d a b s
  | .pmulBf16 p d a b => Sys2Proof.Machine.execPmulBf16 p d a b s
  | .pfmaBf16 p d a b => Sys2Proof.Machine.execPfmaBf16 p d a b s
  | .pminBf16 p d a b => Sys2Proof.Machine.execPminBf16 p d a b s
  | .pmaxBf16 p d a b => Sys2Proof.Machine.execPmaxBf16 p d a b s
  | .pdotBf16 p d a b => Sys2Proof.Machine.execPdotBf16 p d a b s
  | .pdotE4m3 p d a b => Sys2Proof.Machine.execPdotE4m3 p d a b s
  | .pdotE5m2 p d a b => Sys2Proof.Machine.execPdotE5m2 p d a b s
  | .pminE4m3 p d a b => Sys2Proof.Machine.execPminE4m3 p d a b s
  | .pmaxE4m3 p d a b => Sys2Proof.Machine.execPmaxE4m3 p d a b s
  | .pminE5m2 p d a b => Sys2Proof.Machine.execPminE5m2 p d a b s
  | .pmaxE5m2 p d a b => Sys2Proof.Machine.execPmaxE5m2 p d a b s
  | .cvtBf16F32 p m d a => Sys2Proof.Machine.execCvtBf16F32 p m d a s
  | .cvtE4m3F32 p m d a => Sys2Proof.Machine.execCvtE4m3F32 p m d a s
  | .cvtE5m2F32 p m d a => Sys2Proof.Machine.execCvtE5m2F32 p m d a s
  | .cvtF32Bf16 p d a => Sys2Proof.Machine.execCvtF32Bf16 p d a s
  | .cvtF32E4m3 p d a => Sys2Proof.Machine.execCvtF32E4m3 p d a s
  | .cvtF32E5m2 p d a => Sys2Proof.Machine.execCvtF32E5m2 p d a s
  | .cvtI32F32 p m d a => Sys2Proof.Machine.execCvtI32F32 p m d a s
  | .cvtN32F32 p m d a => Sys2Proof.Machine.execCvtN32F32 p m d a s
  | .cvtF32I32 p m d a => Sys2Proof.Machine.execCvtF32I32 p m d a s
  | .cvtF32N32 p m d a => Sys2Proof.Machine.execCvtF32N32 p m d a s
  | .cvtF32I64 p m d a => Sys2Proof.Machine.execCvtF32I64 p m d a s
  | .packBf16 p m d a => Sys2Proof.Machine.execPackBf16 p m d a s
  | .packE4m3 p m d a => Sys2Proof.Machine.execPackE4m3 p m d a s
  | .packE5m2 p m d a => Sys2Proof.Machine.execPackE5m2 p m d a s
  | .pand p pd pa pb => Sys2Proof.Machine.execPand p pd pa pb s
  | .por p pd pa pb => Sys2Proof.Machine.execPor p pd pa pb s
  | .pxor p pd pa pb => Sys2Proof.Machine.execPxor p pd pa pb s
  | .pandn p pd pa pb => Sys2Proof.Machine.execPandn p pd pa pb s
  | .psave p d => Sys2Proof.Machine.execPsave p d s
  | .prest p a => Sys2Proof.Machine.execPrest p a s
  | .voteAny p pd pa => Sys2Proof.Machine.execVoteAny p pd pa s
  | .voteAll p pd pa => Sys2Proof.Machine.execVoteAll p pd pa s
  | .voteBallot p sd pa => Sys2Proof.Machine.execVoteBallot p sd pa s
  | .voteEq p pd a => Sys2Proof.Machine.execVoteEq p pd a s
  | .shflIdx p d a b => Sys2Proof.Machine.execShflIdx p d a b s
  | .shflUp p d a b => Sys2Proof.Machine.execShflUp p d a b s
  | .shflDown p d a b => Sys2Proof.Machine.execShflDown p d a b s
  | .shflXor p d a b => Sys2Proof.Machine.execShflXor p d a b s
  | .rdfl p sd a => Sys2Proof.Machine.execRdfl p sd a s
  | .rdln p sd a b => Sys2Proof.Machine.execRdln p sd a b s
  | .bra p off => Sys2Proof.Machine.execBra p off s
  | .call p off => Sys2Proof.Machine.execCall p off s
  | .nop p => Sys2Proof.Machine.execNop p s
  | .tail p => Sys2Proof.Machine.execTail p s
  | .yield p => Sys2Proof.Machine.execYield p s
  | .spawn p sd ps => Sys2Proof.Machine.execSpawn p sd ps s
  | .regroup p l vkey b => Sys2Proof.Machine.execRegroup p l vkey b s
  | .regroupFlush p => Sys2Proof.Machine.execRegroupFlush p s
  | .ret p => Sys2Proof.Machine.execRet p s
  | .jmp p sa => Sys2Proof.Machine.execJmp p sa s
  | .callUniform p sa => Sys2Proof.Machine.execCallUniform p sa s
  | .ldB8 p d m => Sys2Proof.Machine.execLdB8 p d m s
  | .ldB16 p d m => Sys2Proof.Machine.execLdB16 p d m s
  | .ldB32 p d m => Sys2Proof.Machine.execLdB32 p d m s
  | .ldB64 p d m => Sys2Proof.Machine.execLdB64 p d m s
  | .ldB128 p d m => Sys2Proof.Machine.execLdB128 p d m s
  | .ldI8 p d m => Sys2Proof.Machine.execLdI8 p d m s
  | .ldI16 p d m => Sys2Proof.Machine.execLdI16 p d m s
  | .stB8 p d m => Sys2Proof.Machine.execStB8 p d m s
  | .stB16 p d m => Sys2Proof.Machine.execStB16 p d m s
  | .stB32 p d m => Sys2Proof.Machine.execStB32 p d m s
  | .stB64 p d m => Sys2Proof.Machine.execStB64 p d m s
  | .stB128 p d m => Sys2Proof.Machine.execStB128 p d m s
  | .atomLd p x => Sys2Proof.Machine.execAtomLd p x s
  | .atomSt p x => Sys2Proof.Machine.execAtomSt p x s
  | .atomAdd p x => Sys2Proof.Machine.execAtomAdd p x s
  | .atomAnd p x => Sys2Proof.Machine.execAtomAnd p x s
  | .atomOr p x => Sys2Proof.Machine.execAtomOr p x s
  | .atomXor p x => Sys2Proof.Machine.execAtomXor p x s
  | .atomMinI p x => Sys2Proof.Machine.execAtomMinI p x s
  | .atomMinN p x => Sys2Proof.Machine.execAtomMinN p x s
  | .atomMaxI p x => Sys2Proof.Machine.execAtomMaxI p x s
  | .atomMaxN p x => Sys2Proof.Machine.execAtomMaxN p x s
  | .atomSwap p x => Sys2Proof.Machine.execAtomSwap p x s
  | .atomCas p x => Sys2Proof.Machine.execAtomCas p x s
  | .atomLdRemote p d a b64 => Sys2Proof.Machine.execAtomLdRemote p d a b64 s
  | .fence p k scope => Sys2Proof.Machine.execFence p k scope s
  | .xfence p from_ to_ => Sys2Proof.Machine.execXfence p from_ to_ s
  | .cflush p a => Sys2Proof.Machine.execCflush p a s
  | .cinv p a => Sys2Proof.Machine.execCinv p a s
  | .cpref p a => Sys2Proof.Machine.execCpref p a s
  | .czero p a => Sys2Proof.Machine.execCzero p a s
  | .iinv p => Sys2Proof.Machine.execIinv p s
  | .hinit p d a b => Sys2Proof.Machine.execHinit p d a b s
  | .help p a => Sys2Proof.Machine.execHelp p a s
  | .lda p d a b => Sys2Proof.Machine.execLda p d a b s
  | .apply p d a b => Sys2Proof.Machine.execApply p d a b s
  | .ares p d a b => Sys2Proof.Machine.execAres p d a b s
  | .arel p a b => Sys2Proof.Machine.execArel p a b s
  | .annAdd p d a b => Sys2Proof.Machine.execAnnAdd p d a b s
  | .annAnd p d a b => Sys2Proof.Machine.execAnnAnd p d a b s
  | .annOr p d a b => Sys2Proof.Machine.execAnnOr p d a b s
  | .annXor p d a b => Sys2Proof.Machine.execAnnXor p d a b s
  | .annMin p d a b => Sys2Proof.Machine.execAnnMin p d a b s
  | .annMax p d a b => Sys2Proof.Machine.execAnnMax p d a b s
  | .annSwap p d a b => Sys2Proof.Machine.execAnnSwap p d a b s
  | .annCas p d a b => Sys2Proof.Machine.execAnnCas p d a b s
  | .annCas2 p d a b => Sys2Proof.Machine.execAnnCas2 p d a b s
  | .annSw p d a b => Sys2Proof.Machine.execAnnSw p d a b s
  | .barrTeam p d => Sys2Proof.Machine.execBarrTeam p d s
  | .barrCluster p d => Sys2Proof.Machine.execBarrCluster p d s
  | .barrDie p d => Sys2Proof.Machine.execBarrDie p d s
  | .barrGrid p d => Sys2Proof.Machine.execBarrGrid p d s
  | .btstTeam p pd b => Sys2Proof.Machine.execBtstTeam p pd b s
  | .btstCluster p pd b => Sys2Proof.Machine.execBtstCluster p pd b s
  | .btstDie p pd b => Sys2Proof.Machine.execBtstDie p pd b s
  | .btstGrid p pd b => Sys2Proof.Machine.execBtstGrid p pd b s
  | .swset p a b => Sys2Proof.Machine.execSwset p a b s
  | .swtst p pd a b => Sys2Proof.Machine.execSwtst p pd a b s
  | .wait p ld st cp tl => Sys2Proof.Machine.execWait p ld st cp tl s
  | .cpyB32 p x => Sys2Proof.Machine.execCpyB32 p x s
  | .cpyB64 p x => Sys2Proof.Machine.execCpyB64 p x s
  | .cpyB128 p x => Sys2Proof.Machine.execCpyB128 p x s
  | .bcpy p ps => Sys2Proof.Machine.execBcpy p ps s
  | .get p ps => Sys2Proof.Machine.execGet p ps s
  | .mma p reuse ps => Sys2Proof.Machine.execMma p reuse ps s
  | .tld p ps => Sys2Proof.Machine.execTld p ps s
  | .tst p ps => Sys2Proof.Machine.execTst p ps s
  | .tzero p t => Sys2Proof.Machine.execTzero p t s
  | .epi p ps => Sys2Proof.Machine.execEpi p ps s
  | .bfly p ps => Sys2Proof.Machine.execBfly p ps s
  | .gather p ps => Sys2Proof.Machine.execGather p ps s
  | .dist p ps => Sys2Proof.Machine.execDist p ps s
  | .topk p ps => Sys2Proof.Machine.execTopk p ps s
  | .rdsr p d n => Sys2Proof.Machine.execRdsr p d n s
  | .wrsr p n b => Sys2Proof.Machine.execWrsr p n b s
  | .trap p d a b => Sys2Proof.Machine.execTrap p d a b s
  | .timeNow p sd => Sys2Proof.Machine.execTimeNow p sd s
  | .timeErr p sd => Sys2Proof.Machine.execTimeErr p sd s
  | .timeAfter p pd sa => Sys2Proof.Machine.execTimeAfter p pd sa s
  | .resume p sd sa b => Sys2Proof.Machine.execResume p sd sa b s
  | .kill p sd sa b => Sys2Proof.Machine.execKill p sd sa b s
  | .srdsr p sd n b => Sys2Proof.Machine.execSrdsr p sd n b s
  | .swrsr p n sa b => Sys2Proof.Machine.execSwrsr p n sa b s
  | .sret p sa => Sys2Proof.Machine.execSret p sa s
  | .tlbinv p m sa sb => Sys2Proof.Machine.execTlbinv p m sa sb s
  | .keynew p sd sa => Sys2Proof.Machine.execKeynew p sd sa s
  | .queueOpen q part desc => Sys2Proof.Machine.execQueueOpen q part desc s
  | .queueStop q => Sys2Proof.Machine.execQueueStop q s
  | .queueRestart q => Sys2Proof.Machine.execQueueRestart q s
  | .queueClose q => Sys2Proof.Machine.execQueueClose q s
  | .queueReset q part desc => Sys2Proof.Machine.execQueueReset q part desc s
  | .partitionCommit p desc => Sys2Proof.Machine.execPartitionCommit p desc s
  | .coldReset o => Sys2Proof.Machine.execColdReset o s
  | .firmwareImageReplacement o => Sys2Proof.Machine.execFirmwareImageReplacement o s
  | .flitDelivery l toDie ch fate => Sys2Proof.Machine.execFlitDelivery l toDie ch fate s
  | .handshakeToken l toDie ch ack credits stamp => Sys2Proof.Machine.execHandshakeToken l toDie ch ack credits stamp s
  | .linkIdleTimeout l => Sys2Proof.Machine.execLinkIdleTimeout l s
  | .linkUp l => Sys2Proof.Machine.execLinkUp l s
  | .wakeTimeout l => Sys2Proof.Machine.execWakeTimeout l s
  | .trainingAttemptEnd l ok => Sys2Proof.Machine.execTrainingAttemptEnd l ok s
  | .timeTick d => Sys2Proof.Machine.execTimeTick d s
  | .syncInterval => Sys2Proof.Machine.execSyncInterval s
  | .sync d ext => Sys2Proof.Machine.execSync d ext s
  | .followUp d ext => Sys2Proof.Machine.execFollowUp d ext s
  | .pdelayReq d ext => Sys2Proof.Machine.execPdelayReq d ext s
  | .pdelayResp d ext => Sys2Proof.Machine.execPdelayResp d ext s
  | .pdelayRespFollowUp d ext => Sys2Proof.Machine.execPdelayRespFollowUp d ext s
  | .holdover d => Sys2Proof.Machine.execHoldover d s
  | .boundSaturation d => Sys2Proof.Machine.execBoundSaturation d s
  | .masterTimeWrite t => Sys2Proof.Machine.execMasterTimeWrite t s
  | .issueTurn core slot refetch => Sys2Proof.Machine.execIssueTurn core slot refetch s
  | .starvationPromotion g => Sys2Proof.Machine.execStarvationPromotion g s
  | .haltWordLimit g => Sys2Proof.Machine.execHaltWordLimit g s
  | .groupHaltComplete g => Sys2Proof.Machine.execGroupHaltComplete g s
  | .yieldExpiry g => Sys2Proof.Machine.execYieldExpiry g s
  | .loadCompletion op accs refill => Sys2Proof.Machine.execLoadCompletion op accs refill s
  | .storeCompletion op accs => Sys2Proof.Machine.execStoreCompletion op accs s
  | .atomicPerform op accs => Sys2Proof.Machine.execAtomicPerform op accs s
  | .promotionRequest core line => Sys2Proof.Machine.execPromotionRequest core line s
  | .promotionAnswer line => Sys2Proof.Machine.execPromotionAnswer line s
  | .hobPerform op accs => Sys2Proof.Machine.execHobPerform op accs s
  | .l1LogicalTick core => Sys2Proof.Machine.execL1LogicalTick core s
  | .directoryInvalidation line vent => Sys2Proof.Machine.execDirectoryInvalidation line vent s
  | .invalidationAck line vent => Sys2Proof.Machine.execInvalidationAck line vent s
  | .pageWalkComplete core part ctx va => Sys2Proof.Machine.execPageWalkComplete core part ctx va s
  | .patrolScrub site uncorrectable => Sys2Proof.Machine.execPatrolScrub site uncorrectable s
  | .bankGate u => Sys2Proof.Machine.execBankGate u s
  | .bankWake u => Sys2Proof.Machine.execBankWake u s
  | .bankWakeComplete u ok => Sys2Proof.Machine.execBankWakeComplete u ok s
  | .tlbinvComplete op => Sys2Proof.Machine.execTlbinvComplete op s
  | .groupFormation core => Sys2Proof.Machine.execGroupFormation core s
  | .binAgeFlush core => Sys2Proof.Machine.execBinAgeFlush core s
  | .binIdleFlush core => Sys2Proof.Machine.execBinIdleFlush core s
  | .binRoomReserve core => Sys2Proof.Machine.execBinRoomReserve core s
  | .teamPlacement grid num v c k => Sys2Proof.Machine.execTeamPlacement grid num v c k s
  | .groupRetirement g => Sys2Proof.Machine.execGroupRetirement g s
  | .teamComplete team => Sys2Proof.Machine.execTeamComplete team s
  | .chargeReport v c => Sys2Proof.Machine.execChargeReport v c s
  | .gridComplete grid => Sys2Proof.Machine.execGridComplete grid s
  | .childLaunch v => Sys2Proof.Machine.execChildLaunch v s
  | .matrixCommandComplete op residueOk => Sys2Proof.Machine.execMatrixCommandComplete op residueOk s
  | .copyTransfer op parts storage => Sys2Proof.Machine.execCopyTransfer op parts storage s
  | .copyComplete op => Sys2Proof.Machine.execCopyComplete op s
  | .copyFault op storageError => Sys2Proof.Machine.execCopyFault op storageError s
  | .getTimeout op => Sys2Proof.Machine.execGetTimeout op s
  | .gatherCommandComplete op => Sys2Proof.Machine.execGatherCommandComplete op s
  | .faultAfterIssue n => Sys2Proof.Machine.execFaultAfterIssue n s
  | .ringPost part => Sys2Proof.Machine.execRingPost part s
  | .lockstepMismatchServiceCore k => Sys2Proof.Machine.execLockstepMismatchServiceCore k s
  | .lockstepMismatchCommandProcessor => Sys2Proof.Machine.execLockstepMismatchCommandProcessor s
  | .lockstepMismatchRootMonitor => Sys2Proof.Machine.execLockstepMismatchRootMonitor s
  | .kernelEntry k => Sys2Proof.Machine.execKernelEntry k s
  | .launch q ord lrec done => Sys2Proof.Machine.execLaunch q ord lrec done s
  | .launchAt q ord repl lrec done start peers gen => Sys2Proof.Machine.execLaunchAt q ord repl lrec done start peers gen s
  | .graph q ord gdesc done => Sys2Proof.Machine.execGraph q ord gdesc done s
  | .signal q addr value add => Sys2Proof.Machine.execSignal q addr value add s
  | .after q addr value kind timeout => Sys2Proof.Machine.execAfter q addr value kind timeout s
  | .dispatch => Sys2Proof.Machine.execDispatch s
  | .watchedLineRead entry => Sys2Proof.Machine.execWatchedLineRead entry s
  | .afterPoll q => Sys2Proof.Machine.execAfterPoll q s
  | .afterTimeout q => Sys2Proof.Machine.execAfterTimeout q s
  | .launchAtStart grid v => Sys2Proof.Machine.execLaunchAtStart grid v s
  | .replicatedCopyReceive q c => Sys2Proof.Machine.execReplicatedCopyReceive q c s
  | .graphNodeStart launch node => Sys2Proof.Machine.execGraphNodeStart launch node s
  | .heartbeat v answered => Sys2Proof.Machine.execHeartbeat v answered s
  | .schedulerHung v => Sys2Proof.Machine.execSchedulerHung v s
  | .commandLinkMessage v c toLeaf => Sys2Proof.Machine.execCommandLinkMessage v c toLeaf s
  | .preemptRequest r => Sys2Proof.Machine.execPreemptRequest r s
  | .placementWaitTimeout grid => Sys2Proof.Machine.execPlacementWaitTimeout grid s
  | .preemptHalt n => Sys2Proof.Machine.execPreemptHalt n s
  | .preemptKill n => Sys2Proof.Machine.execPreemptKill n s
  | .contextSwapOut n => Sys2Proof.Machine.execContextSwapOut n s
  | .contextSwapIn n place => Sys2Proof.Machine.execContextSwapIn n place s
  | .keynewComplete op => Sys2Proof.Machine.execKeynewComplete op s
  | .tbWindow => Sys2Proof.Machine.execTbWindow s
  | .supervisorRegisterWrite k n idx value => Sys2Proof.Machine.execSupervisorRegisterWrite k n idx value s
  | .hostCxlMemAccess port x => Sys2Proof.Machine.execHostCxlMemAccess port x s
  | .backInvalidateAck port line => Sys2Proof.Machine.execBackInvalidateAck port line s
  | .hostLinkDown port => Sys2Proof.Machine.execHostLinkDown port s
  | .hostLinkReturn port => Sys2Proof.Machine.execHostLinkReturn port s
  | .hostQuarantineExpiry port => Sys2Proof.Machine.execHostQuarantineExpiry port s
  | .cxlCacheSnoop port line k => Sys2Proof.Machine.execCxlCacheSnoop port line k s
  | .portTraining port up master => Sys2Proof.Machine.execPortTraining port up master s

end Sys2Proof.Machine
end

