-- ==== Sys2Proof/Machine/Drive.lean ====
section
/-! DEFINITION. The model's own choice of the next event where none is given (log 3), and the load that stands for
a program placed from outside (log 5). -/

namespace Sys2Proof.Machine

/-! ## The model's own choice (log 3) -/

/-- A move that may be the next: none where it changes nothing. -/
def Out.changes (o : Out) (s : State) : Option State :=
  match o with
  | .next t => if t = s then none else some t
  | _ => none

/-- The first of some moves that changes the state. -/
def firstChange (s : State) : List (State → Out) → Option State
  | [] => none
  | f :: l =>
    match (f s).changes s with
    | some t => some t
    | none => firstChange s l

/-- The completion of an outstanding operation, as far as it can go; a KEYNEW completes in its partition's turn at the key store
(R321). -/
def opMoves (o : Op) : List (State → Out) :=
  let ns := o.accs.map (·.n)
  match o.kind with
  | .load _ _ _ => [execLoadCompletion o.id ns false]
  | .store => [execStoreCompletion o.id ns]
  | .atom _ _ _ _ _ => [execAtomicPerform o.id ns]
  | .hob _ _ => [execHobPerform o.id ns]
  | .flush => [execStoreCompletion o.id ns]
  | .barr _ _ => [execLoadCompletion o.id ns false]
  | .btst _ _ => [execLoadCompletion o.id ns false]
  | .swset => [execStoreCompletion o.id ns]
  | .swtst _ => [execLoadCompletion o.id ns false]
  | .tlbinv _ _ _ _ => [execTlbinvComplete o.id]
  | .keynew _ _ _ => []
  | .cpy _ => [execCopyTransfer o.id ns [], execCopyComplete o.id]
  | .bulk b => [execCopyTransfer o.id (List.range (b.width * b.height)) [], execCopyComplete o.id, execCopyFault o.id false,
      execGetTimeout o.id]
  | .matrix _ => [execMatrixCommandComplete o.id true]
  | .gather _ => [execGatherCommandComplete o.id]

/-- The token that gives a lane all its credits back. -/
def State.tokenFor (s : State) (l : Link) (x : Lane) : State → Out :=
  execHandshakeToken l.die x.toDie x.ch (x.expect - 1) (Config.flitCredits - x.credits - (x.nextSeq - x.expect))
    (s.time (receiverOf l.die x.toDie)).value

/-- What a die's time synchronisation has received, or is due for. -/
def timeMoves (d : DieId) : List (State → Out) :=
  [execSync d false, execFollowUp d none, execPdelayReq d none, execPdelayResp d none, execPdelayRespFollowUp d none,
    execHoldover d, execBoundSaturation d]

/-- What directory requests, links, promotions and the time registers wait for. -/
def State.trafficMoves (s : State) : List (State → Out) :=
  (s.links.flatMap fun l =>
      [execLinkUp l.die, execWakeTimeout l.die] ++
        (l.lanes.filter fun x => !x.inflight.isEmpty).map (fun x => execFlitDelivery l.die x.toDie x.ch .ok) ++
        ((l.lanes.filter fun x => !x.inflight.isEmpty && l.st == .dead).map fun x =>
          execFlitDelivery l.die x.toDie x.ch (.undeliverable true true)) ++
        (l.lanes.filter fun x => decide (2 * x.credits < Config.flitCredits) || (x.inflight.isEmpty && !x.replay.isEmpty)).map
          fun x => s.tokenFor l x) ++
    (execSyncInterval :: ((s.times.map (·.die)).flatMap timeMoves)) ++
    (s.ownReqs.flatMap fun r =>
      (if r.toInv.isEmpty && r.toAck.isEmpty then [execInvalidationAck r.line r.vent] else []) ++
        (r.toInv.map fun v => execDirectoryInvalidation r.line v) ++
        r.toAck.map fun v =>
          if 100 ≤ v ∧ v < 200 then execBackInvalidateAck (v - 100) r.line else execInvalidationAck r.line v) ++
    (s.narrow.flatMap fun m => [execPromotionRequest m.core m.line, execPromotionAnswer m.line]) ++
    [fun s => .next s.drainDevWrites, fun s => .next s.drainPorts, fun s => .next s.resumeQueues]

/-- Numbers in ascending order, beginning after `n` and going round (R321). -/
def roundAfter (n : Nat) (l : List Nat) : List Nat :=
  let k := sortNat l
  (k.filter fun x => decide (n < x)) ++ k.filter fun x => decide (x ≤ n)

/-- The shared path and the key store serve the partitions' requests in turn, with equal quanta of one request (R321): a request's
event comes next, and a KEYNEW completes. -/
def State.serveRequest (s : State) : State :=
  match (roundAfter s.served ((s.parts.filter fun x => !x.requests.isEmpty).map (·.num))).head?.bind s.part? with
  | none => s
  | some x =>
    let s1 : State := { (s.onPart x.num fun x => { x with requests := x.requests.tail }) with served := x.num }
    match x.requests.head? with
    | none => s1
    | some (.event i) => { s1 with agenda := s1.agenda ++ [i] }
    | some (.keynew op) => s1.completeKeynew op

/-- Faults and records that wait, groups, teams and grids that have ended, and the command processor's work. -/
def State.workMoves (s : State) : List (State → Out) :=
  (fun s => .next s.serveRequest) :: ((List.range s.lateFaults.length).map execFaultAfterIssue) ++
    ((roundAfter s.posted (s.parts.map (·.num))).map execRingPost) ++
    ((s.groups.filter (·.ended)).map fun g => execGroupRetirement g.key) ++
    ((s.groups.filter fun g => g.run == .halted && g.halt.isSome).map fun g => execGroupHaltComplete g.key) ++
    (s.teams.map fun t => execTeamComplete t.key) ++ (s.grids.map fun x => execGridComplete x.key) ++
    (s.cmdLinks.map fun l => execCommandLinkMessage l.vent l.cluster l.toLeaf) ++
    (s.scheds.map fun d => execChildLaunch d.vent) ++
    (s.launches.flatMap fun l => (List.range l.inst.nodes.length).map fun n => execGraphNodeStart l.key n) ++
    ((s.queues.filter fun q => q.after.isSome).map fun q => execAfterTimeout q.num) ++
    (s.preempts.flatMap fun x => [execPreemptHalt x.n, execPreemptKill x.n, execContextSwapOut x.n])

/-- A SIGNAL or an AFTER at the head of a queue starts. -/
def State.headMoves (s : State) : List (State → Out) :=
  s.queues.flatMap fun x =>
    match s.headCmd x with
    | .cmd _ (.signal a v add) => [execSignal x.num a v add]
    | .cmd _ (.after a v k t) => [execAfter x.num a v k t]
    | _ => []

/-- What the clocks and counts of cores, grids and ports make due. -/
def State.dueMoves (s : State) : List (State → Out) :=
  ((s.cores.filter fun c => !c.l1.isEmpty).map fun c => execL1LogicalTick c.id) ++
    ((s.cores.filter fun c => !c.bins.isEmpty).map fun c => execBinRoomReserve c.id) ++
    (s.groups.flatMap fun g => [execStarvationPromotion g.key, execYieldExpiry g.key, execHaltWordLimit g.key]) ++
    ((s.grids.filter Grid.waits).map fun x => execPlacementWaitTimeout x.key) ++
    (s.ports.map fun p => execHostQuarantineExpiry p.n) ++ (s.parts.map fun x => execKernelEntry x.num)

/-- The placement of a waiting grid's next teams, on the core with the fewest teams if that may be. -/
def State.placeMoves (s : State) : List (State → Out) :=
  (s.grids.filter Grid.waits).flatMap fun x =>
    x.clusters.flatMap fun e =>
      match x.nextTeam e.1 e.2.1 with
      | none => []
      | some n =>
        ((s.pickCore x n e.2.2.1 e.2.2.2).toList ++ List.range 16).map fun k =>
          execTeamPlacement x.key n e.2.2.1 e.2.2.2 k

/-- The former's work, and starts at an instant. -/
def State.formMoves (s : State) : List (State → Out) :=
  (s.grids.flatMap fun x => s.liveVents.map fun v => execLaunchAtStart x.key v) ++
    (s.cores.map fun c => execGroupFormation c.id) ++
    ((s.groups.filter fun g => g.seat.isNone && !g.ended).map fun g => execGroupFormation g.core)

/-- The return of saved contexts to the cores that their teams were on. -/
def State.returnMoves (s : State) : List (State → Out) :=
  (s.preempts.filter fun x => x.saved.isSome).map fun x =>
    execContextSwapIn x.n ((s.imageTeams x).map fun k => (k, ((s.team? k).map (·.core)).getD (.service 0)))

/-- What goes round in turn: the slots that hold groups, the queues, and the clocks. -/
def State.roundMoves (s : State) : List (State → Out) :=
  let seats := ((s.groups.filterMap fun g => g.seat.map fun x => (x.core, x.slot))).dedup
  (seats.map fun e => execIssueTurn e.1 e.2 false) ++
    (s.cores.filter fun c => !c.bins.isEmpty).flatMap (fun c => [execBinAgeFlush c.id, execBinIdleFlush c.id]) ++
    (s.monitors.map fun m => execWatchedLineRead m.entry) ++ (s.queues.map fun q => execAfterPoll q.num) ++
    [execDispatch, execTimeTick .caldera] ++ (s.liveVents.map fun v => execTimeTick (.vent v)) ++ [execTimeTick .caldera]

/-- One move of the round: the one whose turn it is. -/
def State.roundMove (s : State) : Out :=
  let l := s.roundMoves
  let t : State := { s with round := s.round + 1 }
  match l[s.round % l.length]? with
  | none => .next t
  | some f => f t

/-- The event that the machine takes of itself: what is outstanding first, and else one move of the round. -/
def autoMove (s : State) : Out :=
  match firstChange s ((s.ops.flatMap opMoves) ++ s.trafficMoves ++ s.workMoves ++ s.headMoves ++ s.dueMoves ++ s.placeMoves ++
      s.formMoves ++ s.returnMoves) with
  | some t => .next t
  | none => s.roundMove

/-! ## A program loaded from outside (log 5) -/

/-- The header that goes before one instruction (R38, R40): its clause class, no wait, no safe point, priority 0. -/
def headerFor (x : W32) : W32 :=
  BitVec.ofNat 32 ((if litFollows x then 2 else 1) * 2 ^ 28 + ((clauseClass x).getD 0) * 2 ^ 26 + 0xFFF000)

/-- The device memory that `placeWord` uses as its code base, mapped at the same virtual address. -/
def placeBase : Nat := 2 ^ 20

/-- The launch record of the grid that `placeWord` makes: one team of 64 threads, the largest allotments. -/
def placeRecord : LaunchRec :=
  { cb := BitVec.ofNat 64 placeBase, d := 1, cl := 1, width := 64, cor := true, t := 1, threads := 64, nroles := 1
    tiles := 16, scratch := 2 ^ 19, cws := 2 ^ 18, wsize := 2 ^ 18, asize := 2 ^ 17, dws := 0, dwb := 0
    pvb := BitVec.ofNat 64 (2 ^ 24), pvs := 4096, splim := 0, seed := 0, sptn := 0, spta := 0
    roles := [⟨0, 64, 64⟩] }

/-- A device whose 24 dies are all admitted. -/
def DevInfo.full : DevInfo := ⟨0xFFFF, 0xFF, List.range 16, List.range 8, true, 1, 1⟩

/-- A program loaded from outside: one group of 64 lanes whose next word, in a clause of its own, is the
instruction with bits `w`; on a service core in supervisor state for class 24, else on core 0 of Vent 0. -/
def State.placeWord (s : State) (nbits w : Nat) : State :=
  let x := w % 2 ^ nbits
  let w0 : W32 := BitVec.ofNat 32 x
  let w1 : W32 := BitVec.ofNat 32 (x / 2 ^ 32)
  let sup := decide (w0.toNat / 2 ^ 27 = 24)
  let core : CoreId := if sup then .service 0 else .vent 0 0 0
  let k := s.nextKey
  let info := if s.info.bootVents.isEmpty ∨ s.info.bootSprings.isEmpty then DevInfo.full else s.info
  let desc : PartDesc := { PartDesc.empty with clmask := 1, m0base := 0, m0size := 2 ^ 32, qcount := 16 }
  let part : Part :=
    { Part.reset 0 with
        status := 1, keyId := 1, desc := desc, cb := BitVec.ofNat 64 placeBase
        ctxp := [(0, 0x80000000)], ctxr := [(0, BitVec.ofNat 64 (2 ^ 21))]
        walkp := [(0, 0x80000000)], walkr := [(0, BitVec.ofNat 64 (2 ^ 21))] }
  let grid : Grid :=
    { key := k, id := s.nextGrid, part := 0, ctx := 0, pasid := 0, depth := 0, lrec := placeRecord, queue := none
      level := 0, parent := none, done := 0, clusters := [(0, 0, 0, 0)], ready := [(0, 0)], placed := [0], completed := []
      cause := none
      barriers := [⟨.cluster, 0, 0, ⟨0, 0, 64⟩⟩, ⟨.die, 0, 0, ⟨0, 0, 64⟩⟩, ⟨.grid, 0, 0, ⟨0, 0, 64⟩⟩]
      held := none, started := [], waitSince := 0, blocking := false, launch := none, soft := false
      sup := false }
  let team : Team :=
    { key := k + 1, grid := if sup then 0 else k, num := 0, core := core, tslot := 0, scratch := [], w := [], a := []
      tiles := [], poison := 0, barrier := ⟨0, 0, 64⟩, ended := 0, charge := 0, reported := 0, dead := none
      swapped := false, badSc := [], badW := [], badA := [] }
  let lanes := (List.range 64).map fun i => some (Thread.launched i (k + 1) 0 0)
  let group := Group.formed (k + 2) (if sup then 0 else k) 0 64 64 core (some ⟨core, 0, 0, 0, 0⟩) 0
    (BitVec.ofNat 64 placeBase) lanes sup
  let tlb : List Tlb := [⟨0, 0, 0, 30, 0x1F⟩]
  let s1 : State :=
    { s with
        info := info
        issueQ := [k + 2]
        nextKey := k + 3
        nextGrid := s.nextGrid + 1
        parts := part :: s.parts.filter fun p => p.num != 0
        grids := if sup then s.grids else s.grids ++ [grid]
        teams := s.teams ++ [team]
        groups := s.groups ++ [group]
        cores := { CoreState.empty core with tlb := tlb } :: s.cores.filter fun c => c.id != core }
  s1.writeBytes placeBase (bytesOfWord (headerFor w0) ++ bytesOfWord w0 ++ bytesOfWord w1)

end Sys2Proof.Machine
end

