-- ==== Sys2Proof/Machine/Step.lean ====
section
/-! DEFINITION. One step of the machine: the next word of the group that issues, or else the next event of the
agenda, or else the event that the machine takes of itself (log 3). -/

namespace Sys2Proof.Machine

/-- One step. -/
def step (s : State) : Host.Outcome State Fault Refusal :=
  match s.issueQ with
  | _ :: _ =>
    match s.readyNext with
    | .run i t => exec i t
    | .done t => .next t
  | [] =>
    match s.agenda with
    | e :: l => exec e { s with agenda := l }
    | [] => autoMove s

/-- The state with one instruction placed so that the very next step fetches and runs it (log 5). -/
def State.withFetchWord (s : State) (nbits w : Nat) : State := s.placeWord nbits w

end Sys2Proof.Machine
end

