-- ==== Sys2Proof/Safety.lean ====
section
/-! DEFINITION. What counts as a safe state and a safe step, and the terms in which claims say what a word does: when it
runs, what it changes, and what it leaves alone. -/

namespace Sys2Proof.Safety

open Sys2Proof.Machine

/-- Memory is in its one canonical form. -/
def MemoryCanonical (s : State) : Prop := s.memWf = true

/-- A step that neither faults nor is refused. -/
def Goes (s : State) : Prop := ∃ t, step s = .next t

/-! ## When a word runs -/

/-- The word with predicate prefix `p` of the group `g` runs: `g` issues, some position is active (R46), every vector
register that the word names lies below the group's cap (R53, R120), and no register that it reads holds an
uncorrectable word (R119). -/
structure Runs (s : State) (g : Group) (p : Pred) (named reads : List Nat) : Prop where
  issues : s.issuing? = some g
  active : g.active p ≠ 0
  capped : ∀ r ∈ named, r < g.cap
  sound  : g.badRead (g.active p) reads = false

/-! ## What a word leaves alone -/

/-- The issuing group `g` has become `g'`, and every other group is as before. -/
structure Becomes (s t : State) (g g' : Group) : Prop where
  here   : t.group? g.key = some g'
  others : ∀ k, k ≠ g.key → t.group? k = s.group? k

/-- Every byte of memory reads as before. -/
def MemorySame (s t : State) : Prop := ∀ a, t.readByte a = s.readByte a

/-- The word has left the issue queue and changed the issuing group alone: every other field of the machine, every
other group and every byte of memory is as before. -/
structure OnlyGroup (s t : State) (g g' : Group) : Prop where
  rest    : t = { s with groups := t.groups, issueQ := s.issueQ.tail }
  becomes : Becomes s t g g'
  memory  : MemorySame s t

/-- Of the group, only its registers and its place in the program may have changed. -/
def KeptGroup (g g' : Group) : Prop :=
  { g' with
      lanes := g.lanes, s := g.s, frontier := g.frontier, promo := g.promo, clause := g.clause, halt := g.halt
      ended := g.ended } = g

/-- A clause with its kept word `n` words further on. -/
def onward (c : Clause) (n : Nat) : Clause := { c with kept := c.kept + BitVec.ofNat 64 (4 * n) }

/-- The address after a clause (R43): 4 × (count + 1) bytes behind its header. -/
def nextOf (c : Clause) : W64 := c.hdr + BitVec.ofNat 64 (4 * (c.count + 1))

/-- The group stands `n` words further on (R43, R44, R90): inside its clause at the next word; behind the clause's last word
with the clause over and its entry's lanes at the address after it, where they join an entry that is there or make one, with
the priority of the header there, or of their own entry where that header cannot be read. The header is read in the state `t`
after the word; while the read has to wait the group stands behind the last word. -/
def StandsAfter (t : State) (g g' : Group) (n : Nat) : Prop :=
  ∀ c, g.clause = some c →
    g'.halt = g.halt.map (· + 1) ∧
    ((onward c n).isPast = false →
      g'.clause = some (onward c n) ∧ g'.frontier = g.frontier ∧ g'.promo = g.promo ∧ g'.ended = g.ended) ∧
    ((onward c n).isPast = true → ∀ e, g.entry? = some e →
      (∀ f, t.rebuild g e (some e.prio) (fun _ => some (nextOf c)) = .ok f →
        g'.clause = none ∧ g'.frontier = f ∧ (g'.promo = g.promo.filter fun a => f.any fun x => x.addr == a) ∧
          g'.ended = (g.ended || f.isEmpty)) ∧
      (∀ ds, t.rebuild g e (some e.prio) (fun _ => some (nextOf c)) = .wait ds →
        g'.clause = some (onward c n) ∧ g'.frontier = g.frontier))

/-! ## What a word writes -/

/-- The registers in `ds` have been written: what they held in error is replaced (R119), and every other register and
everything else of the thread is as before. -/
structure OnlyRegs (ds : List Nat) (t u : Thread) : Prop where
  regs : ∀ r, r ∉ ds → u.get r = t.get r
  bad  : ∀ r, r ∈ u.bad ↔ r ∈ t.bad ∧ r ∉ ds
  rest : { u with v := t.v, bad := t.bad } = t

/-- Register `d` now holds `x`; every other register and everything else of the thread is as before. -/
structure Wrote (d : Nat) (x : W32) (t u : Thread) : Prop where
  value : u.get d = x
  only  : OnlyRegs [d] t u

/-- Registers `d` and `d + 1` now hold `x`, low half first; the rest of the thread is as before. -/
structure Wrote64 (d : Nat) (x : W64) (t u : Thread) : Prop where
  value : u.get64 d = x
  only  : OnlyRegs [d, d + 1] t u

/-- Predicate `k` now holds `x`, unless it is p7, which stays true (R111); the rest of the thread is as before. -/
structure WroteP (k : BitVec 3) (x : Bool) (t u : Thread) : Prop where
  value : k ≠ 7 → u.pred k = x
  preds : ∀ q, q ≠ k ∨ q = 7 → u.pred q = t.pred q
  rest  : { u with p := t.p } = t

/-- Uniform register `d` now holds `x`, unless it is s62, which stays 0 (R111); the others are as before. -/
def WroteS (d : Nat) (x : W32) (g g' : Group) : Prop :=
  ∀ r, g'.sGet r = if r = d ∧ d < 62 then x else g.sGet r

/-- Uniform registers `d` and `d + 1` now hold `x`; with d = 62 the pair is discarded (R111). -/
def WroteS64 (d : Nat) (x : W64) (g g' : Group) : Prop :=
  ∀ r, g'.sGet r =
    if r = d ∧ d < 62 then lowHalf x else if r = d + 1 ∧ d + 1 < 62 then highHalf x else g.sGet r

/-- `exec i s` answers a next state in which the word has gone `n` words on and done `R k` to the thread of each active
lane k, and nothing else. -/
def LaneResult (i : Instr) (s : State) (g : Group) (p : Pred) (n : Nat) (R : Nat → Thread → Thread → Prop) : Prop :=
  ∃ t g', exec i s = .next t ∧ OnlyGroup s t g g' ∧ KeptGroup g g' ∧ StandsAfter t g g' n ∧ g'.s = g.s ∧
    (∀ k, (g.active p).getLsbD k = true → ∀ th, g.thread? k = some th → ∃ u, g'.thread? k = some u ∧ R k th u) ∧
    ∀ k, (g.active p).getLsbD k = false → g'.thread? k = g.thread? k

/-- `exec i s` answers a next state in which the word has gone `n` words on and done `R` to the group's uniform
registers, and nothing else. -/
def UniformResult (i : Instr) (s : State) (g : Group) (n : Nat) (R : Group → Group → Prop) : Prop :=
  ∃ t g', exec i s = .next t ∧ OnlyGroup s t g g' ∧ KeptGroup g g' ∧ StandsAfter t g g' n ∧ g'.lanes = g.lanes ∧ R g g'

/-! ## The shapes of the arithmetic words (R126, R127) -/

/-- `mk` writes f(v[a]) to v[d]. -/
def Alu1 (mk : Pred → RegNum → RegNum → Instr) (f : W32 → W32) : Prop :=
  ∀ (p : Pred) (d a : RegNum) (s : State) (g : Group), Runs s g p [d.toNat, a.toNat] [a.toNat] →
    LaneResult (mk p d a) s g p 1 fun _ th u => Wrote d.toNat (f (th.get a.toNat)) th u

/-- `mk` writes f(v[a], b) to v[d]; a literal operand b takes a second word. -/
def Alu2 (mk : Pred → RegNum → RegNum → OpB → Instr) (f : W32 → W32 → W32) : Prop :=
  ∀ (p : Pred) (d a : RegNum) (b : OpB) (s : State) (g : Group),
    Runs s g p ([d.toNat, a.toNat] ++ opBRegs 1 b) (a.toNat :: opBRegs 1 b) →
      LaneResult (mk p d a b) s g p (opBLen b) fun _ th u => Wrote d.toNat (f (th.get a.toNat) (opBWord g th b)) th u

/-- `mk` writes f(v[a], b, v[d]) to v[d]. -/
def Alu3 (mk : Pred → RegNum → RegNum → OpB → Instr) (f : W32 → W32 → W32 → W32) : Prop :=
  ∀ (p : Pred) (d a : RegNum) (b : OpB) (s : State) (g : Group),
    Runs s g p ([d.toNat, a.toNat] ++ opBRegs 1 b) ([d.toNat, a.toNat] ++ opBRegs 1 b) →
      LaneResult (mk p d a b) s g p (opBLen b) fun _ th u =>
        Wrote d.toNat (f (th.get a.toNat) (opBWord g th b) (th.get d.toNat)) th u

/-- `mk` writes f of two 64-bit operands to a pair. -/
def AluPair (mk : Pred → RegNum → RegNum → OpB → Instr) (f : W64 → W64 → W64) : Prop :=
  ∀ (p : Pred) (d a : RegNum) (b : OpB) (s : State) (g : Group),
    Runs s g p (regsFrom d 2 ++ regsFrom a 2 ++ opBRegs 2 b) (regsFrom a 2 ++ opBRegs 2 b) →
      LaneResult (mk p d a b) s g p (opBLen b) fun _ th u =>
        Wrote64 d.toNat (f (th.get64 a.toNat) (opBPair g th b)) th u

/-- `mk` writes f of a pair and a 32-bit count to a pair. -/
def AluShift (mk : Pred → RegNum → RegNum → OpB → Instr) (f : W64 → Nat → W64) : Prop :=
  ∀ (p : Pred) (d a : RegNum) (b : OpB) (s : State) (g : Group),
    Runs s g p (regsFrom d 2 ++ regsFrom a 2 ++ opBRegs 1 b) (regsFrom a 2 ++ opBRegs 1 b) →
      LaneResult (mk p d a b) s g p (opBLen b) fun _ th u =>
        Wrote64 d.toNat (f (th.get64 a.toNat) (opBWord g th b).toNat) th u

/-- `mk` writes the comparison f(v[a], b) to a predicate. -/
def Compare (mk : Pred → Cond → BitVec 3 → RegNum → OpB → Instr) (f : Cond → W32 → W32 → Bool) : Prop :=
  ∀ (p : Pred) (cc : Cond) (pd : BitVec 3) (a : RegNum) (b : OpB) (s : State) (g : Group),
    Runs s g p (a.toNat :: opBRegs 1 b) (a.toNat :: opBRegs 1 b) →
      LaneResult (mk p cc pd a b) s g p (opBLen b) fun _ th u => WroteP pd (f cc (th.get a.toNat) (opBWord g th b)) th u

/-- `mk` writes the comparison of two pairs to a predicate. -/
def ComparePair (mk : Pred → Cond → BitVec 3 → RegNum → OpB → Instr) (f : Cond → W64 → W64 → Bool) : Prop :=
  ∀ (p : Pred) (cc : Cond) (pd : BitVec 3) (a : RegNum) (b : OpB) (s : State) (g : Group),
    Runs s g p (regsFrom a 2 ++ opBRegs 2 b) (regsFrom a 2 ++ opBRegs 2 b) →
      LaneResult (mk p cc pd a b) s g p (opBLen b) fun _ th u =>
        WroteP pd (f cc (th.get64 a.toNat) (opBPair g th b)) th u

/-- `mk` writes a function of two predicates to a predicate. -/
def PredLogic (mk : Pred → BitVec 3 → BitVec 3 → BitVec 3 → Instr) (f : Bool → Bool → Bool) : Prop :=
  ∀ (p : Pred) (pd pa pb : BitVec 3) (s : State) (g : Group), Runs s g p [] [] →
    LaneResult (mk p pd pa pb) s g p 1 fun _ th u => WroteP pd (f (th.pred pa) (th.pred pb)) th u

/-! ## Values in exact arithmetic (R64 to R70) -/

/-- The value of a finite exact value as a rational number; 0 for an infinity and for NaN. -/
def exVal : Ex → ℚ
  | .fin neg m e => (if neg then -1 else 1) * m * 2 ^ e
  | _ => 0

/-- The finite values that a format has. -/
def Representable (f : Fmt) (y : ℚ) : Prop :=
  ∃ c : Nat, c < 2 ^ f.bits ∧ ∃ neg m e, decodeFmt f c = .fin neg m e ∧ y = exVal (.fin neg m e)

/-- The largest finite value of a format. -/
def largest (f : Fmt) : ℚ := f.nmax * 2 ^ f.qmax

/-- The code `r`, of value `v`, is the choice that the mode makes for `x` among the values of the format (R64); `.rs` takes
the neighbour away from zero where the first 16 bits of the discarded fraction and the random word `w` reach 2^16 (R70). -/
def Chosen (f : Fmt) (mode : RMode) (w : Nat) (x v : ℚ) (r : Nat) : Prop :=
  match mode with
  | .rz => |v| ≤ |x| ∧ ∀ y, Representable f y → |y| ≤ |x| → |y| ≤ |v|
  | .rd => v ≤ x ∧ ∀ y, Representable f y → y ≤ x → y ≤ v
  | .ru => x ≤ v ∧ ∀ y, Representable f y → x ≤ y → v ≤ y
  | .rn => ∀ y, Representable f y → |x - v| ≤ |x - y| ∧ (|x - y| = |x - v| → y ≠ v → r % 2 = 0)
  | .rs =>
    (Representable f |x| → |v| = |x|) ∧
    ∀ lo hi, Representable f lo → Representable f hi → lo < |x| → |x| < hi →
      (∀ y, Representable f y → ¬ (lo < y ∧ y < hi)) →
      |v| = if (2 : Int) ^ 16 ≤ ⌊(|x| - lo) / (hi - lo) * 2 ^ 16⌋ + w then hi else lo

/-- The integer that a rational rounds to (R64, R140). -/
def integerOf (mode : RMode) (x : ℚ) : Int :=
  match mode with
  | .rd => ⌊x⌋
  | .ru => ⌈x⌉
  | .rz | .rs => if x < 0 then ⌈x⌉ else ⌊x⌋
  | .rn =>
    if x - ⌊x⌋ < 1 / 2 then ⌊x⌋ else if 1 / 2 < x - ⌊x⌋ then ⌊x⌋ + 1 else if ⌊x⌋ % 2 = 0 then ⌊x⌋ else ⌊x⌋ + 1

/-- The number of 1 bits of a word. -/
def onesOf (x : W32) : Nat := ((List.range 32).filter fun k => x.getLsbD k).length

/-- As `Wrote`, where the thread has also taken `n` draws (R68). -/
structure WroteDraw (d : Nat) (x : W32) (n : Nat) (t u : Thread) : Prop where
  draws : u.draw = t.draw + BitVec.ofNat 32 n
  wrote : Wrote d x { t with draw := u.draw } u

/-- How many draws `n` roundings take in a mode: only stochastic rounding draws (R68, R144). -/
def drawsOf (m : RMode) (n : Nat) : Nat := if m = .rs then n else 0

/-- The random word of a position's k-th draw from now (R69). -/
def randomWord (s : State) (th : Thread) (k : Nat) : Nat :=
  mix16 th.seed (BitVec.ofNat 64 (((s.team? th.team).map (·.num)).getD 0 * 2 ^ 11 + th.tid)) (th.draw + BitVec.ofNat 32 k)

/-- `mk` writes the conversion of the registers v[a] to v[a + n - 1] to v[d] and rounds `k` times. -/
def Convert (mk : Pred → RMode → RegNum → RegNum → Instr) (n k : Nat)
    (f : RMode → (Nat → Nat) → (Nat → W32) → W32) : Prop :=
  ∀ (p : Pred) (m : RMode) (d a : RegNum) (s : State) (g : Group),
    Runs s g p (d.toNat :: regsFrom a n) (regsFrom a n) →
      LaneResult (mk p m d a) s g p 1 fun _ th u =>
        WroteDraw d.toNat (f m (randomWord s th) fun e => th.get (a.toNat + e)) (drawsOf m k) th u

/-- A vote writes one bit, a function of the threads of its active positions, to a predicate of each of them. -/
def Vote (mk : Pred → BitVec 3 → Instr) (reads : List Nat) (f : (Thread → Prop) → Prop) : Prop :=
  ∀ (p : Pred) (pd : BitVec 3) (s : State) (g : Group), Runs s g p reads reads → g.converged = true →
    LaneResult (mk p pd) s g p 1 fun _ th u =>
      ∃ r : Bool, (r = true ↔ f fun t => ∃ k, (g.active p).getLsbD k = true ∧ g.thread? k = some t) ∧ WroteP pd r th u

/-- What a position of SHFL receives (R110): the register of the lane that `src` names, its own if `src` names none or a
lane that is not active. -/
def Shuffle (mk : Pred → RegNum → RegNum → OpB → Instr) (src : Nat → Nat → Nat → Int) : Prop :=
  ∀ (p : Pred) (d a : RegNum) (b : OpB) (s : State) (g : Group),
    Runs s g p ([d.toNat, a.toNat] ++ opBRegs 1 b) (a.toNat :: opBRegs 1 b) → g.converged = true →
      LaneResult (mk p d a b) s g p (opBLen b) fun k th u =>
        let j := src g.width k (opBWord g th b).toNat
        (∀ o, 0 ≤ j → j < g.width → (g.active p).getLsbD j.toNat = true → g.thread? j.toNat = some o →
          Wrote d.toNat (o.get a.toNat) th u) ∧
        (¬ (0 ≤ j ∧ j < g.width ∧ (g.active p).getLsbD j.toNat = true) → Wrote d.toNat (th.get a.toNat) th u)

/-! ## Control words (R40, R90) -/

/-- The control word with predicate prefix `p` of the group `g` runs in the clause `c` of the entry `e`. -/
structure Steers (s : State) (g : Group) (p : Pred) (named reads : List Nat) (c : Clause) (e : Entry) : Prop where
  runs   : Runs s g p named reads
  clause : g.clause = some c
  entry  : g.entry? = some e

/-- What ending a clause by a control word makes of a group: it has the frontier `f`, its clause is over, promotions of
entries that are gone lapse, and it ends if no lane is left (R90, R92, R100). -/
def steered (g : Group) (f : List Entry) : Group :=
  { g with
      frontier := f, promo := g.promo.filter fun a => f.any fun e => e.addr == a
      clause := none
      halt := g.halt.map (· + 1)
      ended := g.ended || f.isEmpty }

/-- Of the group, the threads of the lanes in `A` have changed as `R` says, and nothing else. -/
structure LanesChanged (g g' : Group) (A : Mask) (R : Nat → Thread → Thread → Prop) : Prop where
  rest   : { g' with lanes := g.lanes } = g
  active : ∀ k, A.getLsbD k = true → ∀ th, g.thread? k = some th → ∃ u, g'.thread? k = some u ∧ R k th u
  others : ∀ k, A.getLsbD k = false → g'.thread? k = g.thread? k

/-- `exec i s` answers a next state in which the lanes of the entry `e` have gone where `dest` says, the group has first
become some `g1` with `R g1`, and nothing else has changed: asked where the frontier can be rebuilt (R90) and no SRET
waits (R335). -/
def ControlResult (i : Instr) (s : State) (g : Group) (e : Entry) (dest : Nat → Option W64) (R : Group → Prop) : Prop :=
  ∀ f, g.sret = none → s.popIssue.rebuild g e none dest = .ok f →
    ∃ t g1, exec i s = .next t ∧ R g1 ∧ OnlyGroup s t g (steered g1 f)

/-- The lanes of `A` go to `t`, the other lanes of the entry to `next`. -/
def toward (A : Mask) (t next : W64) (i : Nat) : Option W64 := some (if A.getLsbD i then t else next)

/-- The lanes of `A` leave, the other lanes of the entry go to `next`. -/
def leaving (A : Mask) (next : W64) (i : Nat) : Option W64 := if A.getLsbD i then none else some next

/-- The priority and address of an entry are below those of the next (R88). -/
def EntryBefore (x y : Entry) : Prop := x.prio < y.prio ∨ (x.prio = y.prio ∧ x.addr.toNat < y.addr.toNat)

/-- A frontier as R88 describes it: in ascending order of priority and then of address, no address twice, masks disjoint,
and together the mask `live`. -/
structure FrontierOk (f : List Entry) (live : Mask) : Prop where
  sorted   : f.Pairwise EntryBefore
  distinct : f.Pairwise fun x y => x.addr ≠ y.addr
  disjoint : f.Pairwise fun x y => x.mask &&& y.mask = 0
  union    : ∀ k, live.getLsbD k = true ↔ ∃ e ∈ f, e.mask.getLsbD k = true

/-! ## Taking a trap (R320, R339, R343, R346) -/

/-- The group as a parking leaves it: parked, its kept word in a clause that is to be fetched again, a recorded SRET offset
lapsed, and the parking with the key `key`. -/
def parkedAs (g : Group) (key : Nat) : Group :=
  { g with
      run := .parked, sret := none, parking := some key
      clause := g.clause.map fun c => { c with isOpen := false } }

/-- What a record of a parking says (R343); the header counts as the kept word where R42 raised the trap. -/
structure Records (s : State) (g : Group) (kind cause : Nat) (A fmask : Mask) (faddr : W64) (r : Post) : Prop where
  isKind  : r.kind = kind
  isCause : r.cause = cause
  state   : r.state = 1
  active  : r.active = A
  fmask   : r.fmask = fmask
  faddr   : r.faddr = faddr
  kept    : ∀ c, g.clause = some c → r.kaddr = (c.shownKept kind - s.cbOf g).setWidth 32
  word    : ∀ c, g.clause = some c → r.waddr = (c.shownKept kind - s.cbOf g).setWidth 32
  header  : ∀ c, g.clause = some c → r.hdr = (c.hdr - s.cbOf g).setWidth 32
  ctx     : r.ctx = (s.whoOf g).ctx
  parking : r.parking = some s.nextKey

/-- The group `g` has parked: it and the list of parkings have changed, and one record with `R` is due for the ring of its
partition. `cores` are the fields of the partition that may have changed besides. -/
structure Parks (s t : State) (g : Group) (kind : Nat) (A : Mask) (reg : Nat) (R : Post → Prop) (F : Part → Part) :
    Prop where
  group    : t.group? g.key = some (parkedAs g s.nextKey)
  parkings : t.parkings = s.parkings ++ [⟨s.nextKey, (s.whoOf g).part, g.key, kind, none, none, A, reg, none, [], false⟩]
  record   : ∃ r, R r ∧
    t.parts = s.parts.map fun x => if x.num = (s.whoOf g).part then F { x with posts := x.posts ++ [r] } else x
  memory   : MemorySame s t

/-- A trap on a Vent core: the group parks, and nothing else changes (R339). -/
structure TrapsOnVent (s t : State) (g : Group) (cause : Nat) (A fmask : Mask) (faddr : W64) : Prop where
  parks  : Parks s t g 2 A 0 (Records s g 2 cause A fmask faddr) id
  others : ∀ k, k ≠ g.key → t.group? k = s.group? k
  rest   : t = { s with
    groups := t.groups, issueQ := s.issueQ.tail, parkings := t.parkings, parts := t.parts, nextKey := s.nextKey + 1 }

/-- A trap of a user-state group of service core `k` (R320, R346): the group parks, SCAUSE takes the cause, and a new group
in supervisor state, one lane, starts at CB + SVEC. That a record is due for the partition's own ring is the model's choice
(log 26). -/
structure TrapsToSupervisor (s t : State) (g : Group) (k cause : Nat) (A fmask : Mask) (faddr : W64) : Prop where
  parks  : Parks s t g 2 A 0 (Records s g 2 cause A fmask faddr) fun x => { x with scause := BitVec.ofNat 64 cause }
  others : ∀ n, n ≠ g.key → n ≠ s.nextKey + 1 → t.group? n = s.group? n
  enters : ∃ h ∈ t.groups, h.key = s.nextKey + 1 ∧ h.core = .service k ∧ h.supervisor = true ∧ h.run = .running ∧
    h.clause = none ∧ h.s = [] ∧ h.live = 1 ∧
    ∃ x ∈ s.parts, x.num = k ∧ ∃ pr, h.frontier = [⟨pr, x.cb + x.svec, 1, 0⟩]
  rest   : t = { s with
    groups := t.groups, issueQ := s.issueQ.tail, parkings := t.parkings, parts := t.parts, nextKey := s.nextKey + 2 }

/-- A trap of a supervisor-state group of service core `k` (R320, R346): the core halts; its groups that are not parked and
their operations are gone, and the partition's parkings, with the groups that they name, stand. For the root monitor core,
k = 127, that it halts likewise is the model's choice (log 41). -/
structure HaltsService (s t : State) (k : Nat) : Prop where
  groups : ∀ h, h ∈ t.groups ↔ h ∈ s.groups ∧ ∀ x ∈ s.groups, x.core = .service k → x.parking = none → x.key ≠ h.key
  ops    : ∀ o, o ∈ t.ops ↔ o ∈ s.ops ∧ ∀ x ∈ s.groups, x.core = .service k → x.parking = none → x.key ≠ o.group
  parked : t.parkings = s.parkings
  parts  : t.parts = s.parts.map fun x => if x.num = k then { x with halted := true } else x
  memory : MemorySame s t

/-- `exec i s` takes a trap for the group `g` (R320, R339, R346), each case on the core that the group is on. The record of the
user-state case and the halt of the root monitor core are the model's choice (logs 26 and 41). -/
structure Traps (i : Instr) (s : State) (g : Group) (cause : Nat) (A fmask : Mask) (faddr : W64) : Prop where
  vent       : isService g.core = false → ∃ t, exec i s = .next t ∧ TrapsOnVent s t g cause A fmask faddr
  user       : ∀ k, g.core = .service k → g.supervisor = false → (∃ x ∈ s.parts, x.num = k) → s.group? (s.nextKey + 1) = none →
    ∃ t, exec i s = .next t ∧ TrapsToSupervisor s t g k cause A fmask faddr
  supervisor : ∀ k, g.core = .service k → g.supervisor = true → ∃ t, exec i s = .next t ∧ HaltsService s t k

/-- The word is held: it has left the issue queue and is to issue again, and nothing has changed. -/
def Held (i : Instr) (s : State) : Prop := exec i s = .next { s with issueQ := s.issueQ.tail }

/-- The word is held for the links of the dies `ds`: those of them that sleep start to wake (R25), and nothing else has
changed. -/
def HeldFor (i : Instr) (s : State) (ds : List DieId) : Prop :=
  exec i s = .next (State.wakeLinks { s with issueQ := s.issueQ.tail } ds)

/-- No die's time register has gone back (R28). -/
def TimesRise (s t : State) : Prop := ∀ d, (s.time d).value ≤ (t.time d).value

/-- Of a record of FRONTIER_FULL, blocks 0 and 1: the entries of the frontier, 16 bytes each (R343). -/
def ListsEntries (s : State) (g : Group) (r : Post) : Prop :=
  ∀ (j : Nat) (x : Entry), j < 8 → g.frontier[j]? = some x →
    let b := (r.block (j / 4)).drop (16 * (j % 4))
    natOfBytes (b.take 2) = x.prio % 2 ^ 16 ∧ natOfBytes ((b.drop 4).take 4) = ((x.addr - s.cbOf g).setWidth 32).toNat ∧
      natOfBytes ((b.drop 8).take 8) = x.mask.toNat

/-- What the control word `i` of the entry `e` meets whose lanes go where `dest` says, where the frontier cannot be rebuilt (R90,
R91): a header that cannot be read traps at the control word, with the lanes that go there as the fault mask; a ninth entry
traps as FRONTIER_FULL, with the issuing entry's mask and the entries that stand; and while a header's read has to wait the word
is held, and the sleeping links that it needs start to wake (R25). -/
structure MeetsFrontier (i : Instr) (s : State) (g : Group) (e : Entry) (A : Mask) (dest : Nat → Option W64) : Prop where
  fetch : ∀ cause a m, s.popIssue.rebuild g e none dest = .fault cause a m → Traps i s g cause A m a
  full  : s.popIssue.rebuild g e none dest = .full → Traps i s g Cause.frontierFull A e.mask 0
  lists : s.popIssue.rebuild g e none dest = .full → isService g.core = false → ∀ t, exec i s = .next t →
    ∀ x ∈ s.parts, x.num = (s.whoOf g).part → ∃ y ∈ t.parts, y.num = x.num ∧ ∃ r, y.posts = x.posts ++ [r] ∧ ListsEntries s g r
  waits : ∀ ds, s.popIssue.rebuild g e none dest = .wait ds → HeldFor i s ds

/-! ## Bins (R222) -/

/-- No two bins of a core have the same key tuple. -/
def BinsDistinct (l : List Bin) : Prop := l.Pairwise fun x y => x.matches y = false

/-- The records, in order, that stand in a bin with the tuple of `x`. -/
def recordsOf (l : List Bin) (x : Bin) : List Rec := (l.filter fun b => b.matches x).flatMap (·.recs)

/-- The children that wait in the ring of a Vent. -/
def childrenOf (s : State) (v : Nat) : List Child := ((s.scheds.find? fun d => d.vent == v).map (·.children)).getD []

/-! ## Words that issue an operation (R39) -/

/-- The word has issued one operation: the operation `o` with `O o` is outstanding, its counter has risen by 1, the group,
which the word has first made `h`, has gone on `n` words, only translation caches may have learnt, from walks whose flits may
have raised the dies' time registers (R24), and nothing else has changed. -/
structure Queued (s t : State) (g h : Group) (A : Mask) (n : Nat) (ctr : Ctr) (O : Op → Prop) : Prop where
  issued : ∃ o, t.ops = s.ops ++ [o] ∧ o.id = s.nextOp ∧ o.group = g.key ∧ o.core = g.core ∧
    o.team = g.commandTeam A ∧ o.ctr = ctr ∧ o.active = A ∧
    (∀ c, g.clause = some c → o.waddr = (c.kept - s.cbOf g).setWidth 32) ∧ O o
  group  : ∃ g', Becomes s t g g' ∧ g'.cnt = g.cnt.set ctr (g.cnt.get ctr + 1) ∧ g'.lanes = h.lanes ∧ g'.s = h.s ∧
    KeptGroup { h with cnt := g'.cnt } g' ∧ StandsAfter t g g' n
  cores  : ∀ c, { t.core c with tlb := (s.core c).tlb } = s.core c
  memory : MemorySame s t
  rest   : t = { s with
    groups := t.groups, issueQ := s.issueQ.tail, ops := t.ops, nextOp := s.nextOp + 1, cores := t.cores, times := t.times }
  times  : TimesRise s t

/-- `exec i s` answers a next state in which the word has issued one operation. -/
def IssueResult (i : Instr) (s : State) (g : Group) (p : Pred) (n : Nat) (ctr : Ctr) (O : Op → Prop) : Prop :=
  ∃ t, exec i s = .next t ∧ Queued s t g g (g.active p) n ctr O

/-- The word has left the issue queue, and at most translation caches have learnt (R163), from walks whose flits may have raised
the dies' time registers (R24): it is to issue again. -/
structure OnlyLearns (s t : State) : Prop where
  rest  : t = { s with issueQ := s.issueQ.tail, cores := t.cores, times := t.times }
  times : TimesRise s t
  cores : ∀ c, { t.core c with tlb := (s.core c).tlb } = s.core c

/-- No acquire of the group is still to be performed (R184). -/
def NoAcquirePending (s : State) (g : Group) : Prop := ∀ o ∈ s.ops, o.group = g.key → o.kind.isAcquire = false

/-- No store or atomic of the group is outstanding (R170, R186). -/
def NoStorePending (s : State) (g : Group) : Prop := ∀ o ∈ s.ops, o.group = g.key → o.kind.isStoreOrAtomic = false

/-- No access of the group is outstanding on the LSU path (R177). -/
def NoAccessPending (s : State) (g : Group) : Prop := ∀ o ∈ s.ops, o.group = g.key → o.path = .lsu → o.kind.isAccess = false

/-- A release at the scope need not wait: at CORE scope, or with no store or atomic outstanding (R170, R186). -/
def ReleaseReady (s : State) (g : Group) (scope : Scope) : Prop := scope = .core ∨ NoStorePending s g

/-- Every active lane of a word names the pieces that `pieces` gives, and all translate, to `ps` (R164). -/
def Translated (s : State) (g : Group) (p : Pred) (need : Need) (pieces : Thread → List Piece)
    (ps : List (Nat × List (Loc × Nat × Nat))) : Prop :=
  s.popIssue.xlateAll (s.whoOf g) need
    ((lanesOf (g.active p)).filterMap fun k => (g.thread? k).map fun th => (k, pieces th)) = .ok ps

/-- A translation of the places that the active lanes of a word name fails in the lanes of `mask`, the lowest of them with
`cause` at `addr` (R164). -/
def Untranslated (s : State) (g : Group) (p : Pred) (need : Need) (pieces : Thread → List Piece) (mask : Mask)
    (cause addr : Nat) : Prop :=
  s.popIssue.xlateAll (s.whoOf g) need
    ((lanesOf (g.active p)).filterMap fun k => (g.thread? k).map fun th => (k, pieces th)) = .fault mask cause addr

/-- Every active lane's thread satisfies `P`. -/
def EachLane (g : Group) (p : Pred) (P : Thread → Prop) : Prop :=
  ∀ k th, (g.active p).getLsbD k = true → g.thread? k = some th → P th

/-- The active lanes whose threads do not satisfy `P`. -/
def lanesFailing (g : Group) (p : Pred) (P : Thread → Bool) : Mask :=
  maskOf fun k => (g.active p).getLsbD k && ((g.thread? k).map fun th => !P th).getD false

/-- The address `f` of the lowest lane of a mask, for a fault record (R164). -/
def lowestAddr (g : Group) (m : Mask) (f : Thread → Nat) : W64 :=
  BitVec.ofNat 64 ((((lowLane m).bind g.thread?).map f).getD 0)

/-- A word of class 16 as R198 and R200 describe it: whether it first waits as a release, how many words it takes, the
registers that it names and reads beside its base, and the words that it captures from a thread. -/
structure HobForm where
  instr : Instr
  op    : HobOp
  rel   : Bool
  len   : Nat
  named : List Nat
  reads : List Nat
  block : Thread → List W32

/-- The `n` registers of a thread from `b` upward. -/
def blockOf (b : RegNum) (n : Nat) (th : Thread) : List W32 := (List.range n).map fun k => th.get (b.toNat + k)

/-- An ANN with a block of `n` registers. -/
def annForm (i : Instr) (d b : RegNum) (op n : Nat) : HobForm :=
  ⟨i, .ann op, true, 1, d.toNat :: regsFrom b n, regsFrom b n, blockOf b n⟩

/-- The counter of a word of class 16 (R198). -/
def HobForm.ctr (q : HobForm) : Ctr := if q.op = .help ∨ q.op = .arel then .st else .ld

/-- A barrier instance after one arrival of a thread whose last arrival was in the generation `last` (R213). -/
def arrival (B : Barrier) (last : Option W16) : Barrier :=
  if last = some B.gen then B else if B.m ≤ B.n + 1 then ⟨B.gen + 1, 0, B.m⟩ else ⟨B.gen, B.n + 1, B.m⟩

/-- A barrier instance after the arrivals of some lanes, in the order of the list. -/
def arrivals (g : Group) (l : Level) (lanes : List Nat) (B : Barrier) : Barrier :=
  lanes.foldl (fun B k => match g.thread? k with | none => B | some th => arrival B (th.arr.get l)) B

/-! ## The end of a grid (R348, R349) -/

/-- The running grid `x` has ended with a cause because its team `T` was terminated: its groups have stopped and have no
lane, its teams are terminated, its parkings are freed, and a grid report is due for the ring of its partition. -/
structure GridEnds (s t : State) (x : Grid) (T : Team) (cause : Nat) : Prop where
  ended    : ∃ y, t.grid? x.key = some y ∧ y.cause = some cause
  groups   : ∀ h ∈ t.groups, h.grid = x.key → isService h.core = false → h.ended = true ∧ h.frontier = [] ∧ h.live = 0
  teams    : ∀ u ∈ t.teams, u.grid = x.key → isService u.core = false → u.dead.isSome = true
  parkings : ∀ q ∈ t.parkings, ∀ h ∈ s.groups, h.grid = x.key → isService h.core = false → q.group ≠ h.key
  report   : ∀ y ∈ s.parts, y.num = x.part → ∃ z ∈ t.parts, z.num = x.part ∧ ∃ r ∈ z.posts,
    r.kind = 4 ∧ r.cause = cause ∧ r.grid = x.id ∧ r.team = BitVec.ofNat 32 T.num

/-! ## Commands with a block (R50) -/

/-- The first check of a list that fails, in order, names the trap `c`. -/
def FailsFirst (l : List (Bool × Nat)) (c : Nat) : Prop :=
  ∃ a b, l = a ++ (false, c) :: b ∧ ∀ x ∈ a, x.1 = true

/-- All of a block of `n` bytes. -/
def wholeOf (n : Nat) : List Byte → List (Nat × Nat) := fun _ => [(0, n)]

/-- The parts of EPI's block that are read (R253): the header, the bounds LO and HI under clamp, and the arrays that CTL says are
present. -/
def epiReads (l : List Byte) : List (Nat × Nat) :=
  let ctl := fld l 15 15
  [(0, 16), (24, 64)] ++ (if ctl / 8 % 4 = 2 then [(16, 24)] else []) ++ (if ctl / 32 % 2 = 1 then [(64, 320)] else []) ++
    (if ctl / 64 % 2 = 1 then [(320, 576)] else []) ++ if ctl / 128 % 2 = 1 then [(576, 832)] else []

/-- The command `i` of the group `g`, of whose block `l` of `n` bytes the parts `parts l` have been read: it traps with the
cause of the first check that fails, and else issues one operation of kind `k`. -/
def BlockCommand (i : Instr) (s : State) (g : Group) (p : Pred) (ps : RegNum) (n : Nat)
    (parts : List Byte → List (Nat × Nat)) (ctr : Ctr) (path : Path) (checks : List Byte → List (Bool × Nat))
    (k : List Byte → OpKind) : Prop :=
  NoAcquirePending s g → ∀ l, s.popIssue.readParts g (g.active p) ps n parts = .ok l →
    (∀ c, c ≠ Cause.uncorrectable → FailsFirst (checks l) c →
      Traps i s g c (g.active p) (g.active p) ((g.sGet ps.toNat).setWidth 64)) ∧
    ((∀ x ∈ checks l, x.1 = true) →
      IssueResult i s g p 1 ctr fun o => o.kind = k l ∧ o.path = path ∧ o.accs = [])

/-- The block of a command cannot be read (R50, R119, R184, R369): the word is held while an acquire of the group is to be
performed; then a misaligned address traps before a block that leaves the scratchpad, and an uncorrectable word in a part that
is read terminates the team. -/
def BlockTraps (i : Instr) (s : State) (g : Group) (p : Pred) (ps : RegNum) (n : Nat)
    (parts : List Byte → List (Nat × Nat)) : Prop :=
  let a := (g.sGet ps.toNat).toNat
  (¬ NoAcquirePending s g → Held i s) ∧
  (NoAcquirePending s g →
    (a % 32 ≠ 0 → Traps i s g Cause.misaligned (g.active p) (g.active p) (BitVec.ofNat 64 a)) ∧
    (a % 32 = 0 → s.scratchSize (g.commandTeam (g.active p)) < a + n →
      Traps i s g Cause.permission (g.active p) (g.active p) (BitVec.ofNat 64 a)) ∧
    ∀ th T x, s.popIssue.readParts g (g.active p) ps n parts = .error Cause.uncorrectable →
      (lowLane (g.active p)).bind g.thread? = some th → s.team? th.team = some T → isService T.core = false →
      s.grid? T.grid = some x → x.cause = none → ∃ t, exec i s = .next t ∧ GridEnds s t x T Cause.uncorrectable)

/-! ## Supervisor state (R320, R332) -/

/-- The word with predicate prefix `p` of the group `g` runs in supervisor state on service core `k`. -/
structure Supervises (s : State) (g : Group) (p : Pred) (k : Nat) : Prop where
  runs  : Runs s g p [] []
  core  : g.core = .service k
  state : g.supervisor = true

/-- `exec i s` answers a next state in which the word has gone on `n` words, done `W` to the machine besides the issuing
group, and `R` to the group's uniform registers. `W` relates the machine before, with the word out of the issue queue, to
the machine after, with the issuing group as it was. -/
def ServiceResult (i : Instr) (s : State) (g : Group) (n : Nat) (W : State → State → Prop) (R : Group → Group → Prop) :
    Prop :=
  ∃ t m g', exec i s = .next t ∧ W { s with issueQ := s.issueQ.tail } m ∧ m.group? g.key = some g ∧
    t = { m with groups := t.groups } ∧ Becomes m t g g' ∧ KeptGroup g g' ∧ StandsAfter t g g' n ∧ g'.lanes = g.lanes ∧ R g g'

/-- No queue has an open, a status block or the end of a close to wait for, and no graph launch is under way. -/
def QueuesIdle (s : State) : Prop :=
  (∀ x ∈ s.queues, x.opening = none ∧ x.statusDue = false ∧ x.closing = none) ∧ s.launches = []

/-- No active child partition of partition `k` has queue `x` (R317). -/
def NoChildQueue (s : State) (k x : Nat) : Prop :=
  ∀ c ∈ Machine.childrenOf k, ∀ z, s.part? c = some z → z.status ≠ 0 → ¬ (z.desc.qbase ≤ x ∧ x < z.desc.qbase + z.desc.qcount)

/-- The group waits in a parking that a service core of partition `k` names by the handle `h`. -/
structure ParkedUnder (s : State) (k : Nat) (h : W32) (q : Parking) : Prop where
  listed : q ∈ s.parkings
  part   : q.part = k
  handle : q.handle = some h
  only   : ∀ r ∈ s.parkings, r.handle = some h → r = q
  live   : ∀ x ∈ s.preempts, x.req.part = k → ∀ e ∈ x.events, e.handle ≠ some h

/-- The byte of a parking's ring slot that says PARKED or FREE (R343), where it has a slot. -/
def slotByte (s : State) (q : Parking) : Option Nat :=
  match q.slot, s.part? q.part with
  | some n, some x => some (x.sring.toNat + 8192 * (n + 1) + 7)
  | _, _ => none

/-- No die's register is ahead of Caldera's, so that no message raises Caldera's (R24). -/
def CalderaLeads (s : State) : Prop := ∀ d, (s.time d).value ≤ s.now

/-- The `n` bytes at memory key `a` lie in data units of which each is enciphered under one key, and was last written, if
ever, under that key (R323), which is the writer's too, Caldera's own where the root monitor core writes (`root`): a write there
leaves the other bytes of its units readable; and no byte lies in the configuration window, which ignores writes (R6). -/
def KeyKept (s : State) (root : Bool) (a n : Nat) : Prop :=
  (∀ k, a ≤ k → k < a + n → inWindow k = false) ∧
  ∀ k, a / 128 ≤ k / 128 → k / 128 ≤ (a + n - 1) / 128 → s.serialAt k = s.serialAt (128 * (k / 128)) ∧
    (root = true → s.serialAt k = 0) ∧
    ∀ u ∈ s.units, u.unit = k / 128 → isDeviceLine (lineOf a) = true ∧ u.key = s.serialAt k

/-- Whether the operation `o` is one of the root monitor core. -/
def ofRoot (s : State) (o : Op) : Bool := (s.whoCtx o).1 == 127

/-- The bytes `bs` stand at memory key `a` and the bytes of memory outside them are as before, where the units there keep
their keys under a write, of the root monitor core (`root`) or another. -/
def Stored (s t : State) (root : Bool) (a : Nat) (bs : List Byte) : Prop :=
  KeyKept s root a bs.length → ∀ k, t.readByte k = if a ≤ k then (bs[k - a]?).getD (s.readByte k) else s.readByte k

/-- The device itself writes `bs` at memory key `a` (R157, R191, R328): at once, or, where another holder has the line, its
link sleeps, or an earlier write of the stream waits, once it may, after those. -/
def DeviceWrites (s t : State) (stream a : Nat) (bs : List Byte) : Prop :=
  (s.homeWritable a = true → (∀ w ∈ s.devWrites, w.stream ≠ stream) → Stored s t false a bs ∧ t.devWrites = s.devWrites) ∧
  (s.homeWritable a = false ∨ (∃ w ∈ s.devWrites, w.stream = stream) →
    MemorySame s t ∧ t.devWrites = s.devWrites ++ [⟨stream, a, bs⟩])

/-- No one but its home holds a line of the `n` bytes at memory key `a`, the homes' links carry traffic, and no way of theirs
wakes. -/
def AloneAt (s : State) (a n : Nat) : Prop :=
  ∀ b, a ≤ b → b < a + n → s.linkFlows (.vent (s.homeVent (lineOf b))) = true ∧
    s.sliceWaking (s.homeVent (lineOf b)) (lineOf b) = false ∧ s.otherHolders (s.homeVent (lineOf b)) (lineOf b) = []

/-- The events `f n` of a list of numbers take place one after another. -/
def Each (f : Nat → Instr) : List Nat → State → State → Prop
  | [], s, t => t = s
  | n :: l, s, t => ∃ u, exec (f n) s = .next u ∧ Each f l u t

/-- The parking `q` is over: it is no longer listed, its slot becomes FREE (R344) where its partition still reaches it (R317), and
no other byte of memory changes. -/
structure Unparked (s t : State) (q : Parking) : Prop where
  listed : t.parkings = s.parkings.filter fun x => x.key != q.key
  slot   : ∀ a, slotByte s q = some a → s.inReach q.part a 1 = true → DeviceWrites s t q.part a [0]
  none   : (∀ a, slotByte s q = some a → s.inReach q.part a 1 = false) → MemorySame s t ∧ t.devWrites = s.devWrites

/-- A parking's group is parked no longer: the parking is over, the group has become `h'`, and every other group is as
before. -/
structure Woken (s t : State) (q : Parking) (h' : Group) : Prop where
  done   : Unparked s t q
  group  : t.group? q.group = some h'
  others : ∀ n, n ≠ q.group → t.group? n = s.group? n

/-- The group as it stands when its parking ends: it runs again, its clause still to be fetched (R44), or, while its halt is
pending, it halts before it issues (R313). -/
def running (h : Group) : Group :=
  if h.halt = none then { h with run := .running, parking := none }
  else { h with run := .halted, halt := some 8192, parking := none }

/-- What reaches the group crosses no link, or one that carries traffic (R25). -/
def Reached (s : State) (h : Group) : Prop :=
  dieOf h.core = .caldera ∨ (s.linkFlows .caldera = true ∧ s.linkFlows (dieOf h.core) = true)

/-- No two groups have the same key, and the keys to come are new. -/
def KeysFresh (s : State) : Prop := (s.groups.map (·.key)).Nodup ∧ ∀ g ∈ s.groups, g.key < s.nextKey

/-! ## Operations that are performed (R39, R167, R168) -/

/-- The access `x` of the operation `o` of the group `g` waits, for the thread `th`, behind no other access of that thread; `o`
is the group's only operation, every link carries traffic, and no slice keeps the access in its retry queue (R160). -/
structure Awaits (s : State) (g : Group) (th : Thread) (o : Op) (x : Acc) : Prop where
  listed : s.op? o.id = some o
  only   : ∀ q ∈ s.ops, q.id = o.id ∨ q.group = o.group → q = o
  access : x ∈ o.accs
  one    : ∀ y ∈ o.accs, y.n = x.n → y = x
  due    : s.accBlocked o x = false
  path   : o.path = .lsu
  group  : s.group? o.group = some g
  lane   : x.lane < 64
  thread : g.thread? x.lane = some th
  links  : ∀ l ∈ s.links, l.st = .active
  arrive : ∀ key, s.arrival o x = some key → s.mustRetry (s.arrivalVent o key) (lineOf key) o.id x.n = false

/-- The access `x` of the operation `o` of the group `g` has been performed: with its last one the operation is gone and its
counter has fallen by 1 (R39); the thread of the access has changed as `R` says, and no other thread, uniform register or group
has changed. -/
structure Completed (s t : State) (g : Group) (o : Op) (x : Acc) (R : Thread → Thread → Prop) : Prop where
  ops    : t.ops = if ∀ y ∈ o.accs, y = x then s.ops.filter fun q => q.id != o.id
    else s.ops.map fun q => if q.id = o.id then { q with accs := q.accs.filter fun y => y.n != x.n } else q
  group  : ∃ g', t.group? o.group = some g' ∧
    LanesChanged { g with cnt := if ∀ y ∈ o.accs, y = x then g.cnt.set o.ctr (g.cnt.get o.ctr - 1) else g.cnt } g' (1 <<< x.lane)
      fun _ => R
  others : ∀ k, k ≠ o.group → t.group? k = s.group? k

/-- The bytes `bs` stand at offset `a` of the scratchpad of the team `n`, whose other bytes and everything else of it, and
every other team, are as before. -/
def StoredSc (s t : State) (n a : Nat) (bs : List Byte) : Prop :=
  (∀ k T, s.team? k = some T → ∃ U, t.team? k = some U ∧ { U with scratch := T.scratch } = T ∧
    ∀ i, sget 0 U.scratch i =
      if k = n ∧ a ≤ i then (bs[i - a]?).getD (sget 0 T.scratch i) else sget 0 T.scratch i)

/-- The value of `z` bytes loaded (R166). -/
def loaded (z : Nat) (signed : Bool) (l : List Byte) : W32 :=
  if signed then BitVec.ofInt 32 (BitVec.ofNat (8 * z) (natOfBytes l)).toInt else BitVec.ofNat 32 (natOfBytes l)

/-- What ATOM leaves at its place, from the old value `x`, its operand `u`, and for a compare-and-swap its second operand
`v` (R183). -/
def atomNew {n : Nat} (op : AtomOp) (x u v : BitVec n) : BitVec n :=
  match op with
  | .ld | .ldRemote => x
  | .st | .swap => u
  | .add => x + u
  | .and => x &&& u
  | .or => x ||| u
  | .xor => x ^^^ u
  | .minI => if x.sle u then x else u
  | .maxI => if x.sle u then u else x
  | .minN => if x.ule u then x else u
  | .maxN => if x.ule u then u else x
  | .cas => if x = u then v else x

/-- No write that has been performed, of another size than `n` bytes and unordered with the access, has a byte in common with
those `n` (R152). -/
def Unmixed (s : State) (o : Op) (x : Acc) (n : Nat) : Prop :=
  ∀ key, x.loc = .mem key → ∀ e ∈ s.past, s.mixesPast (o.maker x.lane) key n e = false

/-- The access meets nothing that keeps it from being performed: no port that is down, no lost line, no uncorrectable word,
no mixed size under debug mode, and no outstanding store of another size to a byte of it (R152, R153, R158, R330, R351). -/
structure Free (s : State) (o : Op) (x : Acc) (reads : Bool) (size : Nat) : Prop where
  meets : s.meets o.id x.loc x.len reads = .ok
  debug : s.debugFault o x size = false
  mixed : s.mixed o x = false

/-! ## Commands that an engine performs (R237, R252, R272) -/

/-- The command `o` is the next of its group on its path, and its team `T` lives. -/
structure EngineTurn (s : State) (o : Op) (T : Team) : Prop where
  listed : s.op? o.id = some o
  first  : s.behind o = false
  team   : s.team? o.team = some T
  lives  : T.dead = none
  links  : ∀ l ∈ s.links, l.st = .active

/-- The operation `o` is gone and its counter has fallen by 1 (R39); no group has changed otherwise. -/
structure Ended (s t : State) (o : Op) : Prop where
  ops    : t.ops = s.ops.filter fun q => q.id != o.id
  group  : ∀ g, s.group? o.group = some g →
    t.group? o.group = some { g with cnt := g.cnt.set o.ctr (g.cnt.get o.ctr - 1) }
  others : ∀ k, k ≠ o.group → t.group? k = s.group? k

/-- Tile `n` of the team `T` holds `f`, its poison mark is `p`, and no other tile, team or byte has changed. -/
structure TileIs (s t : State) (T : Team) (n : Nat) (f : Nat → W32) (p : Bool) : Prop where
  team   : ∃ U, t.team? T.key = some U ∧ { U with tiles := T.tiles, poison := T.poison } = T ∧
    (∀ e, e < 4096 → U.tileGet n e = f e) ∧ (∀ m e, m ≠ n → e < 4096 → U.tileGet m e = T.tileGet m e) ∧
    ∀ j, j < 16 → U.poison.getLsbD j = if j = n then p else T.poison.getLsbD j
  others : ∀ k, k ≠ T.key → t.team? k = s.team? k
  memory : MemorySame s t

/-- No write that has been performed, of another maker than the engine's command `o`, of another size than an element and
unordered with it, has a byte in common with one of the places (R152). -/
def UnmixedAll (s : State) (o : Op) (ps : List (Loc × Nat)) : Prop :=
  ∀ x ∈ ps, ∀ key, x.1 = Loc.mem key → ∀ e ∈ s.past, s.mixesPast o.engine key x.2 e = false

/-- The elements of `data` have been stored at the places `ps`, in order: where the units there keep their keys, a byte outside
them is as before, and a place that no later one overlaps holds its element. -/
def StoresAll (s t : State) (root : Bool) (ps : List (Loc × Nat)) (data : List (List Byte)) : Prop :=
  (∀ e ∈ ps, ∀ k, e.1 = Loc.mem k → KeyKept s root k e.2) →
  (∀ a, (∀ e ∈ ps, ∀ k, e.1 = Loc.mem k → ¬ (k ≤ a ∧ a < k + e.2)) → t.readByte a = s.readByte a) ∧
  ∀ i k n : Nat, ps[i]? = some (Loc.mem k, n) →
    (∀ j l m : Nat, i < j → ps[j]? = some (Loc.mem l, m) → l + m ≤ k ∨ k + n ≤ l) → data[i]? = some (t.readBytes k n)

/-- As `StoredSc`, in the A buffer. -/
def StoredA (s t : State) (n a : Nat) (bs : List Byte) : Prop :=
  ∀ k T, s.team? k = some T → ∃ U, t.team? k = some U ∧ { U with a := T.a } = T ∧
    ∀ i, sget 0 U.a i = if k = n ∧ a ≤ i then (bs[i - a]?).getD (sget 0 T.a i) else sget 0 T.a i

/-- The order of TOPK's pairs (R286): NaN scores last, then by score, then by identity. -/
def PairOrder (x y : W32 × W32) : Prop :=
  match (exF32 x.1).cmp (exF32 y.1) with
  | some .lt => True
  | some .gt => False
  | some .eq => x.2.toNat ≤ y.2.toNat
  | none => exF32 y.1 = .nan ∧ (exF32 x.1 = .nan → x.2.toNat ≤ y.2.toNat)

/-- Two of TOPK's pairs have one key: the same identity, and scores that are both NaN or equal in value. -/
def sameKey (x y : W32 × W32) : Bool :=
  x.2 == y.2 && ((exF32 x.1 == .nan && exF32 y.1 == .nan) || (exF32 x.1).cmp (exF32 y.1) == some .eq)

/-- The pairs of FP32 scores and identities that `n` pairs of bytes hold. -/
def pairsAt (n : Nat) (l : List Byte) : List (W32 × W32) :=
  (List.range n).map fun k => (BitVec.ofNat 32 (fld l (8 * k) (8 * k + 3)), BitVec.ofNat 32 (fld l (8 * k + 4) (8 * k + 7)))

end Sys2Proof.Safety
end

