-- ==== Sys2Proof/Certificates/Slice0/Obligations.lean ====
section
/-! DEFINITION. The statements for the provers. Each docstring names the rules of the spec that the statement is about. -/

open Sys2Proof Sys2Proof.Machine Sys2Proof.Safety

/-! ## Arithmetic words (04, 06) -/

/-- R129: class 0 writes the result of its table row to v[d] of each active position and changes nothing else. -/
def Claims.IntegerArithmeticResults : Prop :=
  Alu2 .iadd (fun x y => BitVec.ofNat 32 (x.toNat + y.toNat)) ∧
  Alu2 .isub (fun x y => BitVec.ofInt 32 (x.toInt - y.toInt)) ∧
  Alu2 .iaddSatI32 (fun x y => BitVec.ofInt 32 (max (-2 ^ 31) (min (2 ^ 31 - 1) (x.toInt + y.toInt)))) ∧
  Alu2 .isubSatI32 (fun x y => BitVec.ofInt 32 (max (-2 ^ 31) (min (2 ^ 31 - 1) (x.toInt - y.toInt)))) ∧
  Alu2 .imul (fun x y => BitVec.ofNat 32 (x.toNat * y.toNat)) ∧
  Alu2 .imulhI32 (fun x y => BitVec.ofInt 32 ((x.toInt * y.toInt) / 2 ^ 32)) ∧
  Alu2 .imulhN32 (fun x y => BitVec.ofNat 32 (x.toNat * y.toNat / 2 ^ 32)) ∧
  Alu3 .imad (fun x y z => BitVec.ofNat 32 (x.toNat * y.toNat + z.toNat)) ∧
  Alu2 .iminI32 (fun x y => BitVec.ofInt 32 (min x.toInt y.toInt)) ∧
  Alu2 .iminN32 (fun x y => BitVec.ofNat 32 (min x.toNat y.toNat)) ∧
  Alu2 .imaxI32 (fun x y => BitVec.ofInt 32 (max x.toInt y.toInt)) ∧
  Alu2 .imaxN32 (fun x y => BitVec.ofNat 32 (max x.toNat y.toNat)) ∧
  Alu1 .iabs (fun x => if x = 0x80000000 then 0x80000000 else BitVec.ofInt 32 |x.toInt|) ∧
  Alu1 .ineg (fun x => BitVec.ofInt 32 (-x.toInt)) ∧
  Alu2 .iaddSatN32 (fun x y => BitVec.ofNat 32 (min (x.toNat + y.toNat) (2 ^ 32 - 1))) ∧
  Alu2 .isubSatN32 (fun x y => BitVec.ofInt 32 (max ((x.toNat : Int) - y.toNat) 0))

/-- R130: shifts by the whole unsigned count, rotation, and the bit counts. -/
def Claims.ShiftAndBitCountResults : Prop :=
  Alu2 .shlB32 (fun x y => if 32 ≤ y.toNat then 0 else BitVec.ofNat 32 (x.toNat * 2 ^ y.toNat)) ∧
  Alu2 .shrN32 (fun x y => if 32 ≤ y.toNat then 0 else BitVec.ofNat 32 (x.toNat / 2 ^ y.toNat)) ∧
  Alu2 .shrI32 (fun x y =>
    if 32 ≤ y.toNat then (if x.toInt < 0 then 0xFFFFFFFF else 0) else BitVec.ofInt 32 (x.toInt / 2 ^ y.toNat)) ∧
  Alu2 .rolB32 (fun x y =>
    BitVec.ofNat 32 (x.toNat * 2 ^ (y.toNat % 32) % 2 ^ 32 + x.toNat / 2 ^ (32 - y.toNat % 32))) ∧
  Alu1 .popc (fun x => BitVec.ofNat 32 (onesOf x)) ∧
  Alu1 .clz (fun x => if x = 0 then 32 else BitVec.ofNat 32 (31 - Nat.log2 x.toNat)) ∧
  Alu1 .brev BitVec.reverse

/-- R131: BFE and BFI read position and length from bits [7:0] and [15:8] of operand b, clamp the field into the word,
and extract or replace it. -/
def Obligations.BitFieldResults : Prop :=
  ∃ pos len : W32 → Nat,
    (∀ y, pos y = y.toNat % 2 ^ 8) ∧
    (∀ y, len y = min (if 32 ≤ pos y then 0 else y.toNat / 2 ^ 8 % 2 ^ 8) (32 - pos y)) ∧
    Alu2 .bfeN32 (fun x y => BitVec.ofNat 32 (x.toNat / 2 ^ pos y % 2 ^ len y)) ∧
    Alu2 .bfeI32 (fun x y =>
      let f := x.toNat / 2 ^ pos y % 2 ^ len y
      if len y = 0 then 0
      else if 2 ^ (len y - 1) ≤ f then BitVec.ofInt 32 ((f : Int) - 2 ^ len y) else BitVec.ofNat 32 f) ∧
    Alu3 .bfi (fun x y z =>
      BitVec.ofInt 32 (z.toNat - (z.toNat / 2 ^ pos y % 2 ^ len y * 2 ^ pos y : Nat) +
        (x.toNat % 2 ^ len y * 2 ^ pos y : Nat)))

/-- R127, R132: 64-bit arithmetic and shifts on pairs. -/
def Claims.PairArithmeticResults : Prop :=
  AluPair .iaddI64 (fun x y => BitVec.ofNat 64 (x.toNat + y.toNat)) ∧
  AluPair .isubI64 (fun x y => BitVec.ofInt 64 (x.toInt - y.toInt)) ∧
  AluPair .imulI64 (fun x y => BitVec.ofNat 64 (x.toNat * y.toNat)) ∧
  AluShift .shlB64 (fun x n => if 64 ≤ n then 0 else BitVec.ofNat 64 (x.toNat * 2 ^ n)) ∧
  AluShift .shrN64 (fun x n => if 64 ≤ n then 0 else BitVec.ofNat 64 (x.toNat / 2 ^ n)) ∧
  AluShift .shrI64 (fun x n =>
    if 64 ≤ n then (if x.toInt < 0 then BitVec.allOnes 64 else 0) else BitVec.ofInt 64 (x.toInt / 2 ^ n))

/-- R48, R133, R134: logic, comparison, selection, MOV, and LDI into a vector or a uniform register. -/
def Obligations.LogicCompareSelectResults : Prop :=
  Alu2 .iand (fun x y => x &&& y) ∧ Alu2 .ior (fun x y => x ||| y) ∧ Alu2 .ixor (fun x y => x ^^^ y) ∧
  Alu2 .iandn (fun x y => x &&& ~~~y) ∧
  Compare .cmpI32 (fun cc x y => condInt cc x.toInt y.toInt) ∧
  Compare .cmpN32 (fun cc x y => condInt cc x.toNat y.toNat) ∧
  ComparePair .cmpI64 (fun cc x y => condInt cc x.toInt y.toInt) ∧
  ComparePair .cmpN64 (fun cc x y => condInt cc x.toNat y.toNat) ∧
  (∀ (p : Pred) (k : BitVec 3) (d a : RegNum) (b : OpB) (s : State) (g : Group),
    Runs s g p ([d.toNat, a.toNat] ++ opBRegs 1 b) (a.toNat :: opBRegs 1 b) →
      LaneResult (.sel p k d a b) s g p (opBLen b) fun _ th u =>
        Wrote d.toNat (if th.pred k then th.get a.toNat else opBWord g th b) th u) ∧
  (∀ (p : Pred) (d : RegNum) (b : OpB) (s : State) (g : Group),
    Runs s g p (d.toNat :: opBRegs 1 b) (opBRegs 1 b) →
      LaneResult (.mov p d b) s g p (opBLen b) fun _ th u => Wrote d.toNat (opBWord g th b) th u) ∧
  (∀ (p : Pred) (d : RegNum) (imm : BitVec 16) (s : State) (g : Group), Runs s g p [d.toNat] [] →
    LaneResult (.ldi p false d imm) s g p 1 fun _ th u => Wrote d.toNat (BitVec.ofInt 32 imm.toInt) th u) ∧
  (∀ (p : Pred) (d : RegNum) (imm : BitVec 16) (s : State) (g : Group), Runs s g p [] [] →
    UniformResult (.ldi p true d imm) s g 1 (WroteS d.toNat (BitVec.ofInt 32 imm.toInt)))

/-- R64, R65, R70: `rnd` delivers, for a finite nonzero x, the value of the format that the mode chooses for x, with the sign
of x (`.rs` by the random word w of the draw), and beyond the largest finite value what the table of R65 gives. -/
def Obligations.RoundingChoosesTheNeighbour : Prop :=
  ∀ f ∈ [f32, bf16, e4m3, e5m2], ∀ (mode : RMode) (w : Nat) (neg : Bool) (m : Nat) (e : Int), m ≠ 0 →
    let x := exVal (.fin neg m e)
    let r := rnd f mode w (.fin neg m e)
    (|x| ≤ largest f →
      ∃ m' e', decodeFmt f r = .fin neg m' e' ∧ r < 2 ^ f.bits ∧ Chosen f mode w x (exVal (.fin neg m' e')) r) ∧
    (largest f < |x| → f.infs = false → r = maxBits f neg) ∧
    (largest f < |x| → f.infs = true →
      r =
        match mode with
        | .rn => if largest f + 2 ^ (f.qmax - 1) ≤ |x| then infBits f neg else maxBits f neg
        | .rz | .rs => maxBits f neg
        | .rd => if neg then infBits f neg else maxBits f neg
        | .ru => if neg then maxBits f neg else infBits f neg)

/-- R57, R136: sums and products are exact values rounded once; a zero sum of operands of opposite sign is -0 only in
`.rd`; NaN operands, infinity times zero and opposite infinities give the canonical NaN. -/
def Claims.FloatSumAndProductResults : Prop :=
  (∀ m, Alu2 (fun p d a b => .fadd p m d a b) fun x y => toF32 m (Ex.add m (exF32 x) (exF32 y))) ∧
  (∀ m, Alu2 (fun p d a b => .fsub p m d a b) fun x y => toF32 m (Ex.add m (exF32 x) (exF32 y).neg)) ∧
  (∀ m, Alu2 (fun p d a b => .fmul p m d a b) fun x y => toF32 m (Ex.mul (exF32 x) (exF32 y))) ∧
  (∀ m, Alu3 (fun p d a b => .ffma p m d a b) fun x y z =>
    toF32 m (Ex.add m (Ex.mul (exF32 x) (exF32 y)) (exF32 z))) ∧
  (∀ (mode : RMode) (a b : Bool) (m n : Nat) (e g : Int),
    (∃ c k q, Ex.add mode (.fin a m e) (.fin b n g) = .fin c k q ∧
      exVal (.fin c k q) = exVal (.fin a m e) + exVal (.fin b n g) ∧
      (k = 0 → c = if m = 0 ∧ n = 0 ∧ a = b then a else mode == .rd)) ∧
    (∃ c k q, Ex.mul (.fin a m e) (.fin b n g) = .fin c k q ∧
      exVal (.fin c k q) = exVal (.fin a m e) * exVal (.fin b n g) ∧ c = xor a b)) ∧
  (∀ (mode : RMode) (x : Ex), toF32 mode (Ex.add mode .nan x) = 0x7FC00000 ∧ toF32 mode (Ex.add mode x .nan) = 0x7FC00000 ∧
    toF32 mode (Ex.mul .nan x) = 0x7FC00000 ∧ toF32 mode (Ex.mul x .nan) = 0x7FC00000) ∧
  (∀ (mode : RMode) (a b : Bool) (e : Int), toF32 mode (Ex.mul (.inf a) (.fin b 0 e)) = 0x7FC00000 ∧
    toF32 mode (Ex.mul (.fin b 0 e) (.inf a)) = 0x7FC00000 ∧ toF32 mode (Ex.add mode (.inf a) (.inf !a)) = 0x7FC00000)

/-- R56, R137, R139: FMIN, FMAX, FABS and FNEG, and the class mask of FCLASS. -/
def Claims.MinMaxSignClassResults : Prop :=
  (∃ f : Bool → W32 → W32 → W32,
    Alu2 .fmin (f false) ∧ Alu2 .fmax (f true) ∧
    (∀ k x y, (exF32 x = .nan ∨ exF32 y = .nan) → f k x y = 0x7FC00000) ∧
    (∀ k x y, exF32 x ≠ .nan → exF32 y ≠ .nan →
      f k x y =
        if Ex.cmp (exF32 x) (exF32 y) = some .lt ∨
            (Ex.cmp (exF32 x) (exF32 y) = some .eq ∧ (exF32 x).isNeg = true) then
          (if k then y else x)
        else if k then x else y)) ∧
  Alu1 .fabs (fun x => if exF32 x = .nan then 0x7FC00000 else x &&& 0x7FFFFFFF) ∧
  Alu1 .fneg (fun x => if exF32 x = .nan then 0x7FC00000 else x ^^^ 0x80000000) ∧
  (∃ c : W32 → W32, Alu1 .fclass c ∧
    ∀ x : W32, ∃ k, k < 10 ∧ c x = BitVec.ofNat 32 (2 ^ k) ∧
      (k = 0 ↔ exF32 x = .inf true) ∧ (k = 7 ↔ exF32 x = .inf false) ∧
      (k = 3 ↔ x = 0x80000000) ∧ (k = 4 ↔ x = 0) ∧
      (k = 8 ↔ exF32 x = .nan ∧ x.getLsbD 22 = false) ∧ (k = 9 ↔ exF32 x = .nan ∧ x.getLsbD 22 = true) ∧
      (k = 2 ↔ ∃ m e, exF32 x = .fin true m e ∧ 0 < m ∧ m < 2 ^ 23) ∧
      (k = 5 ↔ ∃ m e, exF32 x = .fin false m e ∧ 0 < m ∧ m < 2 ^ 23) ∧
      (k = 1 ↔ ∃ m e, exF32 x = .fin true m e ∧ 2 ^ 23 ≤ m) ∧ (k = 6 ↔ ∃ m e, exF32 x = .fin false m e ∧ 2 ^ 23 ≤ m))

/-- R138: FCMP writes the IEEE 754 comparison of x and y to p[pd] of each active position; -0 equals +0; with a NaN operand
ne gives true and the others false. -/
def Obligations.FloatCompareResult : Prop :=
  ∃ f : Cond → W32 → W32 → Bool,
    Compare .fcmp f ∧
    (∀ cc x y, (exF32 x = .nan ∨ exF32 y = .nan) → f cc x y = (cc == .ne)) ∧
    (∀ cc x y a m e b n g, exF32 x = .fin a m e → exF32 y = .fin b n g →
      (f cc x y = true ↔
        match cc with
        | .eq => exVal (.fin a m e) = exVal (.fin b n g)
        | .ne => exVal (.fin a m e) ≠ exVal (.fin b n g)
        | .lt => exVal (.fin a m e) < exVal (.fin b n g)
        | .le => exVal (.fin a m e) ≤ exVal (.fin b n g)
        | .gt => exVal (.fin b n g) < exVal (.fin a m e)
        | .ge => exVal (.fin b n g) ≤ exVal (.fin a m e))) ∧
    (∀ cc x y a, exF32 x = .inf a → exF32 y ≠ .nan →
      f cc x y =
        if exF32 y = .inf a then (cc == .eq || cc == .le || cc == .ge)
        else if a then (cc == .ne || cc == .lt || cc == .le) else (cc == .ne || cc == .gt || cc == .ge)) ∧
    (∀ cc x y a b n g, exF32 x = .fin b n g → exF32 y = .inf a →
      f cc x y = if a then (cc == .ne || cc == .gt || cc == .ge) else (cc == .ne || cc == .lt || cc == .le))

/-- R58, R140: the functions of one operand complete; their special inputs and exact cases; FRCP, FSQRT and FRSQ are rounded to
nearest, and FRCP overflows to the infinity of its sign; FEXP2 and FLOG2 lie within half a unit in the last place and 2^-200
(log 6) of the exact value, and FEXP2 beyond the range gives +0 and +infinity; FRINT gives the integer that its mode chooses. -/
def Obligations.UnaryFunctionResults : Prop :=
  (∃ rcp sqrt rsq exp2 log2 : W32 → W32,
    Alu1 .frcp rcp ∧ Alu1 .fsqrt sqrt ∧ Alu1 .frsq rsq ∧ Alu1 .fexp2 exp2 ∧ Alu1 .flog2 log2 ∧
    (∀ x, exF32 x = .nan → ∀ f ∈ [rcp, sqrt, rsq, exp2, log2], f x = 0x7FC00000) ∧
    ([rcp, sqrt, rsq, exp2, log2].map fun f => f 0xFF800000) =
      [0x80000000, 0x7FC00000, 0x7FC00000, 0, 0x7FC00000] ∧
    ([rcp, sqrt, rsq, exp2, log2].map fun f => f 0x80000000) =
      [0xFF800000, 0x80000000, 0xFF800000, 0x3F800000, 0xFF800000] ∧
    ([rcp, sqrt, rsq, exp2, log2].map fun f => f 0) = [0x7F800000, 0, 0x7F800000, 0x3F800000, 0xFF800000] ∧
    ([rcp, sqrt, rsq, exp2, log2].map fun f => f 0x7F800000) = [0, 0x7F800000, 0, 0x7F800000, 0x7F800000] ∧
    (∀ x m e, exF32 x = .fin true m e → m ≠ 0 →
      sqrt x = 0x7FC00000 ∧ rsq x = 0x7FC00000 ∧ log2 x = 0x7FC00000) ∧
    (∀ x a m e, exF32 x = .fin a m e → m ≠ 0 →
      (|exVal (.fin a m e)| ≤ 1 / 2 ^ 128 → rcp x = if a then 0xFF800000 else 0x7F800000) ∧
      (1 / 2 ^ 128 < |exVal (.fin a m e)| → ∃ n g, exF32 (rcp x) = .fin a n g ∧
        ∀ y, Representable f32 y → |1 / exVal (.fin a m e) - exVal (.fin a n g)| ≤ |1 / exVal (.fin a m e) - y|)) ∧
    (∀ x m e, exF32 x = .fin false m e → m ≠ 0 → ∃ n g, exF32 (sqrt x) = .fin false n g ∧
      ∀ y, Representable f32 y →
        |Real.sqrt (exVal (.fin false m e)) - exVal (.fin false n g)| ≤ |Real.sqrt (exVal (.fin false m e)) - y|) ∧
    (∀ x m e, exF32 x = .fin false m e → m ≠ 0 → ∃ n g, exF32 (rsq x) = .fin false n g ∧
      ∀ y, Representable f32 y → |1 / Real.sqrt (exVal (.fin false m e)) - exVal (.fin false n g)| ≤
        |1 / Real.sqrt (exVal (.fin false m e)) - y|) ∧
    (∀ x a m e, exF32 x = .fin a m e →
      let v := exVal (.fin a m e)
      let p : ℝ := (2 : ℝ) ^ (v : ℝ)
      (v ≤ -150 → exp2 x = 0) ∧ (128 ≤ v → exp2 x = 0x7F800000) ∧
      (-150 < v → v < 128 → ∃ n g, exF32 (exp2 x) = .fin false n g ∧
        |exVal (.fin false n g) - p| ≤ max (p / 2 ^ 24) (1 / 2 ^ 150) + 1 / 2 ^ 200)) ∧
    (∀ x m e, exF32 x = .fin false m e → m ≠ 0 → ∃ b n g, exF32 (log2 x) = .fin b n g ∧
      let l : ℝ := Real.logb 2 (exVal (.fin false m e))
      |exVal (.fin b n g) - l| ≤ |l| / 2 ^ 24 + 1 / 2 ^ 200) ∧
    (∀ (x : W32) (n : Int) (a : Bool) (m : Nat) (e : Int), exF32 x = .fin a m e → exVal (.fin a m e) = n →
      -149 ≤ n → n ≤ 127 → ∃ k g, exF32 (exp2 x) = .fin false k g ∧ exVal (.fin false k g) = 2 ^ n) ∧
    (∀ (x : W32) (n : Int) (m : Nat) (e : Int), exF32 x = .fin false m e → exVal (.fin false m e) = 2 ^ n →
      ∃ b k g, exF32 (log2 x) = .fin b k g ∧ exVal (.fin b k g) = n ∧ (n = 0 → b = false))) ∧
  (∃ f : RMode → W32 → W32,
    (∀ m, Alu1 (fun p d a => .frint p m d a) (f m)) ∧
    (∀ m x, exF32 x = .nan → f m x = 0x7FC00000) ∧ (∀ m x a, exF32 x = .inf a → f m x = x) ∧
    ∀ mode x a m e, exF32 x = .fin a m e →
      ∃ n g, exF32 (f mode x) = .fin a n g ∧ (mode ≠ .rs → exVal (.fin a n g) = integerOf mode (exVal (.fin a m e))))

/-- R141, R142: packed arithmetic acts on elements of the same index, rounding to nearest even, and PDOT adds one chunk of
exact products to z. -/
def Claims.PackedResults : Prop :=
  let bf := fun (f : Ex → Ex → Ex → Ex) (x y z : W32) => BitVec.ofNat 32
    (rnd bf16 .rn 0 (f (decodeFmt bf16 (x.toNat % 2 ^ 16)) (decodeFmt bf16 (y.toNat % 2 ^ 16)) (decodeFmt bf16 (z.toNat % 2 ^ 16))) +
      2 ^ 16 * rnd bf16 .rn 0 (f (decodeFmt bf16 (x.toNat / 2 ^ 16)) (decodeFmt bf16 (y.toNat / 2 ^ 16)) (decodeFmt bf16 (z.toNat / 2 ^ 16))))
  let byte := fun (x : W32) (e : Nat) => x.toNat / 2 ^ (8 * e) % 2 ^ 8
  let bf2 := fun (k : Bool) (x y : W32) => BitVec.ofNat 32
    (fmtMinMax bf16 k (x.toNat % 2 ^ 16) (y.toNat % 2 ^ 16) + 2 ^ 16 * fmtMinMax bf16 k (x.toNat / 2 ^ 16) (y.toNat / 2 ^ 16))
  let by4 := fun (f : Fmt) (k : Bool) (x y : W32) => BitVec.ofNat 32
    (fmtMinMax f k (byte x 0) (byte y 0) + 2 ^ 8 * fmtMinMax f k (byte x 1) (byte y 1) +
      2 ^ 16 * fmtMinMax f k (byte x 2) (byte y 2) + 2 ^ 24 * fmtMinMax f k (byte x 3) (byte y 3))
  let dot4 := fun (f : Fmt) (x y z : W32) => chunkAdd z (exSum ((List.range 4).map fun e =>
    Ex.mul (decodeFmt f (byte x e)) (decodeFmt f (byte y e))))
  Alu2 .paddBf16 (fun x y => bf (fun u v _ => Ex.add .rn u v) x y 0) ∧
  Alu2 .psubBf16 (fun x y => bf (fun u v _ => Ex.add .rn u v.neg) x y 0) ∧
  Alu2 .pmulBf16 (fun x y => bf (fun u v _ => Ex.mul u v) x y 0) ∧
  Alu3 .pfmaBf16 (bf fun u v z => Ex.add .rn (Ex.mul u v) z) ∧
  Alu2 .pminBf16 (bf2 false) ∧ Alu2 .pmaxBf16 (bf2 true) ∧ Alu2 .pminE4m3 (by4 e4m3 false) ∧
  Alu2 .pmaxE4m3 (by4 e4m3 true) ∧ Alu2 .pminE5m2 (by4 e5m2 false) ∧ Alu2 .pmaxE5m2 (by4 e5m2 true) ∧
  Alu3 .pdotBf16 (fun x y z => chunkAdd z (exSum
    [Ex.mul (decodeFmt bf16 (x.toNat % 2 ^ 16)) (decodeFmt bf16 (y.toNat % 2 ^ 16)),
      Ex.mul (decodeFmt bf16 (x.toNat / 2 ^ 16)) (decodeFmt bf16 (y.toNat / 2 ^ 16))])) ∧
  Alu3 .pdotE4m3 (dot4 e4m3) ∧ Alu3 .pdotE5m2 (dot4 e5m2)

/-- R60, R66, R68, R69, R143, R144: conversions and packing, each stochastically rounded element taking one draw of its
position in element order. -/
def Claims.ConversionResults : Prop :=
  Convert .cvtBf16F32 1 1 (fun m w x => BitVec.ofNat 32 (rnd bf16 m (w 0) (exF32 (x 0)))) ∧
  Convert .cvtE4m3F32 1 1 (fun m w x => BitVec.ofNat 32 (rnd e4m3 m (w 0) (exF32 (x 0)))) ∧
  Convert .cvtE5m2F32 1 1 (fun m w x => BitVec.ofNat 32 (rnd e5m2 m (w 0) (exF32 (x 0)))) ∧
  Convert .cvtI32F32 1 1 (fun m w x => BitVec.ofInt 32 (rndInt (-2 ^ 31) (2 ^ 31 - 1) m (w 0) (exF32 (x 0)))) ∧
  Convert .cvtN32F32 1 1 (fun m w x => BitVec.ofInt 32 (rndInt 0 (2 ^ 32 - 1) m (w 0) (exF32 (x 0)))) ∧
  Convert .cvtF32I32 1 1 (fun m w x => BitVec.ofNat 32 (rnd f32 m (w 0) (exOfInt (x 0).toInt))) ∧
  Convert .cvtF32N32 1 1 (fun m w x => BitVec.ofNat 32 (rnd f32 m (w 0) (exOfInt (x 0).toNat))) ∧
  Convert .cvtF32I64 2 1 (fun m w x => BitVec.ofNat 32 (rnd f32 m (w 0) (exOfInt (pairOf (x 0) (x 1)).toInt))) ∧
  Convert .packBf16 2 2 (fun m w x => BitVec.ofNat 32
    (rnd bf16 m (w 0) (exF32 (x 0)) + 2 ^ 16 * rnd bf16 m (w 1) (exF32 (x 1)))) ∧
  (∀ q ∈ [(Instr.packE4m3, e4m3), (Instr.packE5m2, e5m2)],
    Convert q.1 4 4 (fun m w x => BitVec.ofNat 32
      (rnd q.2 m (w 0) (exF32 (x 0)) + 2 ^ 8 * rnd q.2 m (w 1) (exF32 (x 1)) +
        2 ^ 16 * rnd q.2 m (w 2) (exF32 (x 2)) + 2 ^ 24 * rnd q.2 m (w 3) (exF32 (x 3))))) ∧
  ∃ f : Fmt → W32 → W32,
    Alu1 .cvtF32Bf16 (f bf16) ∧ Alu1 .cvtF32E4m3 (f e4m3) ∧ Alu1 .cvtF32E5m2 (f e5m2) ∧
    ∀ q ∈ [bf16, e4m3, e5m2], ∀ x : W32,
      match decodeFmt q (x.toNat % 2 ^ q.bits) with
      | .nan => f q x = 0x7FC00000
      | .inf a => exF32 (f q x) = .inf a
      | .fin a m e => ∃ n g, exF32 (f q x) = .fin a n g ∧ exVal (.fin a n g) = exVal (.fin a m e)

/-- R108: predicate logic, PSAVE, PREST and the votes over the active positions of a converged group. -/
def Claims.PredicateAndVoteResults : Prop :=
  PredLogic .pand (fun x y => x && y) ∧ PredLogic .por (fun x y => x || y) ∧ PredLogic .pxor (fun x y => xor x y) ∧
  PredLogic .pandn (fun x y => x && !y) ∧
  (∀ (p : Pred) (d : RegNum) (s : State) (g : Group), Runs s g p [d.toNat] [] →
    LaneResult (.psave p d) s g p 1 fun _ th u => ∃ x : W32, Wrote d.toNat x th u ∧
      ∀ k, x.getLsbD k = (decide (k < 7) && th.pred (BitVec.ofNat 3 k))) ∧
  (∀ (p : Pred) (a : RegNum) (s : State) (g : Group), Runs s g p [a.toNat] [a.toNat] →
    LaneResult (.prest p a) s g p 1 fun _ th u =>
      (∀ k : Nat, k < 7 → u.pred (BitVec.ofNat 3 k) = (th.get a.toNat).getLsbD k) ∧ { u with p := th.p } = th) ∧
  (∀ pa, Vote (fun p pd => .voteAny p pd pa) [] fun A => ∃ t, A t ∧ t.pred pa = true) ∧
  (∀ pa, Vote (fun p pd => .voteAll p pd pa) [] fun A => ∀ t, A t → t.pred pa = true) ∧
  (∀ a : RegNum, Vote (fun p pd => .voteEq p pd a) [a.toNat] fun A =>
    ∀ t u, A t → A u → t.get a.toNat = u.get a.toNat) ∧
  (∀ (p : Pred) (sd : RegNum) (pa : BitVec 3) (s : State) (g : Group), Runs s g p [] [] → g.converged = true →
    UniformResult (.voteBallot p sd pa) s g 1 fun g g' => ∃ m : Mask, WroteS64 sd.toNat m g g' ∧
      ∀ k, m.getLsbD k = true ↔ (g.active p).getLsbD k = true ∧ ∃ t, g.thread? k = some t ∧ t.pred pa = true)

/-- R110: SHFL reads every source before any destination is written and gives a position its own value where the lane it
names is not active; RDFL and RDLN read one lane into a uniform register. -/
def Claims.LaneReadResults : Prop :=
  Shuffle .shflIdx (fun w _ n => (n % w : Nat)) ∧ Shuffle .shflUp (fun _ k n => (k : Int) - n) ∧
  Shuffle .shflDown (fun _ k n => (k : Int) + n) ∧ Shuffle .shflXor (fun w k n => (k ^^^ (n % w) : Nat)) ∧
  (∀ (p : Pred) (sd a : RegNum) (s : State) (g : Group), Runs s g p [a.toNat] [a.toNat] →
    UniformResult (.rdfl p sd a) s g 1 fun g g' => ∀ k t, (g.active p).getLsbD k = true →
      (∀ j, j < k → (g.active p).getLsbD j = false) → g.thread? k = some t → WroteS sd.toNat (t.get a.toNat) g g') ∧
  (∀ (p : Pred) (sd a : RegNum) (b : OpS) (s : State) (g : Group), Runs s g p [a.toNat] [a.toNat] →
    UniformResult (.rdln p sd a b) s g (opSLen b) fun g g' =>
      let n := (opSWord g b).toNat
      (∀ t, n < g.width → (g.active p).getLsbD n = true → g.thread? n = some t → WroteS sd.toNat (t.get a.toNat) g g') ∧
      (¬ (n < g.width ∧ (g.active p).getLsbD n = true) → WroteS sd.toNat 0 g g'))

/-! ## Control words (05, 10) -/

/-- R88, R90: a frontier that is rebuilt is a frontier as R88 describes it, of at most 8 entries; each lane of the entry
stands where it goes, merged with an entry that is there, else in a new entry with the priority of the header there or, of a
clause that ended without a control word and a header that cannot be read, with the priority kept; and the lanes of other
entries stand where they stood. -/
def Obligations.RebuiltFrontierIsWellFormed : Prop :=
  ∀ (s : State) (g : Group) (e : Entry) (keep : Option Nat) (dest : Nat → Option W64) (f : List Entry) (live : Mask),
    FrontierOk g.frontier live → e ∈ g.frontier → s.rebuild g e keep dest = .ok f →
      f.length ≤ 8 ∧
      (∃ live', FrontierOk f live' ∧ ∀ k, live'.getLsbD k = true ↔
        live.getLsbD k = true ∧ (e.mask.getLsbD k = true → (dest k).isSome = true)) ∧
      (∀ k a, e.mask.getLsbD k = true → dest k = some a → ∃ x ∈ f, x.addr = a ∧ x.mask.getLsbD k = true ∧
        ((∀ y ∈ g.frontier, y ≠ e → y.addr ≠ a) →
          match s.fetchWord (s.whoOf g) a with
          | .word h => x.prio = h.toNat % 4096
          | _ => keep = some x.prio)) ∧
      (∀ x ∈ g.frontier, x ≠ e → ∃ y ∈ f, y.addr = x.addr ∧ y.prio = x.prio ∧ x.mask &&& y.mask = x.mask)

/-- R49, R97, R98, R102: BRA and JMP send the active lanes to their target, NOP and YIELD send every lane on; YIELD takes
the group out of 16 turns. Nothing else changes. -/
def Claims.BranchJumpNopYieldResults : Prop :=
  ∀ (p : Pred) (s : State) (g : Group) (c : Clause) (e : Entry), Steers s g p [] [] c e →
    (∀ off : BitVec 22, ControlResult (.bra p off) s g e
      (toward (g.active p) (c.kept + BitVec.ofInt 64 (4 * off.toInt)) (nextOf c)) fun h => h = g) ∧
    (∀ sa : RegNum, (g.sGet sa.toNat).toNat % 4 = 0 → ControlResult (.jmp p sa) s g e
      (toward (g.active p) (s.cbOf g + (g.sGet sa.toNat).setWidth 64) (nextOf c)) fun h => h = g) ∧
    ControlResult (.nop p) s g e (fun _ => some (nextOf c)) (fun h => h = g) ∧
    ControlResult (.yield p) s g e (fun _ => some (nextOf c)) fun h => h = { g with run := .yielding 16 }

/-- R96 to R98: CALL writes the link to v1 and adds 1 to the depth of each active lane; RET takes 1 off and goes to the
link that each lane holds. -/
def Claims.CallAndReturnResults : Prop :=
  ∀ (p : Pred) (s : State) (g : Group) (c : Clause) (e : Entry),
    let A := g.active p
    let called := fun (_ : Nat) (th u : Thread) =>
      Wrote 1 ((nextOf c - s.cbOf g).setWidth 32) { th with depth := th.depth + 1 } u
    (Steers s g p [] [] c e → (∀ k th, A.getLsbD k = true → g.thread? k = some th → th.depth ≠ 65535) →
      (∀ off : BitVec 22, ControlResult (.call p off) s g e
        (toward A (c.kept + BitVec.ofInt 64 (4 * off.toInt)) (nextOf c)) fun h => LanesChanged g h A called) ∧
      (∀ sa : RegNum, (g.sGet sa.toNat).toNat % 4 = 0 → ControlResult (.callUniform p sa) s g e
        (toward A (s.cbOf g + (g.sGet sa.toNat).setWidth 64) (nextOf c)) fun h => LanesChanged g h A called)) ∧
    (Steers s g p [1] [1] c e →
      (∀ k th, A.getLsbD k = true → g.thread? k = some th → th.depth ≠ 0 ∧ (th.get 1).toNat % 4 = 0) →
      ControlResult (.ret p) s g e
        (fun k => if A.getLsbD k then (g.thread? k).map fun th => s.cbOf g + (th.get 1).setWidth 64 else some (nextOf c))
        fun h => LanesChanged g h A fun _ th u => u = { th with depth := th.depth - 1 })

/-- R95, R97, R98: a call at depth 65,535, a return at depth 0 and a misaligned target trap before any change, with the
lanes concerned as the fault mask of STACK_LIMIT and RET_UNDERFLOW. -/
def Claims.CallAndReturnTraps : Prop :=
  ∀ (p : Pred) (s : State) (g : Group) (c : Clause) (e : Entry),
    let A := g.active p
    let deep := maskOf fun k => A.getLsbD k && ((g.thread? k).map fun th => th.depth == 65535).getD false
    let under := maskOf fun k => A.getLsbD k && ((g.thread? k).map fun th => th.depth == 0).getD false
    let odd := maskOf fun k => A.getLsbD k && ((g.thread? k).map fun th => (th.get 1).toNat % 4 != 0).getD false
    (Steers s g p [] [] c e →
      (∀ off : BitVec 22, deep ≠ 0 → Traps (.call p off) s g Cause.stackLimit A deep 0) ∧
      (∀ sa : RegNum, (g.sGet sa.toNat).toNat % 4 ≠ 0 →
        Traps (.jmp p sa) s g Cause.misaligned A A 0 ∧ Traps (.callUniform p sa) s g Cause.misaligned A A 0) ∧
      (∀ sa : RegNum, (g.sGet sa.toNat).toNat % 4 = 0 → deep ≠ 0 →
        Traps (.callUniform p sa) s g Cause.stackLimit A deep 0)) ∧
    (Steers s g p [1] [1] c e →
      (under ≠ 0 → Traps (.ret p) s g Cause.retUnderflow A under 0) ∧
      (under = 0 → odd ≠ 0 → Traps (.ret p) s g Cause.misaligned A odd 0))

/-- R99, R101, R215: TAIL ends the active threads: their lanes are live no longer, each one's team counts it, it leaves its
barriers; the other lanes go on, and no other group, team or byte of memory changes. -/
def Claims.TailResult : Prop :=
  ∀ (p : Pred) (s : State) (g : Group) (c : Clause) (e : Entry) (f : List Entry), Steers s g p [] [] c e → g.sret = none →
    s.popIssue.rebuild g e none (leaving (g.active p) (nextOf c)) = .ok f →
      ∃ t g1, exec (.tail p) s = .next t ∧ Becomes s t g (steered g1 f) ∧ MemorySame s t ∧
        { g1 with lanes := g.lanes, latch := g.latch } = g ∧ g1.latch = none ∧
        (∀ k, g1.thread? k = if (g.active p).getLsbD k then none else g.thread? k) ∧
        t = { s with
          groups := t.groups, issueQ := s.issueQ.tail, teams := t.teams, grids := t.grids, preempts := t.preempts } ∧
        ((t.preempts.map fun x => { x with events := [] }) = s.preempts.map fun x => { x with events := [] }) ∧
        (∀ k x, s.team? k = some x → ∃ y, t.team? k = some y ∧
          y.ended = x.ended +
            ((lanesOf (g.active p)).filter fun n => ((g.thread? n).map fun th => th.team == k).getD false).length ∧
          { y with ended := x.ended, barrier := x.barrier } = x) ∧
        (t.grids.map fun x => { x with barriers := [] }) = s.grids.map fun x => { x with barriers := [] }

/-- R221, R222, R226, R227: REGROUP puts the record of each active thread, in ascending lane order, behind the records of
its bin and takes the thread out of the group; every other bin, core, group and byte of memory is as before. -/
def Claims.RegroupDepositsRecords : Prop :=
  ∀ (p : Pred) (l vkey : RegNum) (b : OpS) (s : State) (g : Group) (c : Clause) (e : Entry) (h : W32) (f : List Entry),
    let A := g.active p
    let L := l.toNat + 1
    let tuple := fun (th : Thread) => regroupBin g th vkey ((nextOf c - s.cbOf g).setWidth 32) (h.toNat % 4096) (opSWord g b == 1)
    let ts := (lanesOf A).filterMap g.thread?
    let bins := (s.core g.core).bins
    Steers s g p [vkey.toNat, l.toNat] (vkey.toNat :: List.range L) c e → g.sret = none →
    (opSWord g b).toNat < 2 → g.cnt = ⟨0, 0, 0, 0⟩ → s.popIssue.fetchWord (s.whoOf g) (nextOf c) = .word h →
    BinsDistinct bins →
    (s.core g.core).usedSlots + ts.length * (2 + (L + 7) / 8) ≤ (if isService g.core then 1024 else 4096) →
    bins.length + (newBins bins [] (ts.map tuple)).length ≤ 1024 →
    s.popIssue.rebuild g e none (leaving A (nextOf c)) = .ok f →
      ∃ t g1, exec (.regroup p l vkey b) s = .next t ∧ Becomes s t g (steered g1 f) ∧ MemorySame s t ∧
        { g1 with lanes := g.lanes, latch := g.latch } = g ∧
        (∀ k, g1.thread? k = if A.getLsbD k then none else g.thread? k) ∧
        t = { s with groups := t.groups, issueQ := s.issueQ.tail, cores := t.cores } ∧
        BinsDistinct (t.core g.core).bins ∧
        (∀ x, recordsOf (t.core g.core).bins x =
          recordsOf bins x ++ (ts.filter fun th => (tuple th).matches x).map fun th =>
            ⟨{ th with v := th.v.filter fun r => decide (r.1 < L) }, true, L, 2 + (L + 7) / 8, s.cyclesOf g.core, false⟩) ∧
        (t.core g.core) = { s.core g.core with bins := (t.core g.core).bins } ∧
        ∀ o, o ≠ g.core → t.core o = s.core o

/-- R227: REGROUP with reserved descriptor bits raises ILLEGAL_STATE, is held while an operation of its group is
outstanding, traps or ends its team where the next header, whose priority it reads, cannot be read, is held while that read
has to wait (R25), and raises CONT_FULL, depositing nothing, where the records or their bins find no room. -/
def Claims.RegroupHoldsAndTraps : Prop :=
  ∀ (p : Pred) (l vkey : RegNum) (b : OpS) (s : State) (g : Group) (c : Clause) (e : Entry),
    let A := g.active p
    let L := l.toNat + 1
    let ts := (lanesOf A).filterMap g.thread?
    let bins := (s.core g.core).bins
    Steers s g p [vkey.toNat, l.toNat] (vkey.toNat :: List.range L) c e →
      (2 ≤ (opSWord g b).toNat → Traps (.regroup p l vkey b) s g Cause.illegalState A A 0) ∧
      ((opSWord g b).toNat < 2 → g.cnt ≠ ⟨0, 0, 0, 0⟩ →
        exec (.regroup p l vkey b) s = .next { s with issueQ := s.issueQ.tail }) ∧
      ((opSWord g b).toNat < 2 → g.cnt = ⟨0, 0, 0, 0⟩ →
        (∀ cause, s.popIssue.fetchWord (s.whoOf g) (nextOf c) = .fault cause →
          Traps (.regroup p l vkey b) s g cause A A (nextOf c)) ∧
        (∀ ds, s.popIssue.fetchWord (s.whoOf g) (nextOf c) = .wait ds → HeldFor (.regroup p l vkey b) s ds) ∧
        ∀ cause th T x, s.popIssue.fetchWord (s.whoOf g) (nextOf c) = .lost cause →
          (lowLane A).bind g.thread? = some th → s.team? th.team = some T → isService T.core = false →
          s.grid? T.grid = some x → x.cause = none →
            ∃ t, exec (.regroup p l vkey b) s = .next t ∧ GridEnds s t x T cause) ∧
      (∀ h : W32, (opSWord g b).toNat < 2 → g.cnt = ⟨0, 0, 0, 0⟩ →
        s.popIssue.fetchWord (s.whoOf g) (nextOf c) = .word h →
        ((if isService g.core then 1024 else 4096) < (s.core g.core).usedSlots + ts.length * (2 + (L + 7) / 8) ∨
          1024 < bins.length + (newBins bins [] (ts.map fun th => regroupBin g th vkey
            ((nextOf c - s.cbOf g).setWidth 32) (h.toNat % 4096) (opSWord g b == 1))).length) →
        Traps (.regroup p l vkey b) s g Cause.contFull A A 0)

/-- R230: REGROUP.FLUSH, with an active position, flushes every bin of the core that holds records of the issuing grid, and
sends every lane of the entry on; with none it only sends them on. It changes no register or counter. Of a service core, which
runs no grid, it flushes the bins of the issuing group's own state, user or supervisor: the model's choice (log 27). -/
def Claims.RegroupFlushResult : Prop :=
  ∀ (p : Pred) (s : State) (g : Group) (c : Clause) (e : Entry) (f : List Entry), s.issuing? = some g →
    g.clause = some c → g.entry? = some e → g.sret = none →
    s.popIssue.rebuild g e none (fun _ => some (nextOf c)) = .ok f →
      ∃ t, exec (.regroupFlush p) s = .next t ∧ Becomes s t g (steered g f) ∧ MemorySame s t ∧
        t = { s with groups := t.groups, issueQ := s.issueQ.tail, cores := t.cores } ∧
        (g.active p = 0 → t.cores = s.cores) ∧
        (g.active p ≠ 0 →
          t.core g.core = { s.core g.core with
            bins := (s.core g.core).bins.map fun b =>
              if b.grid = g.grid ∧ b.sup = g.supervisor then { b with flushed := true } else b } ∧
          ∀ o, o ≠ g.core → t.core o = s.core o)

/-- R50, R104: SPAWN, executed by one position whose thread is number 0, queues the child at its block's launch record and
returns the new grid's identity, or returns BUSY and queues nothing; and the traps of its checks, in their order, those of
reading its block among them, and what it meets where its lanes find no place in the frontier (R90, R91). A SPAWN of a service
core queues its child on the lowest live Vent of its partition, in context 0 at level 0 (R320): the model's choice (log 14). -/
def Obligations.SpawnResults : Prop :=
  ∀ (p : Pred) (sd ps : RegNum) (s : State) (g : Group) (c : Clause) (e : Entry), Steers s g p [] [] c e →
    let A := g.active p
    let a : W64 := (g.sGet ps.toNat).setWidth 64
    (((lanesOf A).filterMap g.thread?).length ≠ 1 → Traps (.spawn p sd ps) s g Cause.illegalState A A 0) ∧
    ∀ th, (lanesOf A).filterMap g.thread? = [th] →
      (th.tid ≠ 0 → Traps (.spawn p sd ps) s g Cause.illegalState A A 0) ∧
      (th.tid = 0 → BlockTraps (.spawn p sd ps) s g p ps 32 (wholeOf 32)) ∧
      ∀ l, th.tid = 0 → NoAcquirePending s g → s.popIssue.readParts g A ps 32 (wholeOf 32) = .ok l →
        (fld l 16 31 ≠ 0 → Traps (.spawn p sd ps) s g Cause.illegalInstruction A A a) ∧
        (fld l 16 31 = 0 → ¬ (fld l 0 7 % 64 = 0 ∧ fld l 8 15 % 8 = 0) →
          Traps (.spawn p sd ps) s g Cause.misaligned A A a) ∧
        (fld l 16 31 = 0 → fld l 0 7 % 64 = 0 → fld l 8 15 % 8 = 0 →
          (s.depthOf g = 10 → Traps (.spawn p sd ps) s g Cause.spawnDepth A A a) ∧
          (s.depthOf g ≠ 10 → MeetsFrontier (.spawn p sd ps) s g e A fun _ => some (nextOf c)) ∧
          (s.depthOf g ≠ 10 → s.childRoom g.core = false → ControlResult (.spawn p sd ps) s g e
            (fun _ => some (nextOf c)) fun h => { h with s := g.s } = g ∧ WroteS64 sd.toNat (pairOf 0 1) g h) ∧
          (∀ f v, s.depthOf g ≠ 10 → s.childRoom g.core = true → s.childVent g.core = some v →
            (isService g.core = false → (s.grid? g.grid).isSome = true) → g.sret = none →
            s.popIssue.rebuild g e none (fun _ => some (nextOf c)) = .ok f →
              ∃ t g1 ch, exec (.spawn p sd ps) s = .next t ∧ Becomes s t g (steered g1 f) ∧ MemorySame s t ∧
                { g1 with s := g.s } = g ∧ WroteS64 sd.toNat (pairOf s.nextGrid 0) g g1 ∧
                t = { s with
                  groups := t.groups, issueQ := s.issueQ.tail, scheds := t.scheds, nextGrid := s.nextGrid + 1 } ∧
                childrenOf t v = childrenOf s v ++ [ch] ∧ (∀ w, w ≠ v → childrenOf t w = childrenOf s w) ∧
                ch.id = s.nextGrid ∧ ch.lrec = BitVec.ofNat 64 (fld l 0 7) ∧ ch.done = BitVec.ofNat 64 (fld l 8 15) ∧
                ch.depth = (if isService g.core then 1 else s.depthOf g + 1) ∧ ch.parent = th.team ∧ ch.sup = g.supervisor ∧
                (∀ x, isService g.core = false → s.grid? g.grid = some x →
                  ch.part = x.part ∧ ch.ctx = x.ctx ∧ ch.level = x.level) ∧
                ∀ k, g.core = .service k → ch.part = k ∧ ch.ctx = 0 ∧ ch.level = 0))

/-! ## Memory words (07 to 09) -/

/-- R51, R123, R166, R167: a load whose lanes pass every check issues one operation on the LD counter with one access for
each place, and changes no register; a `.rs` load writes its destination at once from the lane's own registers (R121). -/
def Claims.LoadsIssueOrReadRegisters : Prop :=
  ∀ q ∈ [(Instr.ldB8, 1, false), (.ldB16, 2, false), (.ldB32, 4, false), (.ldB64, 8, false), (.ldB128, 16, false),
      (.ldI8, 1, true), (.ldI16, 2, true)],
    ∀ (p : Pred) (d : RegNum) (m : MemOp) (s : State) (g : Group),
      let z := q.2.1
      Runs s g p (regsFrom d ((z + 3) / 4) ++ memRegs m) (memRegs m) → g.cnt.ld < 63 → NoAcquirePending s g →
      EachLane g p (fun th => memAddr m z th % z = 0) →
        (m.space ≠ .rs → EachLane g p (fun th => (s.piecesOf th m.space (memAddr m z th) z).isSome = true) →
          ∀ ps, Translated s g p .read (memPieces s m z) ps →
            IssueResult (q.1 p d m) s g p (memLen m) .ld fun o =>
              o.kind = .load z q.2.2 d.toNat ∧ o.path = .lsu ∧
              o.accs = accsOf g ps (memAddr m z) (fun _ _ _ => []) fun _ => []) ∧
        (m.space = .rs → EachLane g p (fun th => memAddr m z th + z ≤ 4 * g.cap) →
          EachLane g p (fun th => ∀ k, k < (z + 3) / 4 → memAddr m z th / 4 + k ∉ th.bad) →
          LaneResult (q.1 p d m) s g p (memLen m) fun _ th u =>
            let o := memAddr m z th
            OnlyRegs (regsFrom d ((z + 3) / 4)) th u ∧
            (4 ≤ z → ∀ k, k < z / 4 → u.get (d.toNat + k) = th.get (o / 4 + k)) ∧
            (z < 4 → u.get d.toNat =
              let x := (th.get (o / 4)).toNat / 2 ^ (8 * (o % 4)) % 2 ^ (8 * z)
              if q.2.2 = true ∧ 2 ^ (8 * z - 1) ≤ x then BitVec.ofInt 32 ((x : Int) - 2 ^ (8 * z)) else BitVec.ofNat 32 x))

/-- R51, R123, R166, R167: a store whose lanes pass every check issues one operation on the ST counter that carries the
bytes of its source registers; a `.rs` store writes the named bytes of the lane's own registers at once (R121). -/
def Claims.StoresIssueOrWriteRegisters : Prop :=
  ∀ q ∈ [(Instr.stB8, 1), (.stB16, 2), (.stB32, 4), (.stB64, 8), (.stB128, 16)],
    ∀ (p : Pred) (d : RegNum) (m : MemOp) (s : State) (g : Group),
      let z := q.2
      let regs := regsFrom d ((z + 3) / 4) ++ memRegs m
      Runs s g p regs regs → g.cnt.st < 63 → NoAcquirePending s g →
      EachLane g p (fun th => memAddr m z th % z = 0 ∧
        (m.space = .pv → m.base = 0 → th.splim.toNat ≤ memAddr m z th)) →
        (m.space ≠ .rs → EachLane g p (fun th => (s.piecesOf th m.space (memAddr m z th) z).isSome = true) →
          ∀ ps, Translated s g p .write (memPieces s m z) ps →
            IssueResult (q.1 p d m) s g p (memLen m) .st fun o =>
              o.kind = .store ∧ o.path = .lsu ∧
              o.accs = accsOf g ps (memAddr m z) (fun k r n => storeBytes g d z k r n) fun _ => []) ∧
        (m.space = .rs → EachLane g p (fun th => memAddr m z th + z ≤ 4 * g.cap) →
          LaneResult (q.1 p d m) s g p (memLen m) fun _ th u =>
            OnlyRegs ((List.range ((z + 3) / 4)).map fun k => memAddr m z th / 4 + k) th u ∧
            ∀ n, (u.get (n / 4)).toNat / 2 ^ (8 * (n % 4)) % 2 ^ 8 =
              if memAddr m z th ≤ n ∧ n < memAddr m z th + z then
                (th.get (d.toNat + (n - memAddr m z th) / 4)).toNat / 2 ^ (8 * ((n - memAddr m z th) % 4)) % 2 ^ 8
              else (th.get (n / 4)).toNat / 2 ^ (8 * (n % 4)) % 2 ^ 8)

/-- R124: a store to the private space whose base is v0 raises STACK_LIMIT, precisely, in the positions whose address is
below their `sr.splim`, and changes nothing in any position. -/
def Obligations.StackLimitTrap : Prop :=
  ∀ q ∈ [(Instr.stB8, 1), (.stB16, 2), (.stB32, 4), (.stB64, 8), (.stB128, 16)],
    ∀ (p : Pred) (d : RegNum) (m : MemOp) (s : State) (g : Group),
      let z := q.2
      let regs := regsFrom d ((z + 3) / 4) ++ memRegs m
      let below := lanesFailing g p fun th => decide (th.splim.toNat ≤ memAddr m z th)
      Runs s g p regs regs → g.cnt.st < 63 → NoAcquirePending s g → m.space = .pv → m.base = 0 → below ≠ 0 →
        Traps (q.1 p d m) s g Cause.stackLimit (g.active p) below (lowestAddr g below (memAddr m z))

/-- R121, R164, R167, R185: a misaligned address raises MISALIGNED before an extent raises PERMISSION, each with the mask
of the positions that fail it; a translation that fails parks the group with the cause of the lowest such position. -/
def Obligations.AccessChecksTrapInOrder : Prop :=
  ∀ q ∈ [(Instr.ldB8, 1, false), (.ldB16, 2, false), (.ldB32, 4, false), (.ldB64, 8, false), (.ldB128, 16, false),
      (.ldI8, 1, false), (.ldI16, 2, false), (.stB8, 1, true), (.stB16, 2, true), (.stB32, 4, true), (.stB64, 8, true),
      (.stB128, 16, true)],
    ∀ (p : Pred) (d : RegNum) (m : MemOp) (s : State) (g : Group),
      let z := q.2.1
      let regs := regsFrom d ((z + 3) / 4) ++ memRegs m
      let odd := lanesFailing g p fun th => memAddr m z th % z == 0
      let out := lanesFailing g p fun th =>
        match m.space with
        | .rs => decide (memAddr m z th + z ≤ 4 * g.cap)
        | sp => (s.piecesOf th sp (memAddr m z th) z).isSome
      Runs s g p regs (if q.2.2 then regs else memRegs m) → g.cnt.ld < 63 → g.cnt.st < 63 → NoAcquirePending s g →
      (q.2.2 = true → m.space = .pv → m.base = 0 → EachLane g p fun th => th.splim.toNat ≤ memAddr m z th) →
        (odd ≠ 0 → Traps (q.1 p d m) s g Cause.misaligned (g.active p) odd (lowestAddr g odd (memAddr m z))) ∧
        (odd = 0 → out ≠ 0 →
          Traps (q.1 p d m) s g Cause.permission (g.active p) out (lowestAddr g out (memAddr m z))) ∧
        (odd = 0 → out = 0 → ∀ mask cause addr,
          s.popIssue.xlateAll (s.whoOf g) (if q.2.2 then .write else .read)
            ((lanesOf (g.active p)).filterMap fun k => (g.thread? k).map fun th => (k, memPieces s m z th)) =
              .fault mask cause addr →
          Traps (q.1 p d m) s g cause (g.active p) mask (BitVec.ofNat 64 addr))

/-- R182 to R185: ATOM first checks its positions: a misaligned address traps before a place outside the scratchpad, and those
before a translation that fails; then a release is held while a store or atomic of the group is outstanding, at any scope but
CORE; else it issues one operation on the ST counter for st and the LD counter otherwise, with its operand registers captured. -/
def Claims.AtomicsIssue : Prop :=
  (∀ q ∈ [(Instr.atomLd, AtomOp.ld, 0), (.atomSt, .st, 1), (.atomAdd, .add, 1), (.atomAnd, .and, 1), (.atomOr, .or, 1),
      (.atomXor, .xor, 1), (.atomMinI, .minI, 1), (.atomMinN, .minN, 1), (.atomMaxI, .maxI, 1), (.atomMaxN, .maxN, 1),
      (.atomSwap, .swap, 1), (.atomCas, .cas, 2)],
    ∀ (p : Pred) (x : AtomArgs) (s : State) (g : Group),
      let z := if x.b64 then 8 else 4
      let n := q.2.2 * z / 4
      let base := if x.sc then [x.a.toNat] else regsFrom x.a 2
      let ctr : Ctr := if q.2.1 = .st then .st else .ld
      let addr := atomAddr x.sc x.a
      let odd := lanesFailing g p fun th => addr th % z == 0
      let out := lanesFailing g p fun th => !x.sc || (s.scPlace th (addr th) z).isSome
      Runs s g p (regsFrom x.d (max n (z / 4)) ++ base) (regsFrom x.d n ++ base) →
      g.cnt.get ctr < 63 → NoAcquirePending s g →
        (odd ≠ 0 → Traps (q.1 p x) s g Cause.misaligned (g.active p) odd (lowestAddr g odd addr)) ∧
        (odd = 0 → out ≠ 0 → Traps (q.1 p x) s g Cause.permission (g.active p) out (lowestAddr g out addr)) ∧
        (odd = 0 → out = 0 →
          (∀ mask cause a, Untranslated s g p .atomic (atomPieces s x.sc x.a z) mask cause a →
            Traps (q.1 p x) s g cause (g.active p) mask (BitVec.ofNat 64 a)) ∧
          ∀ ps, Translated s g p .atomic (atomPieces s x.sc x.a z) ps →
            ((x.ord = .rel ∨ x.ord = .ar) → ¬ ReleaseReady s g x.scope →
              ∃ t, exec (q.1 p x) s = .next t ∧ OnlyLearns s t) ∧
            ((x.ord = .rel ∨ x.ord = .ar → ReleaseReady s g x.scope) →
              IssueResult (q.1 p x) s g p 1 ctr fun o =>
                o.kind = .atom q.2.1 z x.d.toNat x.ord x.scope ∧ o.path = .lsu ∧
                o.accs = s.atomicAccs g ps addr (if x.ord = .rel ∨ x.ord = .ar then scopeBit x.scope else 0)
                  (operandWords g x.d n)))) ∧
  (∀ (p : Pred) (d a : RegNum) (b64 : Bool) (s : State) (g : Group),
    let z := if b64 then 8 else 4
    let addr := atomAddr false a
    let odd := lanesFailing g p fun th => addr th % z == 0
    Runs s g p (regsFrom d (z / 4) ++ regsFrom a 2) (regsFrom a 2) → g.cnt.ld < 63 → NoAcquirePending s g →
      (odd ≠ 0 → Traps (.atomLdRemote p d a b64) s g Cause.misaligned (g.active p) odd (lowestAddr g odd addr)) ∧
      (odd = 0 →
        (∀ mask cause b, Untranslated s g p .atomic (atomPieces s false a z) mask cause b →
          Traps (.atomLdRemote p d a b64) s g cause (g.active p) mask (BitVec.ofNat 64 b)) ∧
        ∀ ps, Translated s g p .atomic (atomPieces s false a z) ps →
          IssueResult (.atomLdRemote p d a b64) s g p 1 .ld fun o =>
            o.kind = .atom .ldRemote z d.toNat .acq .device ∧ o.path = .lsu ∧
            o.accs = s.atomicAccs g ps addr 0 (operandWords g d 0)))

/-- R198, R200: a class 16 word traps on an address that is no multiple of 1,024, then on a translation that fails; then HINIT,
ANN, HELP, AREL and APPLY wait as FENCE.rel.device does, and are releases at DEVICE scope; else it issues one operation on its
counter, with its block captured at issue. -/
def Claims.HelpedObjectWordsIssue : Prop :=
  ∀ (p : Pred) (d a b : RegNum) (ob : OpB) (s : State) (g : Group),
    ∀ q ∈ [
        HobForm.mk (.hinit p d a b) .hinit true 1 (d.toNat :: regsFrom b 8) (regsFrom b 8) (blockOf b 8),
        .mk (.help p a) .help true 1 [] [] fun _ => [],
        .mk (.lda p d a ob) .lda false (opBLen ob) (regsFrom d 8 ++ opBRegs 1 ob) (opBRegs 1 ob) fun th => [opBWord g th ob],
        .mk (.apply p d a b) .apply true 1 (d.toNat :: regsFrom b 12) (regsFrom b 12) (blockOf b 12),
        .mk (.ares p d a b) .ares false 1 (regsFrom d 2 ++ regsFrom b 1) (regsFrom b 1) (blockOf b 1),
        .mk (.arel p a b) .arel true 1 (regsFrom b 1) (regsFrom b 1) (blockOf b 1),
        annForm (.annAdd p d a b) d b 1 2, annForm (.annAnd p d a b) d b 2 2, annForm (.annOr p d a b) d b 3 2,
        annForm (.annXor p d a b) d b 4 2, annForm (.annMin p d a b) d b 5 2, annForm (.annMax p d a b) d b 6 2,
        annForm (.annSwap p d a b) d b 7 2, annForm (.annCas p d a b) d b 8 4, annForm (.annCas2 p d a b) d b 9 4,
        .mk (.annSw p d a b) .annSw true 1 (d.toNat :: regsFrom b 4) (d.toNat :: regsFrom b 4)
          fun th => blockOf b 4 th ++ blockOf d 1 th],
      let addr := fun th : Thread => (th.get64 a.toNat).toNat
      let odd := lanesFailing g p fun th => addr th % 1024 == 0
      Runs s g p (regsFrom a 2 ++ q.named) (regsFrom a 2 ++ q.reads) → g.cnt.get q.ctr < 63 → NoAcquirePending s g →
        (odd ≠ 0 → Traps q.instr s g Cause.misaligned (g.active p) odd (lowestAddr g odd addr)) ∧
        (odd = 0 →
          (∀ mask cause b, Untranslated s g p .atomic (fun th => [.va (addr th) 1024 0]) mask cause b →
            Traps q.instr s g cause (g.active p) mask (BitVec.ofNat 64 b)) ∧
          ∀ ps, Translated s g p .atomic (fun th => [.va (addr th) 1024 0]) ps →
            (q.rel = true → ¬ NoStorePending s g → ∃ t, exec q.instr s = .next t ∧ OnlyLearns s t) ∧
            ((q.rel = true → NoStorePending s g) →
              IssueResult q.instr s g p q.len q.ctr fun o =>
                o.path = .lsu ∧ (∃ e, o.kind = .hob q.op e ∧ (q.op ≠ .help → q.op ≠ .arel → e = d.toNat)) ∧
                o.accs = s.atomicAccs g ps addr (if q.rel then scopeBit .device else 0)
                  fun k => match g.thread? k with | none => [] | some th => q.block th))

/-- R170, R171, R174, R177, R184, R186, R190: FENCE and XFENCE are held until the group's own earlier operations that they name
have completed and its acquires have been performed; then an acquire, one at CORE scope where a thread has read a completion
mark, or an XFENCE to the LSU path ends the leases of the core's L1, a release is kept in the thread, and no register, counter
or byte of memory changes. What an acquire or an XFENCE orders it notes among the machine's acquires, the model's own (log 82). -/
def Claims.FenceResults : Prop :=
  ∀ (p : Pred) (s : State) (g : Group), Runs s g p [] [] →
    (∀ (k : FenceKind) (scope : Scope),
      let marked := ∃ n th, (g.active p).getLsbD n = true ∧ g.thread? n = some th ∧ th.markRead = true
      let ready := (k = .acq ∨ ReleaseReady s g scope) ∧ NoAcquirePending s g ∧
        (k = .rel ∨ ∀ o ∈ s.ops, o.group = g.key → o.kind.isAtomicRead = false)
      (¬ ready → Held (.fence p k scope) s) ∧
      (ready → ∃ t g', exec (.fence p k scope) s = .next t ∧ Becomes s t g g' ∧ MemorySame s t ∧ StandsAfter t g g' 1 ∧
        g'.s = g.s ∧ KeptGroup g g' ∧
        (∀ n, (g.active p).getLsbD n = false → g'.thread? n = g.thread? n) ∧
        (∀ n th, (g.active p).getLsbD n = true → g.thread? n = some th → g'.thread? n = some { th with
          fences := if k = .acq then th.fences else th.fences ||| scopeBit scope
          fenceAt := if k = .acq then th.fenceAt else s.nextOp
          markRead := k == .rel && th.markRead }) ∧
        t = { s with groups := t.groups, issueQ := s.issueQ.tail, cores := t.cores, acquires := t.acquires } ∧
        s.acquires <:+ t.acquires ∧ (k = .rel → t.acquires = s.acquires) ∧
        (∀ o, o ≠ g.core → t.core o = s.core o) ∧
        (k ≠ .rel ∧ (scope ≠ .core ∨ marked) → t.core g.core = { s.core g.core with l1 := [] }) ∧
        (¬ (k ≠ .rel ∧ (scope ≠ .core ∨ marked)) → t.core g.core = s.core g.core))) ∧
    (∀ (from_ to_ : BitVec 5),
      let ready := NoAcquirePending s g ∧ ∀ o ∈ s.ops, o.group = g.key → pathIn from_ o.path = false
      (¬ ready → Held (.xfence p from_ to_) s) ∧
      (ready → ∃ t g', exec (.xfence p from_ to_) s = .next t ∧ Becomes s t g g' ∧ MemorySame s t ∧ StandsAfter t g g' 1 ∧
        KeptGroup g g' ∧ g'.lanes = g.lanes ∧ g'.s = g.s ∧
        t = { s with groups := t.groups, issueQ := s.issueQ.tail, cores := t.cores, acquires := t.acquires } ∧
        s.acquires <:+ t.acquires ∧ (∀ o, o ≠ g.core → t.core o = s.core o) ∧
        t.core g.core = { s.core g.core with l1 := if to_.getLsbD 0 then [] else (s.core g.core).l1 }))

/-- R172, R173: CFLUSH and CZERO issue one operation on the ST counter, CZERO of 64 stores of 16 zero bytes to the line of
each position; CINV ends the core's leases on the lines it names; IINV discards the core's instruction cache; CPREF changes
no register, no counter and no byte of memory, and is held while a fill that it asks for has to wait (R25, R160). -/
def Claims.LineInstructionResults : Prop :=
  ∀ (p : Pred) (a : RegNum) (s : State) (g : Group),
    let addr := fun th : Thread => (th.get64 a.toNat).toNat
    let odd := lanesFailing g p fun th => addr th % 1024 == 0
    (Runs s g p (regsFrom a 2) (regsFrom a 2) → NoAcquirePending s g →
      (g.cnt.st < 63 →
        (∀ ps, Translated s g p .read (fun th => [.va (addr th) 1 0]) ps →
          IssueResult (.cflush p a) s g p 1 .st fun o => o.kind = .flush ∧ o.path = .lsu ∧
            o.accs = accsOf g ps addr (fun _ _ _ => []) fun _ => []) ∧
        (odd ≠ 0 → Traps (.czero p a) s g Cause.misaligned (g.active p) odd (lowestAddr g odd addr)) ∧
        (odd = 0 → ∀ ps, Translated s g p .write (fun th => [.va (addr th) 1024 0]) ps →
          IssueResult (.czero p a) s g p 1 .st fun o => o.kind = .store ∧ o.path = .lsu ∧
            (∀ x ∈ o.accs, x.len = 16 ∧ x.data = List.replicate 16 0 ∧
              ∃ k key, (x.lane, k, key) ∈ (ps.flatMap fun y => y.2.filterMap fun q =>
                match q.1 with | .mem key => some (y.1, q.2.1, key) | _ => none) ∧ x.loc = .mem (key + x.roff)) ∧
            (∀ y ∈ ps, ∀ q ∈ y.2, ∀ key, q.1 = .mem key → ∀ j, j < 64 →
              ∃ x ∈ o.accs, x.lane = y.1 ∧ x.loc = .mem (key + 16 * j)))) ∧
      (∃ t g', exec (.cinv p a) s = .next t ∧ Becomes s t g g' ∧ MemorySame s t ∧ StandsAfter t g g' 1 ∧ KeptGroup g g' ∧
        g'.lanes = g.lanes ∧ g'.s = g.s ∧
        t = { s with groups := t.groups, issueQ := s.issueQ.tail, cores := t.cores } ∧
        (∀ o, o ≠ g.core → t.core o = s.core o) ∧ { t.core g.core with l1 := (s.core g.core).l1 } = s.core g.core ∧
        ∀ x, x ∈ (t.core g.core).l1 ↔ x ∈ (s.core g.core).l1 ∧
          ∀ k th key, (g.active p).getLsbD k = true → g.thread? k = some th →
            s.popIssue.namedKey (s.whoOf g) (addr th) = some key → x.sector / 8 ≠ key / 1024) ∧
      (let keys :=
        if isService g.core then [] else (readableKeys s.popIssue g (g.active p) a).filter fun key => !inWindow key
      (∀ ds, cprefBar s.popIssue g (g.active p) a keys = some ds → HeldFor (.cpref p a) s ds) ∧
      (cprefBar s.popIssue g (g.active p) a keys = none →
        ∃ t g', exec (.cpref p a) s = .next t ∧ Becomes s t g g' ∧ MemorySame s t ∧ StandsAfter t g g' 1 ∧ KeptGroup g g' ∧
          g'.lanes = g.lanes ∧ g'.s = g.s ∧ t.ops = s.ops ∧ t.teams = s.teams ∧ t.parts = s.parts ∧ TimesRise s t))) ∧
    (Runs s g p [] [] → NoAcquirePending s g →
      ∃ t g', exec (.iinv p) s = .next t ∧ Becomes s t g g' ∧ MemorySame s t ∧ StandsAfter t g g' 1 ∧ KeptGroup g g' ∧
        g'.lanes = g.lanes ∧ g'.s = g.s ∧
        t = { s with groups := t.groups, issueQ := s.issueQ.tail, cores := t.cores } ∧
        (∀ o, o ≠ g.core → t.core o = s.core o) ∧ t.core g.core = { s.core g.core with icache := [] })

/-- R177, R212, R213: BARR is held while an access of its group is outstanding (that it waits at every level is the model's choice,
log 97), and at the grid level while a link to Caldera, which keeps those barriers, carries no traffic (R25); then it makes
the arrivals of its active lanes in ascending order:
each answers the generation it finds; a thread that has arrived in it is not counted again; the arrival that completes the
members raises the generation by 1 and sets the count to 0. The answers come with the LD counter. -/
def Claims.BarrierArrivalResults : Prop :=
  ∀ q ∈ [(Instr.barrTeam, Level.team), (.barrCluster, .cluster), (.barrDie, .die), (.barrGrid, .grid)],
    ∀ (p : Pred) (d : RegNum) (s : State) (g : Group), Runs s g p [d.toNat] [] →
      (s.levelOk g q.2 = false → Traps (q.1 p d) s g Cause.illegalState (g.active p) (g.active p) 0) ∧
      (s.levelOk g q.2 = true → g.cnt.ld < 63 → ¬ NoAccessPending s g → Held (q.1 p d) s) ∧
      (s.levelOk g q.2 = true → g.cnt.ld < 63 → NoAccessPending s g →
        (∃ k ∈ barrDies q.2 g.core, s.linkFlows k = false) → HeldFor (q.1 p d) s (barrDies q.2 g.core)) ∧
      (s.levelOk g q.2 = true → g.cnt.ld < 63 → NoAccessPending s g → (∀ k ∈ barrDies q.2 g.core, s.linkFlows k = true) →
        ∃ t g' o, exec (q.1 p d) s = .next t ∧ Becomes s t g g' ∧ MemorySame s t ∧ StandsAfter t g g' 1 ∧ g'.s = g.s ∧
          g'.cnt = { g.cnt with ld := g.cnt.ld + 1 } ∧ t.ops = s.ops ++ [o] ∧ o.id = s.nextOp ∧ o.group = g.key ∧
          o.ctr = .ld ∧ o.kind = .barr q.2 d.toNat ∧ o.active = g.active p ∧
          t = { s with groups := t.groups, issueQ := s.issueQ.tail, ops := t.ops, nextOp := s.nextOp + 1, teams := t.teams
                       grids := t.grids, preempts := t.preempts, times := t.times } ∧ TimesRise s t ∧
          (q.2 ≠ .grid → t.times = s.times) ∧
          ((t.preempts.map fun x => { x with events := [] }) = s.preempts.map fun x => { x with events := [] }) ∧
          (∀ k th, (g.active p).getLsbD k = true → g.thread? k = some th → ∃ u, g'.thread? k = some u ∧
            { u with arr := th.arr } = th ∧ ∀ l, l ≠ q.2 → u.arr.get l = th.arr.get l) ∧
          (∀ k, (g.active p).getLsbD k = false → g'.thread? k = g.thread? k) ∧
          ∀ T B, EachLane g p (fun th => th.team = T) → s.barrier? T q.2 = some B →
            t.barrier? T q.2 = some (arrivals g q.2 (lanesOf (g.active p)) B) ∧
            ∀ k, (g.active p).getLsbD k = true →
              let b := arrivals g q.2 ((lanesOf (g.active p)).takeWhile fun n => n < k) B
              (∃ x ∈ o.accs, x.lane = k ∧ x.ops = [b.gen.setWidth 32]) ∧
              ∃ u, g'.thread? k = some u ∧ u.arr.get q.2 = some b.gen)

/-- R212, R214, R217: BTST, SWSET and SWTST issue one operation that carries operand b of each active lane; BTST at a level
that the grid does not have raises ILLEGAL_STATE, before a counter at 63 holds the word: the model's choice, as for BARR (log
95); SWSET and SWTST raise MISALIGNED before PERMISSION. -/
def Claims.SyncWordsIssue : Prop :=
  (∀ q ∈ [(Instr.btstTeam, Level.team), (.btstCluster, .cluster), (.btstDie, .die), (.btstGrid, .grid)],
    ∀ (p : Pred) (pd : BitVec 3) (b : OpB) (s : State) (g : Group), Runs s g p (opBRegs 1 b) (opBRegs 1 b) →
      (s.levelOk g q.2 = false → Traps (q.1 p pd b) s g Cause.illegalState (g.active p) (g.active p) 0) ∧
      (s.levelOk g q.2 = true → g.cnt.ld < 63 →
        IssueResult (q.1 p pd b) s g p (opBLen b) .ld fun o => o.kind = .btst q.2 pd.toNat ∧
          ∀ k th, (g.active p).getLsbD k = true → g.thread? k = some th →
            ∃ x ∈ o.accs, x.lane = k ∧ x.ops = [((opBWord g th b).setWidth 16).setWidth 32])) ∧
  (∀ (p : Pred) (pd : BitVec 3) (a : RegNum) (b : OpB) (s : State) (g : Group),
    ∀ q ∈ [(Instr.swset p a b, OpKind.swset, Ctr.st), (.swtst p pd a b, .swtst pd.toNat, .ld)],
      let addr := fun th : Thread => (th.get a.toNat).toNat
      let odd := lanesFailing g p fun th => addr th % 8 == 0
      let out := lanesFailing g p fun th => (s.scPlace th (addr th) 8).isSome
      Runs s g p (a.toNat :: opBRegs 1 b) (a.toNat :: opBRegs 1 b) → g.cnt.get q.2.2 < 63 → NoAcquirePending s g →
        (odd ≠ 0 → Traps q.1 s g Cause.misaligned (g.active p) odd (lowestAddr g odd addr)) ∧
        (odd = 0 → out ≠ 0 → Traps q.1 s g Cause.permission (g.active p) out (lowestAddr g out addr)) ∧
        (odd = 0 → out = 0 → IssueResult q.1 s g p (opBLen b) q.2.2 fun o => o.kind = q.2.1 ∧ o.path = .lsu ∧
          ∀ k th l, (g.active p).getLsbD k = true → g.thread? k = some th → s.scPlace th (addr th) 8 = some l →
            ∃ x ∈ o.accs, x.lane = k ∧ x.loc = l ∧ x.len = 8 ∧ x.ops = [opBWord g th b]))

/-- R219: WAIT in its clause class and its fields; it holds the group's next word until every counter is at or below its
field, 7 meaning no condition; it moves no counter. -/
def Obligations.WaitResult : Prop :=
  (∀ (p : Pred) (ld st cp tl : BitVec 3) (s : State) (g : Group), Runs s g p [] [] →
    let met := fun (f : BitVec 3) (n : Nat) => f = 7 ∨ n ≤ f.toNat
    let all := met ld g.cnt.ld ∧ met st g.cnt.st ∧ met cp g.cnt.cp ∧ met tl g.cnt.tl
    (¬ all → Held (.wait p ld st cp tl) s) ∧
    (all → ∃ t g', exec (.wait p ld st cp tl) s = .next t ∧ OnlyGroup s t g g' ∧ KeptGroup g g' ∧ StandsAfter t g g' 1 ∧
      g'.lanes = g.lanes ∧ g'.s = g.s ∧ g'.cnt = g.cnt)) ∧
  (∀ w lit : W32, (fieldsOf w).cls = 17 → (fieldsOf w).minor = 10 → clauseClass w = some 1 ∧
    ((fieldsOf w).prefixOf.wf = true →
      ((fieldsOf w).u = false → (fieldsOf w).d = 0 → decodeWord w lit =
        .ok (.wait (fieldsOf w).prefixOf (w.extractLsb' 9 3) (w.extractLsb' 6 3) (w.extractLsb' 3 3) (w.extractLsb' 0 3))) ∧
      ((fieldsOf w).u = true ∨ (fieldsOf w).d ≠ 0 → decodeWord w lit = .error .fieldLimit))) ∧
  decodeWord 0x8BA801FF#32 0 = .ok (.wait ⟨7, false⟩ 0 7 7 7) ∧
  decodeWord 0x8BA80000#32 0 = .ok (.wait ⟨7, false⟩ 0 0 0 0)

/-- R39: a word that would take a counter above 63 is held at issue until it is 62 or less, and so is a word of the LSU
path while an acquire of its group is to be performed (R184). That the hold comes before the word's checks of its positions,
and, for BARR, after the check of its level, is the model's choice (log 95). -/
def Claims.FullCounterHoldsWords : Prop :=
  ∀ (p : Pred) (d a : RegNum) (m : MemOp) (s : State) (g : Group),
    (∀ q ∈ [(Instr.ldB8, 1), (.ldB16, 2), (.ldB32, 4), (.ldB64, 8), (.ldB128, 16), (.ldI8, 1), (.ldI16, 2)],
      Runs s g p (regsFrom d ((q.2 + 3) / 4) ++ memRegs m) (memRegs m) → (63 ≤ g.cnt.ld ∨ ¬ NoAcquirePending s g) →
        Held (q.1 p d m) s) ∧
    (∀ q ∈ [(Instr.stB8, 1), (.stB16, 2), (.stB32, 4), (.stB64, 8), (.stB128, 16)],
      Runs s g p (regsFrom d ((q.2 + 3) / 4) ++ memRegs m) (regsFrom d ((q.2 + 3) / 4) ++ memRegs m) →
        (63 ≤ g.cnt.st ∨ ¬ NoAcquirePending s g) → Held (q.1 p d m) s) ∧
    (Runs s g p (regsFrom a 2) (regsFrom a 2) → (63 ≤ g.cnt.st ∨ ¬ NoAcquirePending s g) →
      Held (.cflush p a) s ∧ Held (.czero p a) s) ∧
    (∀ q ∈ [(Instr.barrTeam, Level.team), (.barrCluster, .cluster), (.barrDie, .die), (.barrGrid, .grid)],
      Runs s g p [d.toNat] [] → s.levelOk g q.2 = true → 63 ≤ g.cnt.ld → Held (q.1 p d) s)

/-! ## Engine commands (11 to 13) -/

/-- R273, R275: CPY checks alignment and then extents in every active position, then the translations of its sources and
destinations, and issues one operation on the CP counter with one read, one write and, with `.sw`, one count of z bytes for
each active position. That a counter at 63 holds the word before these checks is the model's choice (log 95), and so is that
FADDR of the first two traps is the source address of the lowest position that fails (log 111). -/
def Claims.CopyElementsIssue : Prop :=
  ∀ q ∈ [(Instr.cpyB32, 4), (.cpyB64, 8), (.cpyB128, 16)],
    ∀ (p : Pred) (x : CpyArgs) (s : State) (g : Group),
      let z := q.2
      let regs := cpyRegs x.dsp x.d ++ cpyRegs x.ssp x.a ++ (if x.sw then [cpySyncReg x] else [])
      let src := cpyAddr x.ssp x.a
      let dst := cpyAddr x.dsp x.d
      let sync := fun th : Thread => (th.get (cpySyncReg x)).toNat
      let odd := lanesFailing g p fun th => src th % z == 0 && dst th % z == 0 && (!x.sw || sync th % 8 == 0)
      let out := lanesFailing g p fun th => (s.piecesOf th x.ssp (src th) z).isSome &&
        (s.piecesOf th x.dsp (dst th) z).isSome && (!x.sw || (s.scPlace th (sync th) 8).isSome)
      Runs s g p regs regs → g.cnt.cp < 63 → x.ssp ≠ .pv → x.dsp ≠ .pv →
        (odd ≠ 0 → Traps (q.1 p x) s g Cause.misaligned (g.active p) odd (lowestAddr g odd src)) ∧
        (odd = 0 → out ≠ 0 → Traps (q.1 p x) s g Cause.permission (g.active p) out (lowestAddr g out src)) ∧
        (odd = 0 → out = 0 → ∀ mask cause addr,
          s.popIssue.xlateCpyAll (s.whoOf g) ((lanesOf (g.active p)).filterMap fun k => (g.thread? k).map fun th =>
            (k, (s.piecesOf th x.ssp (src th) z).getD [], (s.piecesOf th x.dsp (dst th) z).getD [])) =
              .fault mask cause addr →
          Traps (q.1 p x) s g cause (g.active p) mask (BitVec.ofNat 64 addr)) ∧
        (odd = 0 → out = 0 → ∀ ps,
          s.popIssue.xlateCpyAll (s.whoOf g) ((lanesOf (g.active p)).filterMap fun k => (g.thread? k).map fun th =>
            (k, (s.piecesOf th x.ssp (src th) z).getD [], (s.piecesOf th x.dsp (dst th) z).getD [])) = .ok ps →
          IssueResult (q.1 p x) s g p 1 .cp fun o => o.kind = .cpy z ∧ o.path = .copy ∧
            (o.accs.map fun a => a.lane) = lanesOf (g.active p) ∧
            ∀ a ∈ o.accs, a.len = z ∧ (∃ e ∈ ps, e.1 = a.lane ∧ (e.2.map fun y => y.1) = [a.src.getD a.loc, a.loc]) ∧
              ∀ th, g.thread? a.lane = some th → a.sync = if x.sw then s.scPlace th (sync th) 8 else none)

/-- R50, R276, R277: BCPY and GET, once their block is read, trap by the first check of R277 that fails and else issue one
operation on the CP counter. That a counter at 63 holds the word before these checks (log 95), and that FADDR of their traps
is the block's address (log 111), is the model's choice. -/
def Claims.BulkCopiesIssue : Prop :=
  ∀ q ∈ [(Instr.bcpy, false), (.get, true)], ∀ (p : Pred) (ps : RegNum) (s : State) (g : Group), Runs s g p [] [] →
    (63 ≤ g.cnt.cp → Held (q.1 p ps) s) ∧
    (g.cnt.cp < 63 → BlockTraps (q.1 p ps) s g p ps 64 (wholeOf 64) ∧
      BlockCommand (q.1 p ps) s g p ps 64 (wholeOf 64) .cp .copy
        (fun l =>
          let T := g.commandTeam (g.active p)
          let space := fun c => c = 0 ∨ c = 2 ∨ c = 4 ∨ c = 5
          let ssp := fld l 30 30 % 8
          let dsp := fld l 30 30 / 8 % 8
          let sync := fld l 31 31 % 2 = 1
          let ring := fld l 31 31 / 2 % 2 = 1
          [ (decide (fld l 30 30 < 64 ∧ fld l 31 31 < 4 ∧ fld l 56 63 = 0 ∧ (q.2 = true ∨ fld l 36 39 = 0)),
              Cause.illegalInstruction),
            (decide (1 ≤ fld l 24 27 ∧ fld l 24 27 ≤ 65536 ∧ 1 ≤ fld l 28 29 ∧ fld l 24 27 * fld l 28 29 ≤ 65536 ∧
              (if q.2 then ssp = 0 else space ssp) ∧ space dsp ∧ ¬ (sync ∧ dsp = 0) ∧ (sync ∨ fld l 32 35 = 0) ∧
              (if ring then fld l 48 51 ∈ (List.range 17).map (2 ^ ·) else fld l 40 47 = 0 ∧ fld l 48 51 = 0) ∧
              (ssp = 0 ∨ fld l 4 7 = 0) ∧ (dsp = 0 ∨ fld l 12 15 = 0)), Cause.illegalState),
            (decide (fld l 32 35 % 8 = 0 ∧ fld l 40 47 % 32 = 0), Cause.misaligned),
            ((q.2 || s.rowsOk T ssp (BitVec.ofNat 64 (fld l 0 7)) (fld l 16 19) (fld l 24 27) (fld l 28 29)) &&
              s.rowsOk T dsp (BitVec.ofNat 64 (fld l 8 15)) (fld l 20 23) (fld l 24 27) (fld l 28 29) &&
              (decide (¬ sync) || (s.scPlace (teamThread T) (fld l 32 35) 8).isSome), Cause.permission) ])
        fun l => .bulk (bulkOf q.2 l))

/-- R236, R239 to R246: MMA, in a converged group of 64 lanes of a Vent core, takes its 64 rows at issue, from the operand
latch where it is full and else from the registers of its active positions, zeros for the others, and leaves the latch full
with them under `.reuse` and empty otherwise; the checks trap in their order. That a counter at 63 holds the word before its
checks (log 95), and that FADDR of a trap of its block's fields is the block's address (log 111), is the model's choice. -/
def Claims.MatrixMultiplyIssue : Prop :=
  ∀ (p : Pred) (reuse : Bool) (ps : RegNum) (s : State) (g : Group) (l : List Byte) (f : W32),
    let i : Instr := .mma p reuse ps
    let A := g.active p
    let T := g.commandTeam A
    let a : W64 := (g.sGet ps.toNat).setWidth 64
    let abase := fld l 2 2
    let n := if f.toNat % 16 = 3 then 17 else 16
    let differ := lanesFailing g p fun th => th.get (fld l 3 3) == f
    Runs s g p [] [] → isService g.core = false → g.cnt.tl < 63 →
      ((g.width ≠ 64 ∨ g.converged = false) → Traps i s g Cause.illegalState A g.entryMask 0) ∧
      (g.width = 64 → g.converged = true → BlockTraps i s g p ps 32 (wholeOf 32)) ∧
      (g.width = 64 → g.converged = true → NoAcquirePending s g → s.popIssue.readParts g A ps 32 (wholeOf 32) = .ok l →
        (∀ th, (lowLane A).bind g.thread? = some th → th.get (fld l 3 3) = f) →
        let fieldsOk := fld l 0 0 < 16 ∧ fld l 1 1 < 16 ∧ abase < 64 ∧ fld l 3 3 < 64 ∧ fld l 8 31 = 0
        (¬ fieldsOk → Traps i s g Cause.illegalInstruction A A a) ∧
        (fieldsOk → g.cap ≤ fld l 3 3 → Traps i s g Cause.illegalState A A a) ∧
        (fieldsOk → fld l 3 3 < g.cap → g.badRead A [fld l 3 3] = false →
          (differ ≠ 0 → Traps i s g Cause.formatDivergence A differ a) ∧
          (differ = 0 →
            let stateOk := formatOk f = true ∧ abase + n ≤ g.cap ∧ ∀ x, g.latch = some x → x.n = n
            (¬ stateOk → Traps i s g Cause.illegalState A A a) ∧
            (stateOk → fld l 4 7 % 256 ≠ 0 → Traps i s g Cause.misaligned A A a) ∧
            (stateOk → fld l 4 7 % 256 = 0 →
              let placesOk := fld l 0 0 < s.tileCount T ∧ fld l 1 1 < s.tileCount T ∧
                fld l 4 7 + (if f.toNat % 16 = 3 then 4352 else 4096) ≤ ((s.teamRec T).map (·.wsize)).getD 0
              (¬ placesOk → Traps i s g Cause.permission A A a) ∧
              (placesOk → (g.latch = none → g.badRead A ((List.range n).map fun m => abase + m) = false) →
                ∃ t rows, exec i s = .next t ∧ (∀ x, g.latch = some x → rows = x.rows) ∧
                  (g.latch = none → rows.length = 64 ∧ ∀ k, k < 64 → rows[k]? = some (
                    match g.thread? k with
                    | some th => if A.getLsbD k then (List.range n).map fun m => th.get (abase + m) else List.replicate n 0
                    | none => List.replicate n 0)) ∧
                  Queued s t g { g with latch := if reuse then some ⟨rows, n⟩ else none } A 1 .tl fun o =>
                    o.path = .matrix ∧ o.accs = [] ∧
                    o.kind = .matrix (.mma (fld l 0 0) (fld l 1 1) (f.toNat / 256 % 4 == 1) (f.toNat % 16)
                      (f.toNat / 16 % 16) (fld l 4 7) rows))))))

/-- R235, R236, R248 to R250, R253, R265, R266: TLD, TST, EPI, BFLY and TZERO on a Vent core trap by the first check of
their block that fails and else issue one operation on the TL counter; on a service core they are illegal (R319). That a
counter at 63 holds the word before its checks (log 95), and that FADDR of a trap of its block's fields is the block's address
(log 111), is the model's choice. -/
def Claims.TileCommandsIssue : Prop :=
  ∀ (p : Pred) (ps : RegNum) (tile : BitVec 4) (s : State) (g : Group), Runs s g p [] [] →
    let A := g.active p
    let T := g.commandTeam A
    (isService g.core = true → ∀ i ∈ [Instr.mma p false ps, .mma p true ps, .tld p ps, .tst p ps, .epi p ps, .bfly p ps,
      .tzero p tile], Traps i s g Cause.illegalInstruction A A 0) ∧
    (isService g.core = false → 63 ≤ g.cnt.tl → ∀ i ∈ [Instr.mma p false ps, .mma p true ps, .tld p ps, .tst p ps,
      .epi p ps, .bfly p ps, .tzero p tile], Held i s) ∧
    (isService g.core = false → g.cnt.tl < 63 →
      (∀ i ∈ [Instr.tld p ps, .tst p ps, .bfly p ps], BlockTraps i s g p ps 32 (wholeOf 32)) ∧
      BlockTraps (.epi p ps) s g p ps 832 epiReads ∧
      (∀ q ∈ [(Instr.tld p ps, false), (.tst p ps, true)], BlockCommand q.1 s g p ps 32 (wholeOf 32) .tl .matrix
        (fun l =>
          let dr := fld l 14 14 / 2 % 2 = 1
          [ (decide (fld l 12 12 < 16 ∧ fld l 14 14 < 4 ∧ fld l 15 15 = 0 ∧ fld l 24 31 = 0), Cause.illegalInstruction),
            (decide (¬ (q.2 = true ∧ fld l 14 14 % 2 = 1)) &&
              (if dr then decide (fld l 13 13 = 0) && batchOk (radixSeq (nibbles l 18)) (fld l 16 17)
               else decide (1 ≤ fld l 13 13 ∧ fld l 13 13 ≤ 64 ∧ fld l 16 17 = 0 ∧ fld l 18 23 = 0)), Cause.illegalState),
            (decide (fld l 0 7 % 16 = 0 ∧ fld l 8 11 % 16 = 0), Cause.misaligned),
            (decide (fld l 12 12 < s.tileCount T), Cause.permission) ])
        fun l => .matrix (.move (moveOf q.2 l))) ∧
      BlockCommand (.epi p ps) s g p ps 832 epiReads .tl .matrix
        (fun l =>
          [ (decide (fld l 12 12 < 16 ∧ fld l 14 14 < 8 ∧ fld l 32 63 = 0), Cause.illegalInstruction),
            (decide (1 ≤ fld l 13 13 ∧ fld l 13 13 ≤ 64 ∧ fld l 14 14 ≤ 3 ∧ fld l 15 15 % 8 ≤ 4 ∧ fld l 15 15 / 8 % 4 ≤ 2),
              Cause.illegalState),
            (decide (fld l 0 7 % 16 = 0 ∧ fld l 8 11 % 16 = 0), Cause.misaligned),
            (decide (fld l 12 12 < s.tileCount T), Cause.permission) ])
        (fun l => .matrix (.epi (epiOf l))) ∧
      BlockCommand (.bfly p ps) s g p ps 32 (wholeOf 32) .tl .matrix
        (fun l =>
          [ (decide (fld l 0 0 < 16 ∧ fld l 1 1 < 16 ∧ fld l 3 3 < 32 ∧ fld l 4 4 < 8 ∧ fld l 5 5 = 0 ∧ fld l 14 31 = 0),
              Cause.illegalInstruction),
            (batchOk (radixSeq (nibbles l 8)) (fld l 6 7) &&
              decide (radixN ((radixSeq (nibbles l 8)).getD []) ≤ 2048 ∧
                fld l 2 2 ≤ ((radixSeq (nibbles l 8)).getD []).length), Cause.illegalState),
            (decide (fld l 0 0 < s.tileCount T ∧ fld l 1 1 < s.tileCount T), Cause.permission) ])
        (fun l => .matrix (.bfly (bflyOf l))) ∧
      (s.tileCount T ≤ tile.toNat → Traps (.tzero p tile) s g Cause.permission A A 0) ∧
      (tile.toNat < s.tileCount T → IssueResult (.tzero p tile) s g p 1 .tl fun o =>
        o.kind = .matrix (.tzero tile.toNat) ∧ o.path = .matrix ∧ o.accs = []))

/-- R50, R281 to R283, R285: GATHER, DIST and TOPK trap by the first check of their block that fails and else issue one
operation on the CP counter. That a counter at 63 holds the word before its checks (log 95), and that FADDR of a trap of its
block's fields is the block's address (log 111), is the model's choice. -/
def Claims.GatherCommandsIssue : Prop :=
  ∀ (p : Pred) (ps : RegNum) (s : State) (g : Group), Runs s g p [] [] →
    let T := g.commandTeam (g.active p)
    let rb := fun fmt dim : Nat => 16 * ((dim * (if fmt = 0 then 2 else 1) + 15) / 16)
    (63 ≤ g.cnt.cp → ∀ i ∈ [Instr.gather p ps, .dist p ps, .topk p ps], Held i s) ∧
    (g.cnt.cp < 63 →
      (∀ i ∈ [Instr.gather p ps, .dist p ps, .topk p ps], BlockTraps i s g p ps 32 (wholeOf 32)) ∧
      BlockCommand (.gather p ps) s g p ps 32 (wholeOf 32) .cp .gather
        (fun l =>
          [ (decide (fld l 21 21 < 4 ∧ fld l 28 31 = 0), Cause.illegalInstruction),
            (decide (1 ≤ fld l 20 20 ∧ fld l 20 20 ≤ 32 ∧ 1 ≤ fld l 22 23 ∧ fld l 22 23 ≤ 1024), Cause.illegalState),
            (decide (fld l 0 7 % 16 = 0 ∧ fld l 8 11 % 16 = 0 ∧ fld l 16 19 % 4 = 0 ∧ fld l 24 27 % 16 = 0),
              Cause.misaligned),
            (decide (fld l 16 19 + 4 * fld l 20 20 ≤ s.scratchSize T ∧
              fld l 24 27 + fld l 20 20 * rb (fld l 21 21 % 4) (fld l 22 23) ≤ s.aSize T), Cause.permission) ])
        (fun l => .gather (gatherOf l)) ∧
      BlockCommand (.dist p ps) s g p ps 32 (wholeOf 32) .cp .gather
        (fun l =>
          let r := rb (fld l 25 25 % 4) (fld l 26 27)
          [ (decide (fld l 25 25 < 16 ∧ fld l 28 31 = 0), Cause.illegalInstruction),
            (decide (1 ≤ fld l 24 24 ∧ fld l 24 24 ≤ 32 ∧ 1 ≤ fld l 26 27 ∧ fld l 26 27 ≤ 1024 ∧ fld l 25 25 / 4 % 4 ≠ 3),
              Cause.illegalState),
            (decide (fld l 0 3 % 16 = 0 ∧ fld l 4 7 % 16 = 0 ∧ fld l 8 11 % 8 = 0 ∧ fld l 12 15 % 4 = 0), Cause.misaligned),
            (decide (fld l 0 3 + r ≤ s.aSize T ∧ fld l 4 7 + fld l 24 24 * r ≤ s.aSize T ∧
              fld l 12 15 + 4 * fld l 24 24 ≤ s.scratchSize T ∧ fld l 8 11 + 8 * fld l 24 24 ≤ s.scratchSize T),
              Cause.permission) ])
        (fun l => .gather (distOf l)) ∧
      BlockCommand (.topk p ps) s g p ps 32 (wholeOf 32) .cp .gather
        (fun l =>
          [ (decide (fld l 12 31 = 0), Cause.illegalInstruction),
            (decide (1 ≤ fld l 8 9 ∧ fld l 8 9 ≤ 256 ∧ 1 ≤ fld l 10 11 ∧ fld l 10 11 ≤ 256), Cause.illegalState),
            (decide (fld l 0 3 % 8 = 0 ∧ fld l 4 7 % 8 = 0), Cause.misaligned),
            (decide (fld l 0 3 + 8 + 8 * fld l 8 9 ≤ s.scratchSize T ∧ fld l 4 7 + 8 * fld l 10 11 ≤ s.scratchSize T),
              Cause.permission) ])
        fun l => .gather (topkOf l))

/-! ## System words (02, 06, 16) -/

/-- R81, R113, R347: RDSR writes the value of its special register for each active position, for every register number,
in a thread whose team and grid are placed. -/
def Claims.SpecialRegisterReads : Prop :=
  ∀ (p : Pred) (d : RegNum) (n : BitVec 4) (s : State) (g : Group), Runs s g p [d.toNat] [] →
    LaneResult (.rdsr p d n) s g p 1 fun k th u => ∃ x, Wrote d.toNat x th u ∧
      (n = 0 → x = BitVec.ofNat 32 th.tid) ∧ (n = 1 → x = BitVec.ofNat 32 k) ∧
      (∀ q, n = 2 → g.seat = some q → x = BitVec.ofNat 32 q.gid) ∧
      (n = 8 → x = BitVec.ofNat 32 g.width) ∧
      (n = 10 → x = BitVec.ofNat 32 (s.time (dieOf g.core)).value) ∧
      (n = 11 → x = BitVec.ofNat 32 ((s.time (dieOf g.core)).pkgState * 2 ^ 30 + (s.time (dieOf g.core)).pkgBound)) ∧
      (n = 12 → x = th.splim) ∧ (n = 13 → x = th.seed) ∧
      ∀ T y, s.team? th.team = some T → s.grid? T.grid = some y →
        (n = 3 → x = BitVec.ofNat 32 T.num) ∧
        (∀ v c j, n = 4 → T.core = .vent v c j → x = BitVec.ofNat 32 j) ∧
        (n = 5 → x = BitVec.ofNat 32 (T.num / y.lrec.t % y.lrec.cl)) ∧
        (n = 6 → x = BitVec.ofNat 32 (T.num / (y.lrec.cl * y.lrec.t))) ∧
        (n = 7 → x = y.id) ∧ (n = 9 → x = BitVec.ofNat 32 y.depth) ∧
        (n = 14 → x = BitVec.ofNat 32 (y.pasid % 2 ^ 20)) ∧ (n = 15 → x = BitVec.ofNat 32 y.lrec.pvs)

/-- R68, R114, R347: WRSR writes `sr.splim` or `sr.seed` of each active position's thread, `sr.seed` with the draw counter
set to 0; of any other register it raises ILLEGAL_INSTRUCTION. -/
def Claims.SpecialRegisterWrites : Prop :=
  ∀ (p : Pred) (n : BitVec 4) (b : OpB) (s : State) (g : Group), Runs s g p (opBRegs 1 b) (opBRegs 1 b) →
    (n = 12 → LaneResult (.wrsr p n b) s g p (opBLen b) fun _ th u => u = { th with splim := opBWord g th b }) ∧
    (n = 13 → LaneResult (.wrsr p n b) s g p (opBLen b) fun _ th u => u = { th with seed := opBWord g th b, draw := 0 }) ∧
    (n ≠ 12 → n ≠ 13 → Traps (.wrsr p n b) s g Cause.illegalInstruction (g.active p) (g.active p) 0)

/-- R31, R33, R35: TIME reads the integer part of its die's time register, the two status words, or compares the reading,
one for all positions, with a deadline. -/
def Obligations.TimeReadings : Prop :=
  ∀ (p : Pred) (s : State) (g : Group), Runs s g p [] [] →
    let r := s.time (dieOf g.core)
    (∀ sd : RegNum, UniformResult (.timeNow p sd) s g 1 (WroteS64 sd.toNat (BitVec.ofNat 64 r.value))) ∧
    (∀ sd : RegNum, UniformResult (.timeErr p sd) s g 1 (WroteS64 sd.toNat
      (pairOf (BitVec.ofNat 32 (r.pkgState * 2 ^ 30 + r.pkgBound)) (BitVec.ofNat 32 (r.fabState * 2 ^ 30 + r.fabBound))))) ∧
    (∀ (pd : BitVec 3) (sa : RegNum), LaneResult (.timeAfter p pd sa) s g p 1 fun _ th u =>
      WroteP pd (decide ((g.sGet64 sa.toNat).toNat ≤ r.value % 2 ^ 64)) th u)

/-- R346: TRAP is held until its group has nothing outstanding; then, on a Vent core, the group parks with a record of the
service number and of 16 registers of each active lane; on a service core a user-state group parks without a record and the
supervisor starts with SCAUSE 0x0E, and a supervisor-state group halts its core. -/
def Obligations.TrapParksTheGroup : Prop :=
  ∀ (p : Pred) (d a : RegNum) (b : OpS) (s : State) (g : Group) (c : Clause) (e : Entry),
    let i : Instr := .trap p d a b
    let A := g.active p
    Steers s g p (regsFrom d 16 ++ regsFrom a 16) (regsFrom a 16) c e →
      (g.cnt ≠ ⟨0, 0, 0, 0⟩ → Held i s) ∧
      (g.cnt = ⟨0, 0, 0, 0⟩ → isService g.core = false →
        ∃ t, exec i s = .next t ∧ (∀ k, k ≠ g.key → t.group? k = s.group? k) ∧
          Parks s t g 1 A d.toNat (fun r => Records s g 1 Cause.software A A 0 r ∧ r.svc = opSWord g b ∧
            ∀ k w, (k, w) ∈ r.blocks ↔ A.getLsbD k = true ∧ ∃ th, g.thread? k = some th ∧
              w = (List.range 16).map fun m => th.get (a.toNat + m)) id ∧
          t = { s with
            groups := t.groups, issueQ := s.issueQ.tail, parkings := t.parkings, parts := t.parts, nextKey := s.nextKey + 1 }) ∧
      (∀ k, g.cnt = ⟨0, 0, 0, 0⟩ → g.core = .service k → g.supervisor = false → (∃ x ∈ s.parts, x.num = k) →
        s.group? (s.nextKey + 1) = none → (∀ x ∈ s.parts, ∀ r ∈ x.posts, r.parking ≠ some s.nextKey) →
        ∃ t, exec i s = .next t ∧ t.group? g.key = some (parkedAs g s.nextKey) ∧
          t.parkings = s.parkings ++ [⟨s.nextKey, k, g.key, 1, none, none, A, d.toNat, none, [], false⟩] ∧
          t.parts = (s.parts.map fun x => if x.num = k then { x with scause := 0x0E } else x) ∧ MemorySame s t ∧
          ∃ h ∈ t.groups, h.key = s.nextKey + 1 ∧ h.core = .service k ∧ h.supervisor = true ∧ h.live = 1) ∧
      (∀ k, g.cnt = ⟨0, 0, 0, 0⟩ → g.core = .service k → g.supervisor = true →
        ∃ t, exec i s = .next t ∧ HaltsService s t k)

/-- R119, R348, R349, shown of six words of the classes 0, 2, 4 and 6 with a vector and a B operand: a word that reads a register
with an uncorrectable word changes no state of its own and terminates the team of its lowest active lane with UNCORRECTABLE,
which ends the team's grid. -/
def Claims.UncorrectableRegisterEndsTheGrid : Prop :=
  ∀ (p : Pred) (d a : RegNum) (b : OpB) (s : State) (g : Group) (T : Team) (x : Grid) (th : Thread),
    let read := a.toNat :: opBRegs 1 b
    s.issuing? = some g → g.active p ≠ 0 → (∀ r ∈ [d.toNat, a.toNat] ++ opBRegs 1 b, r < g.cap) →
      g.badRead (g.active p) read = true → (lowLane (g.active p)).bind g.thread? = some th →
      s.team? th.team = some T → isService T.core = false → s.grid? T.grid = some x → x.cause = none →
        ∀ i ∈ [Instr.iadd p d a b, .isub p d a b, .iand p d a b, .fadd p .rn d a b, .paddBf16 p d a b, .sel p 0 d a b],
          ∃ t, exec i s = .next t ∧ GridEnds s t x T Cause.uncorrectable

/-! ## Common fates of words (03) -/

/-- R46, R53, shown of one word of each class or shape, 26 words: a word at which no position is active has no effect at all: its
group goes on behind it and its literal. -/
def Claims.InactiveWordHasNoEffect : Prop :=
  ∀ (p : Pred) (d a ps : RegNum) (b : OpB) (c : OpS) (m : MemOp) (x : AtomArgs) (s : State) (g : Group),
    s.issuing? = some g → g.active p = 0 →
      ∀ q ∈ [(Instr.iadd p d a b, opBLen b), (.shlB32 p d a b, opBLen b), (.iand p d a b, opBLen b),
          (.ldi p true d 1, 1), (.fadd p .rn d a b, opBLen b), (.fmin p d a b, opBLen b), (.paddBf16 p d a b, opBLen b),
          (.packE4m3 p .rs d a, 1), (.voteAny p 0 0, 1), (.shflIdx p d a b, opBLen b), (.ldB32 p d m, memLen m),
          (.stB32 p d m, memLen m), (.atomAdd p x, 1), (.fence p .ar .system, 1), (.hinit p d a ps, 1),
          (.barrTeam p d, 1), (.wait p 0 0 0 0, 1), (.bcpy p ps, 1), (.mma p true ps, 1), (.tst p ps, 1), (.epi p ps, 1),
          (.bfly p ps, 1), (.topk p ps, 1), (.timeNow p d, 1), (.resume p d a c, opSLen c), (.keynew p d a, 1)],
        ∃ t g', exec q.1 s = .next t ∧ OnlyGroup s t g g' ∧ KeptGroup g g' ∧ StandsAfter t g g' q.2 ∧
          g'.lanes = g.lanes ∧ g'.s = g.s ∧ g'.cnt = g.cnt

/-- R53, R120, shown of one word of each class or shape that names a vector register, 18 words: a word that names one at or above
the cap raises ILLEGAL_INSTRUCTION when a position is active, before any check of its own entry. -/
def Claims.RegisterAboveCapTraps : Prop :=
  ∀ (p : Pred) (d a : RegNum) (b : OpB) (m : MemOp) (s : State) (g : Group),
    s.issuing? = some g → g.active p ≠ 0 → g.cap ≤ d.toNat →
      ∀ i ∈ [Instr.iadd p d a b, .imad p d a b, .shlB32 p d a b, .iaddI64 p d a b, .iand p d a b, .mov p d b,
          .ldi p false d 0, .fadd p .rn d a b, .fclass p d a, .pdotE4m3 p d a b, .packBf16 p .rn d a, .psave p d,
          .shflXor p d a b, .ldB128 p d m, .stB8 p d m, .hinit p d a a, .barrGrid p d, .rdsr p d 0],
        Traps i s g Cause.illegalInstruction (g.active p) (g.active p) 0

/-- R94: VOTE and SHFL in a group that is not fully converged raise ILLEGAL_STATE, with the issuing entry's mask. -/
def Claims.CollectivesNeedConvergence : Prop :=
  ∀ (p : Pred) (d a : RegNum) (b : OpB) (pd pa : BitVec 3) (s : State) (g : Group), g.converged = false →
    (Runs s g p [] [] → ∀ i ∈ [Instr.voteAny p pd pa, .voteAll p pd pa, .voteBallot p d pa],
      Traps i s g Cause.illegalState (g.active p) g.entryMask 0) ∧
    (Runs s g p [a.toNat] [a.toNat] → Traps (.voteEq p pd a) s g Cause.illegalState (g.active p) g.entryMask 0) ∧
    (Runs s g p ([d.toNat, a.toNat] ++ opBRegs 1 b) (a.toNat :: opBRegs 1 b) →
      ∀ i ∈ [Instr.shflIdx p d a b, .shflUp p d a b, .shflDown p d a b, .shflXor p d a b],
        Traps i s g Cause.illegalState (g.active p) g.entryMask 0)

/-! ## Supervisor words (16) -/

/-- R53, R332: outside supervisor state on a service core every word of class 24 raises PRIVILEGE when a position is
active. -/
def Claims.PrivilegedWordsTrap : Prop :=
  ∀ (p : Pred) (d a n : RegNum) (m : BitVec 2) (b : OpS) (s : State) (g : Group), Runs s g p [] [] →
    (isService g.core = false ∨ g.supervisor = false) →
      ∀ i ∈ [Instr.resume p d a b, .kill p d a b, .srdsr p d n b, .swrsr p n a b, .sret p a, .tlbinv p m a d, .keynew p d a],
        Traps i s g Cause.privilege (g.active p) (g.active p) 0

/-- R332, R333: the statuses of RESUME and KILL that have no effect: NOTPARKED for a handle of no parking, NOTMINE for one
of another partition, BADARG for an operand that breaks its limits. -/
def Claims.ResumeAndKillRefusals : Prop :=
  ∀ (p : Pred) (sd sa : RegNum) (b : OpS) (s : State) (g : Group) (k : Nat), Supervises s g p k →
    let h := g.sGet sa.toNat
    let x := (opSWord g b).toNat
    let answers := fun (i : Instr) (st : W32) => ServiceResult i s g (opSLen b) (fun r m => m = r) (WroteS sd.toNat st)
    (∀ y ∈ s.preempts, y.req.part = k → ∀ e ∈ y.events, e.handle ≠ some h) →
      ((∀ q ∈ s.parkings, q.handle ≠ some h) → answers (.resume p sd sa b) 1 ∧ answers (.kill p sd sa b) 1) ∧
      ((∃ q ∈ s.parkings, q.handle = some h) → (∀ q ∈ s.parkings, q.handle = some h → q.part ≠ k) →
        answers (.resume p sd sa b) 3 ∧ answers (.kill p sd sa b) 3) ∧
      ∀ q, ParkedUnder s k h q →
        (2 ≤ x → answers (.resume p sd sa b) 2) ∧
        (x % 256 = 0 ∨ 0x16 < x % 256 ∨ 512 ≤ x → answers (.kill p sd sa b) 2)

/-- R312, R313, R331, R333, R344, R346, R351, R353, R372: RESUME wakes the parked group, its slot FREE. In mode 0 it is to issue
its kept word again; in mode 1 it goes on behind that word, as it was fetched and checked, a TRAP with the replies in its
registers, whose reads are an acquire at DEVICE scope. While its halt is pending it halts before it issues. The word is held
while what it reads, or the way to the group, has to wait; and a group whose replies are lost, or whose saved state cannot be
read as it was written, ends with its team. That mode 1 behind a control word takes the priority kept where the next header
cannot be read (log 92), and that a save area which software has written ends the team (log 103), is the model's choice. -/
def Claims.ResumeResults : Prop :=
  ∀ (p : Pred) (sd sa : RegNum) (b : OpS) (s : State) (g : Group) (k : Nat) (q : Parking) (h : Group) (y : Part),
    Supervises s g p k → ParkedUnder s k (g.sGet sa.toNat) q → s.group? q.group = some h → s.part? k = some y →
    q.group ≠ g.key → s.heldBy h = none → h.sret = none → (∀ f ∈ s.lateFaults, f.group ≠ q.group) → (opSWord g b).toNat < 2 →
      let mode := (opSWord g b).toNat
      let intact := q.bad = false ∧ s.areaLost q.area = none ∧ ∀ a ∈ q.area, s.readBytes a.addr a.data.length = a.data
      let told := fun (W : State → State → Prop) =>
        ServiceResult (.resume p sd sa b) s g (opSLen b) W (WroteS sd.toNat 0)
      (∀ n, q.slot = some n → q.kind = 1 → mode = 1 → s.portBlock (y.slotAddr n) ≠ none → s.resumeWaits q mode ≠ none) ∧
      (∀ ds, s.resumeWaits q mode = some ds → HeldFor (.resume p sd sa b) s ds) ∧
      (s.resumeWaits q mode = none → ¬ Reached s h → HeldFor (.resume p sd sa b) s [.caldera, dieOf h.core]) ∧
      (s.resumeWaits q mode = none → Reached s h →
        (∀ cause th T X, s.replyMeets q mode = some (.lost cause) → (lowLane q.active).bind h.thread? = some th →
          s.team? th.team = some T → isService T.core = false → s.grid? T.grid = some X → X.cause = none →
            told fun r m => GridEnds r m X T cause) ∧
        (s.replyMeets q mode = none → intact → mode = 0 ∨ q.kind = 3 → told fun r m => Woken r m q (running h)) ∧
        (∀ c w n, s.replyMeets q mode = none → intact → mode = 1 → q.slot = some n → h.clause = some c → q.kind ≠ 3 →
          c.word? 0 = some w →
          told fun r m => ∃ m1 h1, Woken r m1 q h1 ∧
            (q.kind = 1 → (m1.core h.core).l1 = [] ∧ LanesChanged (running h) h1 q.active fun i th u =>
              (∀ j, j < 16 → u.get (q.trapReg + j) = wordOfBytes (s.readBytes (y.slotAddr n + 64 + 64 * i + 4 * j) 4)) ∧
              OnlyRegs ((List.range 16).map fun j => q.trapReg + j) th u) ∧
            (q.kind ≠ 1 → h1 = running h ∧ m1.cores = r.cores) ∧
            ∃ h2, m = { m1 with groups := m.groups } ∧ Becomes m1 m h1 h2 ∧ KeptGroup h1 h2 ∧
              StandsAfter m h1 h2 (if hasLiteral w then 2 else 1) ∧ h2.lanes = h1.lanes ∧ h2.s = h1.s) ∧
        (∀ c, s.replyMeets q mode = none → intact → mode = 1 → q.kind = 2 → h.clause = some c → c.word? 0 = none →
          told fun r m => Woken r m q (running h)) ∧
        ∀ T X, s.replyMeets q mode = none → ¬ intact → (∀ th ∈ h.lanes.filterMap id, th.team = T.key) →
          h.lanes.filterMap id ≠ [] → s.team? T.key = some T → isService T.core = false → s.grid? T.grid = some X →
          X.cause = none → told fun r m => GridEnds r m X T (s.restoreCause q.area))

/-- R333, R348: KILL with end mode 0 terminates the team of the parked group's lowest live lane with its cause; with end
mode 1 every live lane of the group ends as by TAIL. It is held while the link to the group's die carries no traffic (R25). -/
def Claims.KillResults : Prop :=
  ∀ (p : Pred) (sd sa : RegNum) (b : OpS) (s : State) (g : Group) (k : Nat) (q : Parking) (h : Group),
    Supervises s g p k → ParkedUnder s k (g.sGet sa.toNat) q → s.group? q.group = some h → KeysFresh s →
    q.group ≠ g.key → s.heldBy h = none →
      let x := (opSWord g b).toNat
      let told := fun (W : State → State → Prop) =>
        ServiceResult (.kill p sd sa b) s g (opSLen b) W (WroteS sd.toNat 0)
      (1 ≤ x % 256 → x % 256 ≤ 0x16 → x < 512 → ¬ Reached s h → HeldFor (.kill p sd sa b) s [.caldera, dieOf h.core]) ∧
      (∀ T X th, 1 ≤ x → x ≤ 0x16 → Reached s h → (lowLane h.live).bind h.thread? = some th → s.team? th.team = some T →
        isService T.core = false → s.grid? T.grid = some X → X.cause = none → told fun r m => GridEnds r m X T x) ∧
      (257 ≤ x → x ≤ 0x116 → Reached s h → told fun r m => ∃ m1, Woken r m1 q (running h) ∧ MemorySame m1 m ∧
        (∃ h2, Becomes m1 m h h2 ∧ h2.ended = true ∧ h2.frontier = [] ∧ ∀ n, h2.thread? n = none) ∧
        ∀ t T, s.team? t = some T → ∃ U, m.team? t = some U ∧
          U.ended = T.ended + ((h.lanes.filterMap id).filter fun th => th.team == t).length)

/-- R312, R317, R321, R322, R334, R335, R336, R337: the other words of class 24 in supervisor state. SRDSR reads a register or
traps; SWRSR writes one, where the value's fields keep their limits, hands a queue command or a commit to the command processor
behind its partition's earlier requests, or traps; SRET records the code offset; TLBINV and KEYNEW raise their counter and issue,
KEYNEW as one more request of its partition. That a value which breaks its limits changes nothing, and that the bits that a
register does not name are ignored (SVEC takes v mod 2^32, SRINGN v mod 32), is the model's choice (log 36), and so is that
TLBINV of mode 2 takes any context (log 37). -/
def Obligations.SupervisorWordResults : Prop :=
  ∀ (p : Pred) (s : State) (g : Group) (k : Nat) (y : Part), Supervises s g p k → s.part? k = some y →
    let A := g.active p
    (∀ (sd n : RegNum) (b : OpS),
      let x := (opSWord g b).toNat
      let reads := fun (v : W64) => ServiceResult (.srdsr p sd n b) s g (opSLen b) (fun r m => m = r) (WroteS64 sd.toNat v)
      (n = 0 → x = 0 → k = 127 → reads (BitVec.ofNat 64 (127 + 127 * 2 ^ 9))) ∧
      (n = 0 → x = 0 → k < 8 → reads (BitVec.ofNat 64 (k + 1 * 2 ^ 7 + 127 * 2 ^ 9))) ∧
      (n = 0 → x = 0 → 8 ≤ k → k < 72 → reads (BitVec.ofNat 64 (k + 2 * 2 ^ 7 + (k - 8) / 8 * 2 ^ 9))) ∧
      (∀ q, n = 14 → k = 127 → x < 8 → s.port? x = some q →
        reads (BitVec.ofNat 64 ((if q.peer then 1 else 0) + q.bound * 2 ^ 8))) ∧
      (n = 1 → x = 0 → reads 1) ∧ (n = 2 → x = 0 → reads y.svec) ∧
      (n = 3 → x = 0 → reads (BitVec.ofNat 64 (y.scause.toNat % 256))) ∧
      (n = 4 → x < 256 → reads (BitVec.ofNat 64 (sget 0 y.ctxp x).toNat)) ∧
      (n = 5 → x < 256 → reads (BitVec.ofNat 64 (sget 0 y.ctxr x).toNat)) ∧
      (n = 7 → y.desc.qbase ≤ x → x < y.desc.qbase + y.desc.qcount → NoChildQueue s k x → reads (BitVec.ofNat 64 (s.queue x).statusWord)) ∧
      (n = 8 → x = 0 → reads y.sring) ∧ (n = 9 → x = 0 → reads y.sringn) ∧ (n = 10 → x = 0 → reads y.swint) ∧
      (n = 11 → x = 0 → reads y.swinn) ∧ (n = 15 → x = 0 → reads y.ssave) ∧ (n = 16 → x = 0 → reads y.ssaven) ∧
      (n = 13 → x = k → k < 72 → reads (BitVec.ofNat 64 (y.status + y.commit * 2 ^ 8 + y.keyId * 2 ^ 16))) ∧
      ((n = 6 ∨ n = 12 ∨ 17 ≤ n.toNat) → Traps (.srdsr p sd n b) s g Cause.illegalInstruction A A 0) ∧
      ((n.toNat ≤ 3 ∨ n ∈ [8, 9, 10, 11, 15, 16]) → x ≠ 0 → Traps (.srdsr p sd n b) s g Cause.privilege A A 0) ∧
      ((n = 4 ∨ n = 5) → 256 ≤ x → Traps (.srdsr p sd n b) s g Cause.privilege A A 0) ∧
      (n = 14 → (k ≠ 127 ∨ 8 ≤ x) → Traps (.srdsr p sd n b) s g Cause.privilege A A 0)) ∧
    (∀ (n sa : RegNum) (b : OpS),
      let x := (opSWord g b).toNat
      let v := g.sGet64 sa.toNat
      let i : Instr := .swrsr p n sa b
      let writes := fun (f : Part → Part) => ServiceResult i s g (opSLen b)
        (fun r m => m = { r with parts := r.parts.map fun z => if z.num = k then f z else z }) fun h h' => h'.s = h.s
      let hands := fun (e : Instr) => ServiceResult i s g (opSLen b)
        (fun r m => m = { r with parts := r.parts.map fun z => if z.num = k then { z with requests := z.requests ++ [.event e] } else z })
        fun h h' => h'.s = h.s
      (n = 2 → x = 0 → v.toNat % 4 = 0 → writes fun z => { z with svec := BitVec.ofNat 64 (v.toNat % 2 ^ 32) }) ∧
      (n = 2 → x = 0 → v.toNat % 4 ≠ 0 → writes id) ∧
      (let c4 := bitsOf v.toNat 19 0 + bitsOf v.toNat 31 30 * 2 ^ 30
        let taken := bitsOf v.toNat 31 31 = 1 ∧ y.pasidTaken x v.toNat = true
        n = 4 → x < 256 → (¬ taken → writes fun z => { z with ctxp := sput 0 z.ctxp x (BitVec.ofNat 64 c4) }) ∧
          (taken → writes id)) ∧
      (let mt := bitsOf v.toNat 59 58
        let c5 := mt * 2 ^ 58 + bitsOf v.toNat 54 52 * 2 ^ 52 + bitsOf v.toNat 51 17 * 2 ^ 17
        let fits := mt = 1 ∨ (mt = 0 ∧ bitsOf v.toNat 54 52 = 0)
        n = 5 → x < 256 → (fits → writes fun z => { z with ctxr := sput 0 z.ctxr x (BitVec.ofNat 64 c5) }) ∧
          (¬ fits → writes id)) ∧
      (n = 8 → x = 0 → (s.inReach k v.toNat 1 = true → writes fun z => { z with sring := v, seq := 0 }) ∧
        (s.inReach k v.toNat 1 = false → writes id)) ∧
      (n = 10 → x = 0 → (v.toNat % 32 = 0 → s.inReach k v.toNat 1 = true → writes fun z => { z with swint := v }) ∧
        (v.toNat % 32 ≠ 0 ∨ s.inReach k v.toNat 1 = false → writes id)) ∧
      (let fits := v.toNat % 65536 = 0 ∧ s.saveHeld k = false ∧ s.inReach k v.toNat (max 1 (65536 * y.ssaven.toNat)) = true
       n = 15 → x = 0 → (fits → writes fun z => { z with ssave := v }) ∧ (¬ fits → writes id)) ∧
      (let u := v.toNat % 65536
        let fits := s.saveHeld k = false ∧ (u = 0 ∨ s.inReach k y.ssave.toNat (65536 * u) = true)
        n = 16 → x = 0 → (fits → writes fun z => { z with ssaven := BitVec.ofNat 64 u }) ∧ (¬ fits → writes id)) ∧
      (let bound := bitsOf v.toNat 14 8
       n = 14 → k = 127 → x < 8 →
          (bound < 72 ∨ bound = 127 → ServiceResult i s g (opSLen b) (fun r m => m = { r with ports := r.ports.map fun q =>
            if q.n = x ∧ q.up = false then { q with peer := decide (v.toNat % 2 = 1), bound := bound } else q })
            fun h h' => h'.s = h.s) ∧
          (¬ (bound < 72 ∨ bound = 127) → writes id)) ∧
      (n = 9 → x = 0 → v.toNat % 32 ≤ 12 → writes fun z => { z with sringn := BitVec.ofNat 64 (v.toNat % 32) }) ∧
      (n = 9 → x = 0 → 12 < v.toNat % 32 → writes id) ∧
      (n = 11 → x = 0 → v.toNat ≤ 65536 → writes fun z => { z with swinn := v }) ∧
      (n = 11 → x = 0 → 65536 < v.toNat → writes id) ∧
      (n = 12 → k = 127 → x < 72 → hands (.partitionCommit x v)) ∧
      (∀ q vd, n = 6 → q < 2 ^ 14 → y.desc.qbase ≤ q → q < y.desc.qbase + y.desc.qcount → NoChildQueue s k q →
        let v20 := if vd then 2 ^ 20 else 0
        (vd = false → x = q + 1 * 2 ^ 16 → hands (.queueOpen q k v)) ∧ (x = q + 2 * 2 ^ 16 + v20 → hands (.queueStop ⟨q, vd⟩)) ∧
        (x = q + 3 * 2 ^ 16 + v20 → hands (.queueRestart ⟨q, vd⟩)) ∧ (x = q + 4 * 2 ^ 16 + v20 → hands (.queueClose ⟨q, vd⟩)) ∧
        (x = q + 5 * 2 ^ 16 + v20 → hands (.queueReset ⟨q, vd⟩ k v))) ∧
      ((n.toNat ≤ 1 ∨ n = 3 ∨ n = 7 ∨ n = 13 ∨ 17 ≤ n.toNat) → Traps i s g Cause.illegalInstruction A A 0) ∧
      ((n = 12 ∧ (k ≠ 127 ∨ 72 ≤ x)) ∨ (n = 14 ∧ (k ≠ 127 ∨ 8 ≤ x)) ∨ ((n = 4 ∨ n = 5) ∧ 256 ≤ x) ∨
        (n ∈ [2, 8, 9, 10, 11, 15, 16] ∧ x ≠ 0) ∨
        (n = 6 ∧ (x / 2 ^ 14 % 4 ≠ 0 ∨ 2 ^ 21 ≤ x ∨ x / 2 ^ 16 % 16 = 0 ∨ 5 < x / 2 ^ 16 % 16)) →
          Traps i s g Cause.privilege A A 0)) ∧
    (∀ sa : RegNum, k ≠ 127 → ∃ t g', exec (.sret p sa) s = .next t ∧ OnlyGroup s t g g' ∧
      g'.sret = some (g.sGet sa.toNat) ∧ KeptGroup g { g' with sret := g.sret } ∧ StandsAfter t g g' 1 ∧
      g'.lanes = g.lanes ∧ g'.s = g.s ∧ g'.supervisor = true) ∧
    (∀ (m : BitVec 2) (sa sb : RegNum),
      (255 < (g.sGet sa.toNat).toNat → Traps (.tlbinv p m sa sb) s g Cause.illegalState A A 0) ∧
      ((g.sGet sa.toNat).toNat ≤ 255 → g.cnt.st < 63 →
        IssueResult (.tlbinv p m sa sb) s g p 1 .st fun o =>
          o.kind = .tlbinv k m.toNat (g.sGet sa.toNat).toNat (g.sGet64 sb.toNat) ∧ o.accs = [])) ∧
    ∀ sd sa : RegNum, g.cnt.ld < 63 →
      ∃ t, exec (.keynew p sd sa) s = .next t ∧
        Queued { s with parts := s.parts.map fun z => if z.num = k then { z with requests := z.requests ++ [.keynew s.nextOp] } else z }
          t g g A 1 .ld fun o => o.kind = .keynew (g.sGet sa.toNat).toNat sd.toNat 0 ∧ o.accs = []

/-- R335: the control word after SRET, where it is a BRA, a JMP to an aligned offset, a NOP or a YIELD: it ends supervisor state
where it leaves one entry, at CB + o, with every live lane; else it raises PRIVILEGE with no effect, the group stays in
supervisor state, and the offset lapses. -/
def Obligations.SretControlWord : Prop :=
  ∀ (p : Pred) (off : BitVec 22) (sa : RegNum) (s : State) (g : Group) (c : Clause) (e : Entry) (o : W32) (f : List Entry),
    Steers s g p [] [] c e → g.sret = some o → g.supervisor = true → (g.sGet sa.toNat).toNat % 4 = 0 →
    ∀ q ∈ [
        (Instr.bra p off, toward (g.active p) (c.kept + BitVec.ofInt 64 (4 * off.toInt)) (nextOf c), g),
        (.jmp p sa, toward (g.active p) (s.cbOf g + (g.sGet sa.toNat).setWidth 64) (nextOf c), g),
        (.nop p, (fun _ => some (nextOf c)), g), (.yield p, (fun _ => some (nextOf c)), { g with run := .yielding 16 })],
      s.popIssue.rebuild g e none q.2.1 = .ok f →
        ((∃ x, f = [x] ∧ x.addr = s.cbOf g + o.setWidth 64 ∧ x.mask = g.live) →
          ∃ t, exec q.1 s = .next t ∧ OnlyGroup s t g { steered q.2.2 f with supervisor := false, sret := none }) ∧
        ((∀ x, f = [x] → ¬ (x.addr = s.cbOf g + o.setWidth 64 ∧ x.mask = g.live)) →
          Traps q.1 s { g with sret := none } Cause.privilege (g.active p) e.mask 0)

/-! ## Operations performed (07 to 09) -/

/-- R166 to R168, R39: a load that is due is performed: its register takes the bytes at its place, those of the L1's sector
where one serves it, sign or zero extended; of an access of several pieces each brings the registers that its bytes go to (R166); it
completes with its last access; memory is as before. -/
def Claims.LoadCompletionResult : Prop :=
  ∀ (s : State) (g : Group) (th : Thread) (o : Op) (x : Acc) (z d : Nat) (sg refill : Bool) (bs : List Byte),
    Awaits s g th o x → o.kind = .load z sg d →
    (x.roff = 0 ∧ x.len = z) ∨ (4 < z ∧ x.roff % 4 = 0 ∧ x.len % 4 = 0) → s.meetsLoad o x refill = .ok →
    s.debugFault o x z = false → s.mixed o x = false → Unmixed s o x x.len →
      (s.l1Hit o x refill = none ∧ bs = s.readPlace o x.loc x.len ∨
        ∃ h key, s.l1Hit o x refill = some h ∧ x.loc = .mem key ∧ bs = (List.range x.len).map fun i => sget 0 h.data (key + i)) →
        ∃ t, exec (.loadCompletion o.id [x.n] refill) s = .next t ∧ MemorySame s t ∧ t.teams = s.teams ∧
          Completed s t g o x fun a b =>
            (z ∈ [1, 2, 4] → Wrote d (loaded z sg bs) a b) ∧
            (z ∈ [8, 16] → OnlyRegs ((List.range (x.len / 4)).map fun j => d + x.roff / 4 + j) a b ∧
              ∀ j, j < x.len / 4 → b.get (d + x.roff / 4 + j) = wordOfBytes ((bs.drop (4 * j)).take 4))

/-- R157, R167, R39: a store that is due puts its bytes at its place and completes; every other byte, register and team is
as before. Where another holder has its line it asks for ownership and is performed later; to a read-only register of the
configuration window it writes nothing (R6, R14). -/
def Claims.StoreCompletionResult : Prop :=
  ∀ (s : State) (g : Group) (th : Thread) (o : Op) (x : Acc),
    Awaits s g th o x → o.kind = .store → Free s o x false x.len → Unmixed s o x x.data.length →
      (∀ key, x.loc = .mem key → inWindow key = true →
        ∃ t, exec (.storeCompletion o.id [x.n]) s = .next t ∧ MemorySame s t ∧ t.teams = s.teams ∧
          Completed s t g o x fun a b => b = a) ∧
      (∀ key, x.loc = .mem key → inWindow key = false → s.mayWrite (s.ventFor o.core (lineOf key)) (lineOf key) = true →
        ∃ t, exec (.storeCompletion o.id [x.n]) s = .next t ∧ Stored s t (ofRoot s o) key x.data ∧ t.teams = s.teams ∧
          Completed s t g o x fun a b => b = a) ∧
      (∀ key, x.loc = .mem key → inWindow key = false → s.mayWrite (s.ventFor o.core (lineOf key)) (lineOf key) = false →
        (∀ r ∈ s.ownReqs, r.line ≠ lineOf key) →
        ∃ t, exec (.storeCompletion o.id [x.n]) s = .next t ∧ MemorySame s t ∧ t.ops = s.ops ∧ t.groups = s.groups ∧
          t.ownReqs = s.ownReqs ++ [⟨lineOf key, s.ventFor o.core (lineOf key),
            s.otherHolders (s.ventFor o.core (lineOf key)) (lineOf key), []⟩]) ∧
      ∀ n a, x.loc = .sc n a →
        ∃ t, exec (.storeCompletion o.id [x.n]) s = .next t ∧ MemorySame s t ∧ StoredSc s t n a x.data ∧
          Completed s t g o x fun a b => b = a

/-- R6, R39, R183, R184, R190: an ATOM that is due reads its place, leaves there what its operation says, gives its thread the
old value, notes a completion mark that it reads and is no acquire for, and completes: in a scratchpad, and in memory at its
line's home where that holds no valid object (R208). A load has no operand words. Of a register of the configuration window it
reads what R14 says and writes nothing. -/
def Claims.AtomicPerformResult : Prop :=
  ∀ (s : State) (g : Group) (th : Thread) (o : Op) (x : Acc) (a : AtomOp) (z d : Nat) (ord : AOrd) (sc : Scope),
    Awaits s g th o x → o.kind = .atom a z d ord sc → x.len = z → (z = 4 ∨ z = 8) → Free s o x true z → Unmixed s o x z →
      let old := s.readPlace o x.loc z
      let w := fun (n : Nat) => x.ops.getD n 0
      let new := if z = 4 then bytesOfWord (atomNew a (wordOfBytes old) (w 0) (w 1))
        else bytesOf64 (atomNew a (BitVec.ofNat 64 (natOfBytes old)) (pairOf (w 0) (w 1)) (pairOf (w 2) (w 3)))
      let noted := s.readsMark x.loc z = true ∧ a ≠ .st ∧ ord ≠ .acq ∧ ord ≠ .ar
      let gives := fun (l : List Byte) (b c : Thread) =>
        if a = .st then c = b
        else if z = 4 then Wrote d (wordOfBytes l) b c else Wrote64 d (BitVec.ofNat 64 (natOfBytes l)) b c
      let takes := fun (b c : Thread) => ∃ m, (m = true ↔ b.markRead = true ∨ noted) ∧ gives old { b with markRead := m } c
      (x.ops.length = (if a = .ld ∨ a = .ldRemote then 0 else if a = .cas then 2 * (z / 4) else z / 4)) →
        (∀ n f, x.loc = .sc n f → (s.team? n).isSome = true →
          ∃ t, exec (.atomicPerform o.id [x.n]) s = .next t ∧ MemorySame s t ∧ StoredSc s t n f new ∧
            Completed s t g o x takes) ∧
        (∀ key, x.loc = .mem key → inWindow key = true →
          ∃ t, exec (.atomicPerform o.id [x.n]) s = .next t ∧ MemorySame s t ∧ t.teams = s.teams ∧
            Completed s t g o x (gives (s.placeBytes x.loc z))) ∧
        (∀ key, x.loc = .mem key → inWindow key = false → s.promotionDue a o key = false →
          s.mayWrite (s.homeVent (lineOf key)) (lineOf key) = true →
          (objOfBytes (s.readPlace o (.mem (lineOf key * 1024)) 1024)).valid = false →
          ∃ t, exec (.atomicPerform o.id [x.n]) s = .next t ∧ Stored s t (ofRoot s o) key new ∧ t.teams = s.teams ∧
            Completed s t g o x takes)

/-- R197, R200: a class 16 word that is due pre-applies the object of its line, does its step to it and completes; no byte
outside the line changes. -/
def Claims.HobPerformResult : Prop :=
  ∀ (s : State) (g : Group) (th : Thread) (o : Op) (x : Acc) (h : HobOp) (d key : Nat) (r : HObj × Bool × (Thread → Thread)),
    Awaits s g th o x → o.kind = .hob h d → x.loc = .mem key → key % 1024 = 0 → Free s o x true 16 →
    s.mayWrite (s.homeVent (lineOf key)) (lineOf key) = true → inWindow key = false →
      let old := s.readPlace o x.loc 1024
      let q := (objOfBytes old).preApply
      let mid := q.bytes old
      hobStep h d x.owner q (word64 mid 1) x.ops = some r →
        ∃ t, exec (.hobPerform o.id [x.n]) s = .next t ∧ Stored s t (ofRoot s o) key (r.1.bytes (hobBase h q x.ops mid)) ∧
          t.teams = s.teams ∧ Completed s t g o x fun a b => b = r.2.2 a

/-- R197, R202, R205 to R207: on a valid object that has no live slot, an announcement of a hardware operation takes the
lowest free slot and the next ticket; the next pre-application performs the operation and leaves the old values in the slot;
ARES then reads them, and AREL frees the slot. -/
def Obligations.AnnouncedOperationIsCommitted : Prop :=
  ∀ (o : HObj) (op owner k : Nat) (a b : W64), o.valid = true → o.slots.length = 31 → o.nextt < 2 ^ 27 → 1 ≤ op → op ≤ 9 →
    (∀ j, j < 31 → (o.slot j).state ≠ 1 ∧ (o.slot j).state ≠ 3) → k < o.nslot → (o.slot k).state = 0 →
    (∀ j, j < k → (o.slot j).state ≠ 0) →
      let r := annStep o op owner a b
      let h : W32 := BitVec.ofNat 32 (k * 2 ^ 27 + o.nextt)
      let c := r.1.preApply
      r.2 = h ∧ r.1.nextt = (o.nextt + 1) % 2 ^ 27 ∧ r.1.v0 = o.v0 ∧ r.1.v1 = o.v1 ∧ r.1.version = o.version ∧
      r.1.slot k = ⟨1, op, o.nextt, owner, 0, a, b⟩ ∧ (∀ j, j ≠ k → r.1.slot j = o.slot j) ∧
      (op = 1 → c.v0 = o.v0 + a) ∧ (op = 2 → c.v0 = o.v0 &&& a) ∧ (op = 3 → c.v0 = o.v0 ||| a) ∧
      (op = 4 → c.v0 = o.v0 ^^^ a) ∧ (op = 5 → c.v0 = if o.v0.sle a then o.v0 else a) ∧
      (op = 6 → c.v0 = if o.v0.sle a then a else o.v0) ∧ (op = 7 → c.v0 = a) ∧
      (op = 8 ∨ op = 9 → c.v0 = if o.v0 = a then b else o.v0) ∧
      c.v1 = (if op = 9 ∧ o.v0 = a then o.v1 + 1 else o.v1) ∧ c.version = o.version + 1 ∧
      (c.slot k).state = 2 ∧ (c.slot k).a = o.v0 ∧ (c.slot k).b = o.v1 ∧
      aresStep c h = some o.v0 ∧ (arelStep c h).slot k = HSlot.free ∧ (arelStep c h).version = o.version + 2

/-! ## What memory and storage do of themselves (06, 08) -/

/-- R155, R187: the L1's time ticks once in 16 cycles and what has expired is absent; a promotion that is wanted reaches
the core that the mark names, which notes its stores and atomics; when they are done the mark is emptied. That one of them
which can itself be performed only after the promotion is not waited for is the model's choice (log 118). -/
def Claims.PromotionAndLogicalTimeResults : Prop :=
  ∀ (s : State) (c : CoreId) (line : Nat) (m : NarrowMark), (∀ l ∈ s.links, l.st = .active) → s.narrow? line = some m →
    ((s.core c).ticks < s.cyclesOf c / 16 →
      ∃ t, exec (.l1LogicalTick c) s = .next t ∧ t = { s with cores := t.cores } ∧ (∀ d, d ≠ c → t.core d = s.core d) ∧
        { t.core c with ticks := (s.core c).ticks, l1time := (s.core c).l1time, l1 := (s.core c).l1 } = s.core c ∧
        (t.core c).ticks = (s.core c).ticks + 1 ∧ (t.core c).l1time = (s.core c).l1time + 1 ∧
        ∀ x, x ∈ (t.core c).l1 ↔ x ∈ (s.core c).l1 ∧ (s.core c).l1time + 1 < x.expiry) ∧
    (m.core = c → m.waitOps = none → s.promotionWanted m = true →
      ∃ t l, exec (.promotionRequest c line) s = .next t ∧ t = { s with narrow := t.narrow, times := t.times } ∧
        t.narrow? line = some { m with waitOps := some l } ∧ (∀ n, n ≠ line → t.narrow? n = s.narrow? n) ∧
        ∀ i, i ∈ l ↔ ∃ o ∈ s.ops, o.id = i ∧ o.core = c ∧ o.kind.isStoreOrAtomic = true) ∧
    (∀ l o, m.waitOps = some l → o ∈ s.ops → o.id ∈ l → s.inCircle line o.id = false → exec (.promotionAnswer line) s = .next s) ∧
    (∀ l, m.waitOps = some l → (∀ o ∈ s.ops, o.id ∈ l → s.inCircle line o.id = true) → (∀ o ∈ s.ops, ∀ z d r k, o.kind ≠ .atom .ldRemote z d r k) →
      ∃ t, exec (.promotionAnswer line) s = .next t ∧ t = { s with narrow := t.narrow, times := t.times } ∧
        t.narrow? line = none ∧ ∀ n, n ≠ line → t.narrow? n = s.narrow? n)

/-- R157: a request for ownership of a line takes it from each other holder: a Vent's copy is gone and its acknowledgement
is on its link, the command processor's copy is gone with the request, a host's when the host acknowledges, and when the last has answered the requester owns it. -/
def Claims.OwnershipResults : Prop :=
  ∀ (s : State) (line vent : Nat) (r : OwnReq), (∀ l ∈ s.links, l.st = .active) →
    s.ownReqs.find? (fun x => x.line == line) = some r → (∀ x ∈ s.ownReqs, x.line = line → x = r) →
    (vent ∈ r.toInv → vent < 100 → r.vent ≠ vent → s.heldByMark vent line = false →
      (∀ l ∈ s.l2, l.vent = vent → l.line = line → l.pinned = none) →
      s.maySend (.vent vent) false .response = true →
        ∃ t, exec (.directoryInvalidation line vent) s = .next t ∧ MemorySame s t ∧ t.l2? vent line = none ∧
          (∀ x ∈ t.ownReqs, x.line = line →
            x = { r with toInv := r.toInv.filter (· != vent), toAck := r.toAck ++ [vent] }) ∧
          ((s.link? (.vent vent)).isSome = true → t.ackInFlight vent line = true)) ∧
    (vent ∈ r.toInv → 200 ≤ vent → ∃ t, exec (.directoryInvalidation line vent) s = .next t ∧ MemorySame s t ∧
      (∀ m ∈ t.monitors, m.entry + 200 = vent → m.held = false) ∧
      ∀ x ∈ t.ownReqs, x.line = line → x = { r with toInv := r.toInv.filter (· != vent), toAck := r.toAck ++ [vent] }) ∧
    ((vent < 100 ∨ 200 ≤ vent) → s.ackInFlight vent line = false → r.toInv = [] → r.toAck = [vent] →
      s.otherHolders r.vent line = [] → s.devWrites = [] → (s.l2? r.vent line).isSome = true →
      ∃ t l, exec (.invalidationAck line vent) s = .next t ∧
        t = { s with l2 := t.l2, ownReqs := t.ownReqs, times := t.times } ∧ TimesRise s t ∧
        t.l2? r.vent line = some l ∧ l.owned = true ∧ t.ownReqs = s.ownReqs.filter fun x => x.line != line) ∧
    ∀ q, s.port? (vent - 100) = some q → 100 ≤ vent → q.up = true → r.toInv = [] → r.toAck = [vent] →
      vent < 200 → (∀ l ∈ s.l2, l.line = line → l.vent = r.vent) → (∀ m ∈ s.monitors, m.held = false) →
      (∀ p ∈ s.ports, p.n ≠ vent - 100 → ∀ h ∈ p.held, h.1 ≠ line) → s.devWrites = [] → (s.l2? r.vent line).isSome = true →
      ∃ t l, exec (.backInvalidateAck (vent - 100) line) s = .next t ∧
        t = { s with l2 := t.l2, ownReqs := t.ownReqs, ports := t.ports, times := t.times } ∧ TimesRise s t ∧
        (∀ p ∈ t.ports, p.n = vent - 100 → ∀ h ∈ p.held, h.1 ≠ line) ∧
        t.l2? r.vent line = some l ∧ l.owned = true ∧ t.ownReqs = s.ownReqs.filter fun x => x.line != line

/-- R24, R161 to R163, R336: a walk through a pointer entry to a leaf of level 1 leaves the page in its core's translation cache,
and nothing else, but that its flits may raise time registers; TLBINV, once its removal has ended, has taken the entries that it names out of every core and completes. -/
def Obligations.PageWalkResults : Prop :=
  (∀ (s : State) (v c k part ctx : Nat) (va : W64) (x : Part) (e0 e1 : Nat),
    let w : Who := ⟨.vent v c k, part, ctx⟩
    let a0 := bitsOf (x.walkrOf ctx) 51 17 * 2 ^ 17 + 8 * (va.toNat / 2 ^ 43 % 2 ^ 14)
    let a1 := entryAddr e0 + 8 * (va.toNat / 2 ^ 30 % 2 ^ 13)
    s.tlb? w va.toNat = none → s.part? part = some x → bitsOf (x.walkpOf ctx) 31 31 = 1 → va.toNat < 2 ^ 57 →
    bitsOf (x.walkrOf ctx) 59 58 = 0 → (∀ a ∈ [a0, a1], s.inReach part a 8 = true ∧ s.readBar w.core a 8 = none ∧ s.lostAt a 8 = none) →
    s.readNat a0 8 = e0 → s.readNat a1 8 = e1 → s.entryOk part e0 = true → s.entryOk part e1 = true →
    bitsOf e0 59 58 = 0 → bitsOf e0 1 1 = 0 → entryAddr e0 % 2 ^ 16 = 0 → bitsOf e1 1 1 = 1 → entryAddr e1 % 2 ^ 30 = 0 →
      ∃ t, exec (.pageWalkComplete (.vent v c k) part ctx va) s = .next t ∧ TimesRise s t ∧
        t = { s with cores := t.cores, times := t.times } ∧
        (∀ d, d ≠ .vent v c k → t.core d = s.core d) ∧
        { t.core (.vent v c k) with tlb := (s.core (.vent v c k)).tlb } = s.core (.vent v c k) ∧
        t.tlb? w va.toNat = some ⟨part, ctx, va.toNat / 2 ^ 30 * 2 ^ 30, 30, BitVec.ofNat 64 e1⟩) ∧
  ∀ (s : State) (o : Op) (g : Group) (part mode ctx : Nat) (va : W64), s.op? o.id = some o →
    o.kind = .tlbinv part mode ctx va → s.group? o.group = some g →
      ∃ t, exec (.tlbinvComplete o.id) s = .next t ∧ MemorySame s t ∧ t.ops = (s.ops.filter fun q => q.id != o.id) ∧
        t.group? o.group = some { g with cnt := g.cnt.set o.ctr (g.cnt.get o.ctr - 1) } ∧
        ∀ c x, x ∈ (t.core c).tlb ↔ x ∈ (s.core c).tlb ∧
          ¬ (x.part = part ∧ (mode = 2 ∨ x.ctx = ctx ∧
            (mode = 0 ∨ x.base = va.toNat / 2 ^ x.bits * 2 ^ x.bits)))

/-- R119, R351, R353: the patrol scrub corrects a single-bit error without effect; an uncorrectable word of a line marks the line
lost, one of a tile poisons it, one of a register or a team's store is met by the next read of it, one of a saved group by its
return to a core, and one of a thread record's header ends the record's grid. Which two registers share a 64-bit word is the
model's choice (log 21). -/
def Claims.PatrolScrubResults : Prop :=
  ∀ (s : State) (x : ScrubSite) (n k r : Nat) (T : Team) (c : CoreId) (q : Rec) (y : Grid),
    exec (.patrolScrub x false) s = .next s ∧
    (∃ t, exec (.patrolScrub (.line n) true) s = .next t ∧ t = { s with lost := t.lost } ∧
      (isDeviceLine n = false ∨ s.info.springs.toNat.testBit (s.ilvSpring (ilvIndex n)) = true → t.lostCause n = some Cause.uncorrectable)) ∧
    (∀ g, s.group? n = some g → ∃ t h, exec (.patrolScrub (.reg n k r) true) s = .next t ∧ t = { s with groups := t.groups } ∧
      Becomes s t g h ∧ LanesChanged g h (1 <<< k) fun _ a u => { u with bad := a.bad } = a ∧
        ∀ j, j ∈ u.bad ↔ j ∈ a.bad ∨ j / 2 = r / 2) ∧
    (∃ t, exec (.patrolScrub (.image n) true) s = .next t ∧ t = { s with preempts := t.preempts } ∧
      ∀ q ∈ s.preempts, q.n = n → ∀ i, q.saved = some i → 0 < i.1 → { q with bad := true } ∈ t.preempts) ∧
    (∃ t, exec (.patrolScrub (.parked n) true) s = .next t ∧ t = { s with parkings := t.parkings } ∧
      ∀ q ∈ s.parkings, q.key = n → ∀ i, q.store = some i → 0 < i.1 → { q with bad := true } ∈ t.parkings) ∧
    (s.team? n = some T →
      (k < 16 → ∃ t, exec (.patrolScrub (.tile n k) true) s = .next t ∧ t = { s with teams := t.teams } ∧
        ∃ p : BitVec 16, t.team? n = some { T with poison := p } ∧
          ∀ j, p.getLsbD j = (T.poison.getLsbD j || decide (j = k))) ∧
      (∃ t, exec (.patrolScrub (.scratch n k) true) s = .next t ∧ t = { s with teams := t.teams } ∧
        t.team? n = some { T with badSc := (k / 8 * 8) :: T.badSc }) ∧
      (∃ t, exec (.patrolScrub (.wbuf n k) true) s = .next t ∧ t = { s with teams := t.teams } ∧
        t.team? n = some { T with badW := (k / 8 * 8) :: T.badW }) ∧
      ∃ t, exec (.patrolScrub (.abuf n k) true) s = .next t ∧ t = { s with teams := t.teams } ∧
        t.team? n = some { T with badA := (k / 8 * 8) :: T.badA }) ∧
    ((s.core c).recordAt k = some q → s.team? q.thread.team = some T → isService T.core = false →
      s.grid? T.grid = some y → y.cause = none →
        ∃ t, exec (.patrolScrub (.contHead c k) true) s = .next t ∧ GridEnds s t y T Cause.regroupDataLost)

/-- R115, R159, R160: a bank that need hold nothing is gated and its L1 lines are dropped; a way is gated with its slice's
dirty sectors written back, and the pinned lines stay; a woken unit is admitted once its sweep has ended well, and else stays gated as failed.
That a bank takes the whole L1 of its core with it, and a way what its sets can hold no more, is the model's choice (log 48). -/
def Claims.PowerGatingResults : Prop :=
  ∀ (s : State) (v c k b sl w : Nat),
    let u : CoreId := .vent v c k
    let x := s.core u
    let kept := fun (t : State) => t = { s with cores := t.cores } ∧ ∀ d, d ≠ u → t.core d = s.core d
    (b < 64 → x.gated.getLsbD b = false → 48 ≤ s.freeGranules u →
      ∃ t m, exec (.bankGate (.bank u b)) s = .next t ∧ kept t ∧ t.core u = { x with gated := m, l1 := [] } ∧
        ∀ j, j < 64 → m.getLsbD j = (x.gated.getLsbD j || decide (j = b))) ∧
    (b < 64 → x.gated.getLsbD b = true → x.failed.getLsbD b = false →
      ∃ t m, exec (.bankWake (.bank u b)) s = .next t ∧ kept t ∧ t.core u = { x with waking := m } ∧
        ∀ j, j < 64 → m.getLsbD j = (x.waking.getLsbD j || decide (j = b))) ∧
    (b < 64 → x.waking.getLsbD b = true →
      (∃ t m n, exec (.bankWakeComplete (.bank u b) true) s = .next t ∧ kept t ∧
        t.core u = { x with waking := m, gated := n } ∧
        ∀ j, j < 64 → m.getLsbD j = (x.waking.getLsbD j && !decide (j = b)) ∧
          n.getLsbD j = (x.gated.getLsbD j && !decide (j = b))) ∧
      ∃ t m n, exec (.bankWakeComplete (.bank u b) false) s = .next t ∧ kept t ∧
        t.core u = { x with waking := m, failed := n } ∧
        ∀ j, j < 64 → m.getLsbD j = (x.waking.getLsbD j && !decide (j = b)) ∧
          n.getLsbD j = (x.failed.getLsbD j || decide (j = b))) ∧
    (w < 16 → sl < 32 → s.wayState v sl w = 0 → s.pinsFit v sl w = true → s.sliceMarked v sl = false → s.sliceQuarantined v sl = false →
      ∃ t, exec (.bankGate (.way v sl w)) s = .next t ∧
        t = { s with l2 := t.l2, gatedWays := t.gatedWays, links := t.links, debugLog := t.debugLog } ∧
        t.wayState v sl w = 1 ∧
        (∀ l ∈ t.l2, l.vent = v → l.pinned = none → s.sliceOf l.line = sl → l.dirty = 0 ∧ l.old = []) ∧
        ((s.l2.map fun l => (l.vent, l.line)).Nodup → ∀ l ∈ s.l2, l.pinned.isSome = true → l ∈ t.l2)) ∧
    (s.wayState v sl w = 1 → ∃ t, exec (.bankWake (.way v sl w)) s = .next t ∧
      t = { s with gatedWays := t.gatedWays } ∧ t.wayState v sl w = 2) ∧
    (s.wayState v sl w = 2 → QueuesIdle s → ∀ ok, ∃ t, exec (.bankWakeComplete (.way v sl w) ok) s = .next t ∧
      t = { s with gatedWays := t.gatedWays } ∧ t.wayState v sl w = if ok then 0 else 3)

/-! ## Bring-up, links and time (02) -/

/-- R16 to R19, R30: a cold reset, or a firmware image that comes while Caldera waits in ROM, checks the boot images; where
both pass it admits the dies that trained and were attested, counts the admission and sets STATE; where one fails STATE is
FAILED. That GEN keeps its count over a cold reset (log 49) and that memory then lists nothing (log 2) is the model's choice. -/
def Obligations.BringUpResults : Prop :=
  ∀ (s : State) (o : BootOutcome),
    let spring := fun (i : Nat) => o.springsTrained.getLsbD i && o.springsAttested.getLsbD i
    let vent := fun (i : Nat) => o.ventsTrained.getLsbD i && o.ventsAttested.getLsbD i && s.ventAllowed i
    let count := fun (n : Nat) (f : Nat → Bool) => ((List.range n).filter f).length
    let admits := fun (t : State) => t.info.valid = true ∧ t.info.gen = s.info.gen + 1 ∧ t.inRom = false ∧
      (∀ i, t.info.springs.getLsbD i = spring i) ∧ (∀ i, t.info.vents.getLsbD i = vent i) ∧
      (count 16 spring = 16 ∧ count 8 vent = (if s.code = .p7 then 7 else 8) → t.info.state = 1) ∧
      (count 16 spring = 0 ∨ count 8 vent = 0 → t.info.state = 3) ∧
      (0 < count 16 spring ∧ 0 < count 8 vent ∧
        ¬ (count 16 spring = 16 ∧ count 8 vent = (if s.code = .p7 then 7 else 8)) → t.info.state = 2)
    (∃ t, exec (.coldReset o) s = .next t ∧ t.mem = [] ∧ t.groups = [] ∧ t.grids = [] ∧ t.teams = [] ∧ t.ops = [] ∧
      t.code = s.code ∧ t.fused = s.fused ∧ t.masterSet = false ∧
      (o.romOk = false → t.info = { State.reset.info with gen := s.info.gen, state := 3 } ∧ t.inRom = false) ∧
      (o.romOk = true → o.fwOk = false → t.info = { State.reset.info with gen := s.info.gen, state := 3 } ∧ t.inRom = true) ∧
      (o.romOk = true → o.fwOk = true → admits t)) ∧
    (s.inRom = true → s.info.state = 3 →
      ∃ t, exec (.firmwareImageReplacement o) s = .next t ∧
        (o.fwOk = false → t.info = { s.info with state := 3 } ∧ t.inRom = true) ∧ (o.fwOk = true → admits t))

/-- R22, R24, R25: a flit that its receiver expects is accepted: the receiver's time register rises to its stamp, and a time
message joins its inbox; a handshake token gives the sender credits, with which the lane sends what it holds, and frees the
replay copies that it acknowledges; a token that is due on a sleeping link starts its wake. -/
def Claims.FlitAndTokenResults : Prop :=
  ∀ (s : State) (d : DieId) (toDie : Bool) (ch : Channel) (l : Link) (x : Lane), s.link? d = some l →
    l.lane? toDie ch = some x →
    let others := fun (t : State) => ∀ e, e ≠ d → t.link? e = s.link? e
    (l.st = .sleep → ∀ ack credits stamp,
      ∃ t, exec (.handshakeToken d toDie ch ack credits stamp) s = .next t ∧ t = { s with links := t.links } ∧ others t ∧
        t.link? d = some { l with st := .waking, since := (s.time .caldera).value }) ∧
    (l.st = .active →
    (∀ f r m, x.inflight = f :: r → f.seq = x.expect → f.body = .time m →
      let now := max (s.time (receiverOf d toDie)).value f.stamp
      ∃ t l', exec (.flitDelivery d toDie ch .ok) s = .next t ∧ t = { s with links := t.links, times := t.times } ∧ others t ∧
        t.link? d = some l' ∧ l'.lane? toDie ch = some { x with inflight := r, expect := x.expect + 1 } ∧
        (t.time (receiverOf d toDie)).value = now ∧
        (t.time (receiverOf d toDie)).inbox =
          (s.time (receiverOf d toDie)).inbox ++ [(senderOf d toDie, now, m)] ∧
        (∀ e, e ≠ receiverOf d toDie → (t.time e).value = (s.time e).value) ∧
        (toDie = true → ∀ v, d = .vent v → ∀ e, e ≠ d → t.time e = s.time e)) ∧
    (∀ f r, x.inflight = f :: r →
      (∃ t l', exec (.flitDelivery d toDie ch .crcError) s = .next t ∧ t = { s with links := t.links } ∧ others t ∧
        t.link? d = some l' ∧
        l'.lane? toDie ch = some { x with inflight := x.replay.filter fun f => decide (x.expect ≤ f.seq) }) ∧
      ∃ t l', exec (.flitDelivery d toDie ch .exhausted) s = .next t ∧ t = { s with links := t.links } ∧ others t ∧
        t.link? d = some l' ∧ l'.st = .retrain ∧ l'.since = (s.time .caldera).value) ∧
    ∀ ack credits stamp, ack < x.expect → x.credits + credits + (x.nextSeq - x.expect) ≤ Config.flitCredits →
      stamp ≤ (s.time (receiverOf d toDie)).value →
      ∃ t l', exec (.handshakeToken d toDie ch ack credits stamp) s = .next t ∧
        t = { s with links := t.links, times := t.times } ∧ others t ∧ t.link? d = some l' ∧
        l'.lane? toDie ch =
          some (({ x with credits := x.credits + credits,
                          replay := x.replay.filter fun f => decide (ack < f.seq) } : Lane).sendHeld
            (t.time (senderOf d toDie)).value) ∧
        (t.time (senderOf d toDie)).value = max (s.time (senderOf d toDie)).value stamp)

/-- R25, R26, R27: an idle link sleeps; a woken link is active again within 4 µs and else retrains; a training attempt that
succeeds makes it active; the lanes of an active link send what was held; and after three that failed, 50 µs into RETRAIN, the die is declared dead: it leaves the device's
bit mask, and STATE READY becomes DEGRADED, while FAILED stays (log 94: the model's choice). -/
def Claims.LinkStateResults : Prop :=
  ∀ (s : State) (d : DieId) (l : Link), s.link? d = some l →
    let now := (s.time .caldera).value
    let becomes := fun (i : Instr) (m : Link) => ∃ t, exec i s = .next t ∧ t = { s with links := t.links } ∧
      t.link? d = some m ∧ ∀ e, e ≠ d → t.link? e = s.link? e
    let up : Link :=
      { l with st := .active, since := now, failed := 0,
               lanes := l.lanes.map fun x => x.sendHeld (s.time (senderOf d x.toDie)).value }
    (l.st = .active → s.linkBusy l = false → becomes (.linkIdleTimeout d) { l with st := .sleep, since := now }) ∧
    (l.st = .waking → now ≤ l.since + 64000 → s.devWrites = [] → becomes (.linkUp d) up) ∧
    (l.st = .retrain → s.devWrites = [] → becomes (.linkUp d) up ∧ becomes (.trainingAttemptEnd d true) up) ∧
    (l.st = .waking → l.since + 64000 < now → ∃ m, becomes (.wakeTimeout d) m ∧ m.st = .retrain ∧ m.since = now ∧ m.failed = 1) ∧
    (l.st = .retrain → l.failed + 1 < 3 ∨ now < l.since + 800000 →
      becomes (.trainingAttemptEnd d false) { l with failed := l.failed + 1 }) ∧
    (∀ n, n < 16 → d = .spring n → l.st = .retrain → 3 ≤ l.failed + 1 → l.since + 800000 ≤ now →
      ∃ t m, exec (.trainingAttemptEnd d false) s = .next t ∧ t = { s with links := t.links, info := t.info } ∧
        t.link? d = some m ∧ m.st = .dead ∧
        (∀ i, t.info.springs.getLsbD i = (s.info.springs.getLsbD i && !decide (i = n))) ∧
        t.info.vents = s.info.vents ∧ t.info.state = if s.info.state = 1 then 2 else s.info.state)

/-- R28, R31, R32: a tick that breaks no reported bound adds the increment to a die's register, modulo 2^64; 4 sync intervals without a Sync are HOLDOVER, in which the
bound grows by 1 unit for each 20,000, and a bound that saturates there is UNSYNC; the master's value is written once. That the bound is what
the tick must not break (log 9) and that the master's value may be any (log 93) is the model's choice. -/
def Claims.TimeRegisterResults : Prop :=
  ∀ (s : State) (d : DieId), hasTime d = true →
    let r := s.time d
    let now := r.value + (r.frac + r.inc) / 2 ^ 32
    let only := fun (t : State) => ∀ e, e ≠ d → t.time e = s.time e
    ((s.boundsHold = true → (s.onTime d TimeReg.tick).boundsHold = true) →
      ∃ t, exec (.timeTick d) s = .next t ∧ t = { s with times := t.times, teams := t.teams, parts := t.parts } ∧ only t ∧
      ((∀ x ∈ s.parts, x.next = none) → t.parts = s.parts) ∧ (t.time d).value = now % 2 ^ 64 ∧ (t.time d).frac = (r.frac + r.inc) % 2 ^ 32 ∧ (t.time d).cycles = r.cycles + 1 ∧
      (t.time d).inc = r.inc ∧ (t.time d).pkgState = r.pkgState ∧
      (t.time d).pkgBound = (if r.pkgState = 3 then
        min 0xFFFFFF (r.pkgBound + ((now - r.heldSince) / 20000 - (r.value - r.heldSince) / 20000)) else r.pkgBound)) ∧
    (∀ v, d = .vent v → (r.pkgState = 1 ∨ r.pkgState = 2) → r.lastSync + 4 * 16000 ≤ r.value →
      ∃ t, exec (.holdover d) s = .next t ∧ t = { s with times := t.times } ∧ only t ∧
        (t.time d).pkgState = 3 ∧ (t.time d).heldSince = r.value ∧ (t.time d).value = r.value) ∧
    (r.pkgState = 3 → 0xFFFFFF ≤ r.pkgBound →
      ∃ t, exec (.boundSaturation d) s = .next t ∧ t = { s with times := t.times } ∧ only t ∧ (t.time d).pkgState = 0) ∧
    ∀ x : W64, s.masterSet = false → s.nextGrid = 1 →
      ∃ t, exec (.masterTimeWrite x) s = .next t ∧ t = { s with times := t.times, masterSet := true } ∧
        (t.time .caldera).value = x.toNat ∧ t.masterSet = true ∧ (∀ e, e ≠ .caldera → (t.time e).value = (s.time e).value) ∧
        ∃ u, exec (.masterTimeWrite 0) t = .next u ∧ u = t

/-- R29, R30: the messages of the synchronisation. Caldera sends Sync and Follow_Up to every live Vent each microsecond; a
Vent keeps a Sync's arrival and asks for the link's delay; a request is answered in two steps, each Follow_Up with the reading at
which the message before it left; the delay is half of the round trip, from the reading at which the request left, less the
peer's turn-round; a Follow_Up sets the increment, within 500 parts per million of the nominal one, and a bound
that holds (log 9). That Caldera's own word is LOCKED with bound 0 is the model's choice (log 61). -/
def Claims.SynchronisationResults : Prop :=
  ∀ (s : State) (v : Nat) (l : Link) (x : Lane),
    let d : DieId := .vent v
    let r := s.time d
    let c := (s.time .caldera).value
    let bodies := fun (t : State) (toDie : Bool) => ((t.link? d).bind fun l => l.lane? toDie .timing).map
      fun x => x.inflight.map (·.body)
    (s.info.bootVents.Nodup → v ∈ s.liveVents → s.link? d = some l → l.st = .active → l.lane? true .timing = some x →
      x.waiting = [] → 2 ≤ x.credits → (s.time .caldera).lastSync + 16000 ≤ (s.time .caldera).value →
        ∃ t, exec .syncInterval s = .next t ∧ t = { s with links := t.links, times := t.times, ports := t.ports } ∧
          (t.time .caldera).pkgState = 2 ∧ (t.time .caldera).pkgBound = 0 ∧
          bodies t true = some (x.inflight.map (·.body) ++ [.time .sync, .time (.followUp (s.time .caldera).value)])) ∧
    (∀ p a rest, r.inbox = (p, a, .sync) :: rest →
      ∃ t, exec (.sync d false) s = .next t ∧ t = { s with links := t.links, times := t.times } ∧
        (t.time d).syncAt = some a ∧ (t.time d).lastSync = a ∧ (t.time d).inbox = rest ∧
        (t.time d).pkgState = (if r.pkgState = 2 then 2 else 1) ∧
        (s.link? d = some l → l.st = .active → l.lane? false .timing = some x → x.waiting = [] → 0 < x.credits →
          bodies t false = some (x.inflight.map (·.body) ++ [.time .pdelayReq]))) ∧
    (∀ p a rest, r.inbox = (p, a, .pdelayReq) :: rest → s.link? d = some l → l.st = .active →
      l.lane? false .timing = some x → x.waiting = [] → 2 ≤ x.credits →
        ∃ t, exec (.pdelayReq d none) s = .next t ∧ t = { s with links := t.links, times := t.times } ∧
          (t.time d).inbox = rest ∧
          bodies t false = some (x.inflight.map (·.body) ++ [.time (.pdelayResp a), .time (.pdelayRespFollowUp r.value)])) ∧
    (∀ p a n rest, r.inbox = (p, a, .pdelayResp n) :: rest →
      ∃ t, exec (.pdelayResp d none) s = .next t ∧ t = { s with times := t.times } ∧
        t.time d = { r with inbox := rest, peerRecv := n, respRecv := a, reqSent := (s.reqStamp d).getD r.reqSent }) ∧
    (∀ p a n rest, r.inbox = (p, a, .pdelayRespFollowUp n) :: rest →
      ∃ t, exec (.pdelayRespFollowUp d none) s = .next t ∧ t = { s with times := t.times } ∧
        t.time d = { r with inbox := rest, delay := ((r.respRecv - r.reqSent) - (n - r.peerRecv)) / 2 }) ∧
    ∀ p a n rest b, r.inbox = (p, a, .followUp n) :: rest → r.syncAt = some b →
      ∃ t, exec (.followUp d none) s = .next t ∧ t = { s with times := t.times, fresh := t.fresh } ∧
        (t.time d).syncAt = none ∧ (t.time d).inbox = rest ∧ (t.time d).value = r.value ∧
        16 * 2 ^ 32 - 16 * 2 ^ 32 / 2000 ≤ (t.time d).inc ∧ (t.time d).inc ≤ 16 * 2 ^ 32 + 16 * 2 ^ 32 / 2000 ∧
        (t.time d).pkgBound ≤ 0xFFFFFF ∧ min 0xFFFFFF ((r.value - c) + (c - r.value)) ≤ (t.time d).pkgBound ∧
        (t.time d).pkgState = if (t.time d).pkgBound ≤ 32 then 2 else 1

/-! ## Issue, halts and the group former (05, 10) -/

/-- R86, R87, R92, R102, R105, R106: an issue turn takes the ready group of the slot that has gone longest without issuing
and those that stand at the same word in its row; a starved entry is promoted; a group yields no longer when its turns are
over; 8,192 words after a halt became pending its group halts, and a halted group with nothing outstanding is saved, at a
safe point only the registers that the table names. Links that the reads of next headers and of that table need start to wake
(R25). -/
def Obligations.IssueTurnAndHaltResults : Prop :=
  ∀ (s : State) (c : CoreId) (n : Nat) (g : Group),
    (∃ t, exec (.issueTurn c n false) s = .next t ∧
      t = { s with groups := t.groups, issueQ := t.issueQ, turn := s.turn + 1, links := t.links } ∧
      (∃ ds, t.links = (s.wakeLinks ds).links ∧ ∀ d ∈ ds, ∃ h ∈ s.slotGroups c n, d ∈ s.headerDies h) ∧
      (s.readyGroups c n = [] → t.issueQ = s.issueQ) ∧
      (g ∈ s.readyGroups c n → (∀ h ∈ s.readyGroups c n, h ≠ g → g.lastTurn < h.lastTurn) →
        ∃ l, t.issueQ = s.issueQ ++ l ∧ g.key ∈ l ∧ ∀ k ∈ l, ∃ h ∈ s.readyGroups c n, h.key = k ∧ h.row = g.row ∧
          s.standsAt h = s.standsAt g) ∧
      ∀ k h, s.group? k = some h → ∃ r, t.group? k = some { h with run := r } ∧ (h.yields = false → r = h.run)) ∧
    (s.group? g.key = some g →
      let one := fun (i : Instr) (h : Group) => ∃ t, exec i s = .next t ∧ t = { s with groups := t.groups } ∧
        t.group? g.key = some h ∧ ∀ k, k ≠ g.key → t.group? k = s.group? k
      (∃ h, one (.starvationPromotion g.key) h ∧ { h with promo := g.promo } = g ∧
        ∀ a, a ∈ h.promo ↔ a ∈ g.promo ∨ ∃ e ∈ g.frontier, e.addr = a ∧ 1024 ≤ e.starve) ∧
      (g.run = .yielding 0 → one (.yieldExpiry g.key) { g with run := .running }) ∧
      (∀ w, g.halt = some w → 8192 ≤ w → g.run ≠ .parked → g.ended = false →
        one (.haltWordLimit g.key) { g with run := .halted, sret := none, clause := g.clause.map fun c => { c with isOpen := false } }) ∧
      (∀ w, g.run = .halted → g.cnt = ⟨0, 0, 0, 0⟩ → g.halt = some w →
        (g.clause.isSome = true ∨ 8192 ≤ w → one (.groupHaltComplete g.key) { g with halt := none }) ∧
        (∀ ds, s.safePoint g = .wait ds → exec (.groupHaltComplete g.key) s = .next (s.wakeLinks ds)) ∧
        (∀ v u, s.safePoint g = .live v u → ∃ t h, exec (.groupHaltComplete g.key) s = .next t ∧ TimesRise s t ∧
          t = { s with groups := t.groups, times := t.times } ∧ Becomes s t g h ∧ h.halt = none ∧
          (∀ r, h.sGet r = if r < u then g.sGet r else 0) ∧
          ∀ k th, g.live.getLsbD k = true → g.thread? k = some th → ∃ x, h.thread? k = some x ∧
            ∀ r, x.get r = if r < v then th.get r else 0)))

/-- R223, R224, R85: the former makes a group of a bin's first records, in their order from lane 0, with one entry at the
bin's resume address; bins are flushed when their oldest record is 256 cycles old or when no slot has a ready group; room is
held for the oldest bin that has waited too long; a group that waits for a seat takes one. -/
def Claims.GroupFormationResults : Prop :=
  ∀ (s : State) (c : CoreId),
    let x := s.core c
    let kept := fun (t : State) => t = { s with cores := t.cores } ∧ ∀ d, d ≠ c → t.core d = s.core d
    (∀ b, (∀ g ∈ s.groups, s.wantsSeat g = false) → (s.noteWaits c).binToForm c = some b → BinsDistinct x.bins →
      s.group? s.nextKey = none →
      let w := (s.binShape c b).1
      ∃ t h, exec (.groupFormation c) s = .next t ∧ MemorySame s t ∧ t.nextKey = s.nextKey + 1 ∧
        t.group? s.nextKey = some h ∧ (∀ k, k ≠ s.nextKey → t.group? k = s.group? k) ∧
        h.core = c ∧ h.grid = b.grid ∧ h.role = b.role ∧ h.supervisor = b.sup ∧ h.run = .running ∧ h.cnt = ⟨0, 0, 0, 0⟩ ∧
        (∀ i, h.thread? i = ((b.recs.take w)[i]?).map (·.thread)) ∧
        (∃ a, h.frontier = [⟨b.prio, a, h.live, 0⟩] ∧ ∀ y, s.grid? b.grid = some y → isService c = false →
          a = y.lrec.cb + b.resume.setWidth 64) ∧
        recordsOf (t.core c).bins b = (recordsOf x.bins b).drop w ∧
        ∀ y, b.matches y = false → recordsOf (t.core c).bins y = recordsOf x.bins y) ∧
    (∀ g, s.groups.find? (fun h => s.wantsSeat h && s.seatsHere c h) = some g →
      ∃ t, exec (.groupFormation c) s = .next t ∧
        t.group? g.key = some { g with seat := s.seatFor c g.width, lastTurn := s.turn } ∧
        ∀ k, k ≠ g.key → t.group? k = s.group? k) ∧
    (∃ t, exec (.binAgeFlush c) s = .next t ∧ kept t ∧
      let aged := fun (b : Bin) => if b.oldest + 256 ≤ s.cyclesOf c then { b with flushed := true } else b
      t.core c = { x with bins := x.bins.map aged }) ∧
    ((∀ n, n < 4 → s.readyGroups c n = []) →
      ∃ t, exec (.binIdleFlush c) s = .next t ∧ kept t ∧
        t.core c = { x with bins := x.bins.map fun b => { b with flushed := true } }) ∧
    (∀ b ∈ x.bins, s.binReady c b = true → s.overdue c b = true →
      ∃ t h, exec (.binRoomReserve c) s = .next t ∧ kept t ∧ h ∈ x.bins ∧ s.binReady c h = true ∧ s.overdue c h = true ∧
        h.oldest ≤ b.oldest ∧ t.core c = { x with bins := x.bins.map fun y => { y with room := y.matches h } })

/-- R100: an ended group with no load outstanding leaves; where other operations are outstanding a tracker entry counts
them, if its core has one free, and else the group waits. -/
def Claims.GroupRetirementResult : Prop :=
  ∀ (s : State) (g : Group), s.group? g.key = some g → g.ended = true → g.cnt.ld = 0 →
    let n := g.cnt.st + g.cnt.cp + g.cnt.tl
    let gone := fun (t : State) => t.group? g.key = none ∧ (∀ k, k ≠ g.key → t.group? k = s.group? k) ∧
      t = { s with groups := t.groups, trackers := t.trackers }
    (n = 0 → ∃ t, exec (.groupRetirement g.key) s = .next t ∧ gone t ∧ t.trackers = s.trackers) ∧
    (n ≠ 0 → (s.trackers.filter fun x => x.core == g.core).length < 64 →
      ∃ t k, exec (.groupRetirement g.key) s = .next t ∧ gone t ∧ t.trackers = s.trackers ++ [⟨g.core, g.key, k, n⟩]) ∧
    (n ≠ 0 → 64 ≤ (s.trackers.filter fun x => x.core == g.core).length → exec (.groupRetirement g.key) s = .next s)

/-! ## Teams, grids and the command links (05, 10, 14) -/

/-- R83, R101, R148, R300, R301: a team that may be placed takes its core: it is empty, its threads stand as records in a bin for
each role, the lines of its die position's window stand pinned on its Vent, and the grid counts it placed; the teams of a
co-resident grid are placed all at once; a team that is done leaves and its grid counts it; a grid that has waited 1 ms blocks; a
held grid starts on a Vent whose register has reached the instant. -/
def Claims.TeamResults : Prop :=
  ∀ (s : State) (x : Grid), s.grid? x.key = some x →
    (∀ n v c k, x.lrec.cor = false → s.canPlace x n v c k = true → s.orderOk x v c k = true →
      s.team? s.nextKey = none → (∀ d ∈ s.windowDies x (x.posOf n).1 v, s.linkFlows d = true) →
      ∃ t T, exec (.teamPlacement x.key n v c k) s = .next t ∧ MemorySame s t ∧ TimesRise s t ∧ t.team? s.nextKey = some T ∧
        (x.lrec.dws ≠ 0 → x.dieBegun (x.posOf n).1 = false → ∀ m ∈ s.windowLines x (x.posOf n).1,
          ∃ l ∈ t.l2, l.vent = v ∧ l.line = m ∧ l.pinned.isSome = true) ∧
        T.grid = x.key ∧ T.num = n ∧ T.core = .vent v c k ∧ T.scratch = [] ∧ T.w = [] ∧ T.a = [] ∧ T.ended = 0 ∧
        T.barrier = ⟨0, 0, x.lrec.threads⟩ ∧ T.dead = none ∧
        t.grid? x.key = some { x with placed := x.placed ++ [n] } ∧
        (∀ o, o ≠ .vent v c k → t.core o = s.core o) ∧
        ∃ l, (t.core (.vent v c k)).bins = (s.core (.vent v c k)).bins ++ l ∧ l.length = x.lrec.roles.length ∧
          ∀ b ∈ l, b.grid = x.key ∧ b.flushed = true ∧ b.team = some s.nextKey ∧
            ∀ r ∈ b.recs, r.thread.team = s.nextKey ∧ r.thread.seed = x.lrec.seed ∧ r.thread.splim = x.lrec.splim) ∧
    (∀ n v c k u, x.lrec.cor = true → x.waits = true → s.placeAll x = some u →
      (∀ e ∈ x.clusters, (∀ j, j < 16 → s.orderOk x e.2.2.1 e.2.2.2 j = true) ∧
        ∀ d ∈ s.windowDies x e.1 e.2.2.1, s.linkFlows d = true) →
      ∃ t y, exec (.teamPlacement x.key n v c k) s = .next t ∧ MemorySame s t ∧ TimesRise s t ∧ t.grid? x.key = some y ∧
        y.placed = x.placed ++ List.range x.lrec.teams ∧ { y with placed := x.placed } = x) ∧
    (∀ T, s.team? T.key = some T → T.grid = x.key → s.teamDone T = true → T.dead = none → T.chargeOf = T.reported →
      ∃ t, exec (.teamComplete T.key) s = .next t ∧
        t = { s with teams := t.teams, grids := t.grids, preempts := t.preempts } ∧
        t.team? T.key = none ∧ (∀ k, k ≠ T.key → t.team? k = s.team? k) ∧
        t.grid? x.key = some { x with completed := x.completed ++ [T.num] }) ∧
    (x.waits = true → x.waitSince + 16000000 ≤ s.now →
      (∀ y ∈ s.grids, y.part = x.part → y.level = x.level → y.waits = true → x.key ≤ y.key) →
      ∃ t, exec (.placementWaitTimeout x.key) s = .next t ∧
        t = { s with grids := t.grids, preempts := t.preempts, nextKey := t.nextKey } ∧
        (s.cpRequests x = [] → t.preempts = s.preempts ∧ t.nextKey = s.nextKey) ∧
        t.grid? x.key = some { x with blocking := true } ∧ ∀ k, k ≠ x.key → t.grid? k = s.grid? k) ∧
    (∀ v i, x.held = some i → i ≤ (s.time (.vent v)).value → x.started.contains v = false →
      ∃ t, exec (.launchAtStart x.key v) s = .next t ∧ t = { s with grids := t.grids } ∧
        t.grid? x.key = some { x with started := x.started ++ [v] } ∧ ∀ k, k ≠ x.key → t.grid? k = s.grid? k)

/-- R104, R296, R299, R306, R308: a grid whose teams are all complete, a child's or a queue's, writes its completion or DONE word,
its identity over its cause, and leaves; a child launch that passes its checks becomes a grid, and one that was killed or is
refused writes its completion word and is gone; a leaf controller reports a team's charge over its
command link, and the message that is next in order is consumed and acts. -/
def Claims.GridAndCommandLinkResults : Prop :=
  ∀ (s : State),
    (∀ x key : Nat, ∀ y : Grid, s.grid? x = some y → y.key = x → s.gridDone y = true → y.launch = none →
      (y.parent = none → ∀ q, y.queue = some q → (s.queue q).closing = none) →
      (∀ l ∈ s.pinsEnding x, s.unpinLeaves l.line = false) → y.done ≠ 0 → s.cpPlace y.part y.ctx y.done.toNat 8 .write = .ok key →
      s.mayWrite (s.homeVent (lineOf key)) (lineOf key) = true →
        ∃ t, exec (.gridComplete x) s = .next t ∧ t.grid? x = none ∧ (∀ k, k ≠ x → t.grid? k = s.grid? k) ∧
          Stored s t (y.part == 127) key (bytesOf64 (pairOf (BitVec.ofNat 32 (y.cause.getD 0 % 256)) y.id)) ∧
          (y.parent = none → ∀ q, y.queue = some q →
            (t.queue q).running = (s.queue q).running.filter fun r => r != .grid x)) ∧
    (∀ v d c r cause key, s.scheds.find? (fun d => d.vent == v) = some d → d.children = c :: r →
      (c.killed = true ∧ cause = Cause.killed) ∨
        (c.killed = false ∧ cause = Cause.translation ∧ ∃ code, s.checkLaunch c.part c.ctx c.lrec = .refused code) →
      c.done ≠ 0 → s.cpPlace c.part c.ctx c.done.toNat 8 .write = .ok key →
      s.mayWrite (s.homeVent (lineOf key)) (lineOf key) = true →
        ∃ t, exec (.childLaunch v) s = .next t ∧ t.grids = s.grids ∧ childrenOf t v = r ∧
          Stored s t (c.part == 127) key (bytesOf64 (pairOf (BitVec.ofNat 32 cause) c.id))) ∧
    (∀ v d c r l, s.scheds.find? (fun d => d.vent == v) = some d → d.children = c :: r → c.killed = false →
      s.checkLaunch c.part c.ctx c.lrec = .ok l → s.grid? s.nextKey = none →
        ∃ t y, exec (.childLaunch v) s = .next t ∧ MemorySame s t ∧ childrenOf t v = r ∧ t.grid? s.nextKey = some y ∧
          y.id = c.id ∧ y.part = c.part ∧ y.ctx = c.ctx ∧ y.depth = c.depth ∧ y.parent = some c.parent ∧ y.lrec = l ∧
          y.done = c.done ∧ y.sup = c.sup ∧ y.placed = [] ∧ y.cause = none ∧ ∀ k, k ≠ s.nextKey → t.grid? k = s.grid? k) ∧
    (∀ v c j T y, j < 16 → s.team? T.key = some T → T.core = .vent v c j → s.grid? T.grid = some y →
      (∀ U ∈ s.teams, (∃ i, U.core = .vent v c i) → U = T) → T.reported < T.chargeOf →
        ∃ t l, exec (.chargeReport v c) s = .next t ∧ t = { s with teams := t.teams, cmdLinks := t.cmdLinks, links := t.links } ∧
          t.team? T.key = some { T with reported := T.chargeOf } ∧
          (t.cmdLinks.find? fun l => l.vent == v && l.cluster == c && l.toLeaf == false) = some l ∧
          l.msgs.getLast? = some (l.nextSeq - 1, .charge y.queue y.part (T.chargeOf - T.reported))) ∧
    ∀ v c toLeaf l n m rest, s.cmdLinks.find? (fun l => l.vent == v && l.cluster == c && l.toLeaf == toLeaf) = some l →
      l.msgs = (n, m) :: rest → l.expect = n → s.linkFlows .caldera = true → s.linkFlows (.vent v) = true →
      s.linkFlows (s.schedDie v) = true →
        ∃ t, exec (.commandLinkMessage v c toLeaf) s = .next t ∧ MemorySame s t ∧
          (∃ l', (t.cmdLinks.find? fun l => l.vent == v && l.cluster == c && l.toLeaf == toLeaf) = some l' ∧
            l'.msgs = rest ∧ l'.expect = n + 1) ∧
          (∀ g d k y, m = .place g d k → s.grid? g = some y → t.grid? g = some { y with ready := y.ready ++ [(d, k)] }) ∧
          (∀ q p a, m = .charge (some q) p a → (t.queue q).deficit = (s.queue q).deficit - a ∧
            ∀ y ∈ s.parts, y.num = p → ∃ z ∈ t.parts, z.num = p ∧ z.charged = y.charged + a)

/-! ## Engines (11 to 13) -/

/-- R60, R236, R245, R248, R251, R254, R256, R260, R267: the matrix commands in the engine, in their group's order: TZERO clears its
tile; MMA gives each cell the chunked sum of C's cell and the products of a row and a column (R72 and R73 decide for an inactive
row too, log 112); TLD loads its elements, in rows or in digit-reversed order, converted where they are BF16; BFLY writes its
stage; TST and EPI store theirs in order, a poisoned tile ending the team before a page that fails is met (log 110); each then
ends. -/
def Claims.MatrixCommandResults : Prop :=
  ∀ (s : State) (o : Op) (T : Team) (ok : Bool), EngineTurn s o T →
    let old := fun (n e : Nat) => T.tileGet n e
    (∀ n, n < 16 → o.kind = .matrix (.tzero n) →
      ∃ t, exec (.matrixCommandComplete o.id ok) s = .next t ∧ Ended s t o ∧ TileIs s t T n (fun _ => 0) false) ∧
    (∀ dt ct zero at_ bt boff rows, dt < 16 → ct < 16 → o.kind = .matrix (.mma dt ct zero at_ bt boff rows) →
      (zero = true ∨ T.poison.getLsbD ct = false) → s.placeBad (.wb o.team boff) (panelSize at_) = false →
      let w := s.placeBytes (.wb o.team boff) (panelSize at_)
      let a := fun (i k : Nat) => aElem at_ (((rows.getD i []).take 16).flatMap bytesOfWord) ((rows.getD i []).getD 16 0) k
      let b := fun (k j : Nat) => bElem bt w k j
      ∃ t, exec (.matrixCommandComplete o.id ok) s = .next t ∧ Ended s t o ∧
        TileIs s t T dt (fun e => chunkSum (if zero then 0 else old ct e)
          ((List.range (if at_ = 0 then 32 else if at_ = 3 then 128 else 64)).map fun k =>
            Ex.mul (a (e / 64) k) (b k (e % 64)))) !ok) ∧
    (∀ m ps, o.kind = .matrix (.move m) → m.store = false → m.tile < 16 →
      let z := if m.bf16 then 2 else 4
      let n := radixN m.radix
      let count := if m.dr then 2 * (m.batch * n) else 64 * m.rows
      s.elemSpan o .read z ((List.range count).map fun k =>
        if m.dr then (m.addr.toNat + k / 2 / n * m.stride + 2 * z * digitRev (k / 2 % n) m.radix + k % 2 * z) % 2 ^ 64
        else (m.addr.toNat + k / 64 * m.stride + k % 64 * z) % 2 ^ 64) = .ok ps → s.spanMeets o true ps = .ok → UnmixedAll s o ps →
      ∃ t, exec (.matrixCommandComplete o.id ok) s = .next t ∧ Ended s t o ∧
        TileIs s t T m.tile
          (fun e =>
            let x := wordOfBytes (((ps[e]?).map fun x => s.readPlace o x.1 x.2).getD [])
            if count ≤ e then old m.tile e else if m.bf16 then widen bf16 x else x)
          (if count = 4096 then false else T.poison.getLsbD m.tile)) ∧
    (∀ m ps, o.kind = .matrix (.move m) → m.store = true → m.bf16 = false → T.poison.getLsbD m.tile = false → m.tile < 16 →
      let n := radixN m.radix
      let count := if m.dr then 2 * (m.batch * n) else 64 * m.rows
      s.elemSpan o .write 4 ((List.range count).map fun k =>
        if m.dr then (m.addr.toNat + k / 2 / n * m.stride + 8 * digitRev (k / 2 % n) m.radix + k % 2 * 4) % 2 ^ 64
        else (m.addr.toNat + k / 64 * m.stride + k % 64 * 4) % 2 ^ 64) = .ok ps → s.spanMeets o false ps = .ok → UnmixedAll s o ps →
      (∀ x ∈ ps, s.mayWrite (s.ventFor o.core (lineOf x.1.off)) (lineOf x.1.off) = true) →
      ∃ t, exec (.matrixCommandComplete o.id ok) s = .next t ∧ Ended s t o ∧ t.teams = s.teams ∧
        StoresAll s t (ofRoot s o) ps ((List.range count).map fun k => bytesOfWord (old m.tile k))) ∧
    (∀ e ps, o.kind = .matrix (.epi e) → T.poison.getLsbD e.tile = false → e.tile < 16 →
      s.elemSpan o .write ((epiFmt e.out).bits / 8) ((List.range (64 * e.rows)).map fun k =>
        (e.daddr.toNat + k / 64 * e.dstride + k % 64 * ((epiFmt e.out).bits / 8)) % 2 ^ 64) = .ok ps →
      s.spanMeets o false ps = .ok → UnmixedAll s o ps →
      (∀ x ∈ ps, s.mayWrite (s.ventFor o.core (lineOf x.1.off)) (lineOf x.1.off) = true) →
      ∃ t, exec (.matrixCommandComplete o.id ok) s = .next t ∧ Ended s t o ∧ t.teams = s.teams ∧
        StoresAll s t (ofRoot s o) ps ((List.range (64 * e.rows)).map fun k =>
          bytesOfNat ((epiFmt e.out).bits / 8) (epiCell e (old e.tile k) k))) ∧
    (∀ b, o.kind = .matrix (.bfly b) → b.srct < 16 → b.dt < 16 → T.poison.getLsbD b.srct = false →
      ∃ t, exec (.matrixCommandComplete o.id ok) s = .next t ∧ Ended s t o ∧
        TileIs s t T b.dt
          (fun e => if b.batch * radixN b.radix ≤ e / 2 then old b.dt e
            else if e % 2 = 0 then (bflyElem b (old b.srct) (e / 2)).1 else (bflyElem b (old b.srct) (e / 2)).2)
          (if ok then (if b.batch * radixN b.radix = 2048 ∧ b.dt ≠ b.srct then false else T.poison.getLsbD b.dt) else true))

/-- R282, R284, R286: GATHER puts the rows that the index list names into the A buffer, padded; DIST writes each row's score
and identity; TOPK writes the best pairs of its list and its input in order, pairs of one key in the order in which they stood,
the list's before the input's, and how many they are. -/
def Claims.GatherCommandResults : Prop :=
  ∀ (s : State) (o : Op) (T : Team), EngineTurn s o T →
    let words := fun (off n : Nat) => (List.range n).map fun i => natOfBytes (s.placeBytes (.sc o.team (off + 4 * i)) 4)
    (∀ tb ts nr il n f d ao rows, o.kind = .gather (.gather tb ts nr il n f d ao) →
      s.placeBad (.sc o.team il.toNat) (4 * n) = false →
      s.rowSpans o tb ts nr (d * elemSize f) (words il.toNat n) = .ok rows → s.spanMeets o true rows.flatten = .ok →
      UnmixedAll s o rows.flatten →
      ∃ t, exec (.gatherCommandComplete o.id) s = .next t ∧ Ended s t o ∧ MemorySame s t ∧
        StoredA s t o.team ao (rows.flatMap fun r =>
          ((r.flatMap fun x => s.readPlace o x.1 x.2) ++ List.replicate (rowBytes f d) 0).take (rowBytes f d))) ∧
    (∀ qo ro out il nr ib n f m d, o.kind = .gather (.dist qo ro out il nr ib n f m d) →
      s.placeBad (.sc o.team il.toNat) (4 * n) = false →
      (∀ r, r < n → (words il.toNat n).getD r 0 < nr → s.placeBad (.ab o.team qo) (d * elemSize f) = false ∧
        s.placeBad (.ab o.team (ro + r * rowBytes f d)) (d * elemSize f) = false) →
      let row := fun (a : Nat) => rowElems f d (s.placeBytes (.ab o.team a) (d * elemSize f))
      let pair := fun (r i : Nat) =>
        if nr ≤ i then bytesOfWord 0x7FC00000 ++ bytesOfWord 0xFFFFFFFF
        else bytesOfWord (distScore m (row qo) (row (ro + r * rowBytes f d))) ++ bytesOfWord (ib + BitVec.ofNat 32 i)
      ∃ t, exec (.gatherCommandComplete o.id) s = .next t ∧ Ended s t o ∧ MemorySame s t ∧
        StoredSc s t o.team out.toNat ((List.range n).flatMap fun r => pair r ((words il.toNat n).getD r 0))) ∧
    (∀ l i cap n, o.kind = .gather (.topk l i cap n) →
      let list := s.placeBytes (.sc o.team l.toNat) (8 + 8 * cap)
      s.placeBad (.sc o.team l.toNat) 8 = false →
      s.placeBad (.sc o.team (l.toNat + 8)) (8 * min (fld list 0 1) cap) = false →
      s.placeBad (.sc o.team i.toNat) (8 * n) = false →
      let all := (pairsAt cap (list.drop 8)).take (min (fld list 0 1) cap) ++
        (pairsAt n (s.placeBytes (.sc o.team i.toNat) (8 * n))).filter fun x => x.2 != 0xFFFFFFFF
      ∃ (t : State) (best rest : List (W32 × W32)), exec (.gatherCommandComplete o.id) s = .next t ∧ Ended s t o ∧ MemorySame s t ∧
        StoredSc s t o.team l.toNat (bytesOfNat 8 best.length ++ best.flatMap fun x => bytesOfWord x.1 ++ bytesOfWord x.2) ∧
        best.length = min all.length cap ∧ (best ++ rest).Perm all ∧ (best ++ rest).Pairwise PairOrder ∧
        ∀ x, (best ++ rest).filter (sameKey x) = all.filter (sameKey x))

/-- R216, R275, R279, R280, R348, R349, R351: a position of a CPY that is due moves its element and counts it into its sync word; a byte of a
BCPY likewise; a copy of which nothing is left completes; one that met a fault, whose storage controller reports an error, or
that is 4 s old as a GET, ends and terminates its team, with a lost line's own cause where it met one (log 29: the model's
choice). -/
def Obligations.CopyEventResults : Prop :=
  ∀ (s : State) (o : Op), s.op? o.id = some o → (∀ q ∈ s.ops, q.id = o.id → q = o) → (∀ l ∈ s.links, l.st = .active) →
    (∀ z x n a k f, o.kind = .cpy z → o.accs = [x] → x.src = some (.sc n a) → x.loc = .sc n k → x.sync = some (.sc n f) →
      s.placeBad (.sc n a) x.len = false → s.placeBad (.sc n k) x.len = false → s.placeBad (.sc n f) 8 = false →
      (s.team? n).isSome = true → (k + x.len ≤ f ∨ f + 8 ≤ k) →
      let w : W64 := BitVec.ofNat 64 (natOfBytes (s.placeBytes (.sc n f) 8))
      let target := w.toNat / 2 ^ 40
      let count := w.toNat / 2 ^ 16 % 2 ^ 24 + x.len
      let new := if target = 0 then count % 2 ^ 24 * 2 ^ 16 + w.toNat % 2 ^ 16
        else target * 2 ^ 40 + count % target * 2 ^ 16 + (w.toNat + count / target) % 2 ^ 16
      ∃ t m, exec (.copyTransfer o.id [x.n] []) s = .next t ∧ MemorySame s t ∧ t.groups = s.groups ∧
        t.op? o.id = some { o with accs := [] } ∧
        StoredSc s m n k (s.placeBytes (.sc n a) x.len) ∧ StoredSc m t n f (bytesOf64 (BitVec.ofNat 64 new))) ∧
    (∀ b i n, o.kind = .bulk b → b.isGet = false → b.ssp = 2 → b.dsp = 2 → b.sync = false → b.fault = none →
      i < b.width * b.height → b.done.testBit i = false → n = o.team →
      let src := (b.src.toNat + (i / b.width * b.spitch + i % b.width)) % 2 ^ 32
      let dst := (b.dst.toNat + (i / b.width * b.dpitch + i % b.width)) % 2 ^ 32
      s.scPlace (teamThread n) src 1 = some (.sc n src) → s.scPlace (teamThread n) dst 1 = some (.sc n dst) →
      s.placeBad (.sc n src) 1 = false → s.placeBad (.sc n dst) 1 = false → (s.team? n).isSome = true →
      ∃ t, exec (.copyTransfer o.id [i] []) s = .next t ∧ MemorySame s t ∧ t.groups = s.groups ∧
        t.op? o.id = some { o with kind := .bulk { b with done := b.done ||| 2 ^ i } } ∧
        StoredSc s t n dst (s.placeBytes (.sc n src) 1)) ∧
    ((∀ z, o.kind = .cpy z → o.accs = [] →
        ∃ t, exec (.copyComplete o.id) s = .next t ∧ Ended s t o ∧ MemorySame s t ∧ t.teams = s.teams) ∧
      ∀ b, o.kind = .bulk b → b.fault = none → b.ring = false → (∀ i, i < b.width * b.height → b.done.testBit i = true) →
        ∃ t, exec (.copyComplete o.id) s = .next t ∧ Ended s t o ∧ MemorySame s t ∧ t.teams = s.teams) ∧
    (∀ b T y, o.kind = .bulk b → b.ring = false → s.team? o.team = some T → isService T.core = false →
      s.grid? T.grid = some y → y.cause = none →
      (∀ c a, b.fault = some (c, a) → c ≠ 0x100 → ∃ t, exec (.copyFault o.id false) s = .next t ∧
        GridEnds s t y T (if c ∈ [0x11, 0x12, 0x13, 0x14] then c else 0x10)) ∧
      (b.fault = none → b.isGet = true → (∃ i, i < b.width * b.height ∧ b.done.testBit i = false) →
        ∃ t, exec (.copyFault o.id true) s = .next t ∧ GridEnds s t y T Cause.copyFault) ∧
      (b.fault = none → b.isGet = true → o.stamp + 64000000000 ≤ (s.time (dieOf o.core)).value →
        ∃ t, exec (.getTimeout o.id) s = .next t ∧ GridEnds s t y T Cause.copyFault))

/-! ## Faults and service cores (16) -/

/-- R340, R342, R344, R351, R324: a fault after issue, once its operation has left its counter, parks its group before its next word; a record is posted to the slot
that is next in its partition's ring, if that is FREE, and the ring's count advances; a mismatch of a service core halts it,
one of the command processor loses nothing, one of the root monitor fails the device; KEYNEW ends with its status, which is decided then (log 38: the model's choice). -/
def Obligations.FaultAndRingResults : Prop :=
  ∀ (s : State),
    (∀ n f g c, s.lateFaults[n]? = some f → s.lateDue f = true → s.group? f.group = some g → g.run ≠ .parked → g.ended = false →
      isService g.core = false → g.clause = some c →
      ∃ t, exec (.faultAfterIssue n) s = .next t ∧ MemorySame s t ∧ t.group? f.group = some (parkedAs g s.nextKey) ∧
        (∀ k, k ≠ f.group → t.group? k = s.group? k) ∧ t.lateFaults = s.lateFaults.erase f ∧
        ∀ y ∈ s.parts, y.num = (s.whoOf g).part → ∃ z ∈ t.parts, z.num = y.num ∧ ∃ r ∈ z.posts,
          r.kind = 3 ∧ r.cause = f.cause ∧ r.fmask = f.fmask ∧ r.faddr = f.faddr ∧ r.parking = some s.nextKey) ∧
    (∀ k x r l, s.part? k = some x → x.posts = r :: l → r.kind ≠ 1 →
      let slot := x.seq % 2 ^ x.sringn.toNat
      let a := x.sring.toNat + 8192 * (slot + 1)
      s.inReach k a 8192 = true → s.inReach k x.sring.toNat 8 = true → s.readBar cpCore (a + 7) 1 = none →
      s.readByte (a + 7) = 0 → x.sring.toNat + 8 ≤ a → s.devWrites = [] →
      AloneAt s a 4160 → AloneAt s x.sring.toNat 8 → KeyKept s false a 4160 → KeyKept s false x.sring.toNat 8 →
      ∃ t y, exec (.ringPost k) s = .next t ∧ t.part? k = some y ∧ y.posts = l ∧ y.seq = x.seq + 1 ∧
        t.readNat a 4 = x.seq % 2 ^ 32 ∧ t.readByte (a + 7) = BitVec.ofNat 8 r.state ∧
        t.readNat (a + 4) 1 = r.kind % 256 ∧ t.readNat (a + 5) 1 = r.cause % 256 ∧ t.readNat (a + 8) 8 = r.active.toNat ∧
        t.readNat (a + 16) 8 = r.fmask.toNat ∧ t.readNat (a + 24) 8 = r.faddr.toNat ∧
        t.readNat x.sring.toNat 8 = (x.seq + 1) % 2 ^ 64 ∧
        ∀ b, (b < a ∨ a + 8192 ≤ b) → (b < x.sring.toNat ∨ x.sring.toNat + 8 ≤ b) → t.readByte b = s.readByte b) ∧
    (∀ k, ∃ t, exec (.lockstepMismatchServiceCore k) s = .next t ∧ HaltsService s t k) ∧
    exec .lockstepMismatchCommandProcessor s = .next s ∧
    exec .lockstepMismatchRootMonitor s = .next { s with info := { s.info with state := 3 } } ∧
    (∀ k x, s.part? k = some x → x.status = 1 → x.halted = true → k < 72 → s.group? s.nextKey = none →
      s.group? (s.nextKey + 1) = none →
      let key := if s.teams.any fun T => T.core == .service k then s.nextKey else s.nextKey + 1
      let cb : W64 := BitVec.ofNat 64 (x.desc.kimg + 192)
      (s.imageOk k x.desc = true → ∃ t h, exec (.kernelEntry k) s = .next t ∧ MemorySame s t ∧
        t.part? k = some { x with cb := cb, halted := false } ∧ t.group? key = some h ∧
        h.core = .service k ∧ h.supervisor = true ∧ h.live = 1 ∧ h.run = .running ∧
        ∃ p, h.frontier = [⟨p, cb + BitVec.ofNat 64 (s.readNat (x.desc.kimg + 8) 4), 1, 0⟩]) ∧
      (s.imageOk k x.desc = false → ∃ t, exec (.kernelEntry k) s = .next t ∧ t = { s with parts := t.parts } ∧
        t.part? k = some { x with status := 2 })) ∧
    ∀ o p sd n k g, s.op? o.id = some o → o.kind = .keynew p sd n → o.core = .service k → s.group? o.group = some g →
      ∃ t h, exec (.keynewComplete o.id) s = .next t ∧ (t.ops = s.ops.filter fun q => q.id != o.id) ∧
        t.group? o.group = some h ∧ WroteS sd (s.keynewStatus k p) g h ∧
        h.cnt = g.cnt.set o.ctr (g.cnt.get o.ctr - 1) ∧ h.lanes = g.lanes ∧
        (s.keynewStatus k p ≠ 0 → MemorySame s t ∧ t.parts = s.parts) ∧
        (∀ x, s.keynewStatus k p = 0 → s.part? p = some x → (s.parts.map (·.num)).Nodup → (∃ e ∈ s.keys, e.1 = x.keyId) →
          ∃ id, s.freeKeyId = some id ∧ t.part? p = some { x with keyId := id, keySer := s.fresh + 1 } ∧ (∃ e ∈ t.keys, e.1 = id) ∧
          ∀ a, if inRanges (s.keyRanges p) a then t.readByte a = Config.freeByte (s.fresh + 1) a
            else t.readByte a = s.readByte a)

/-! ## Queues and their commands (14) -/

/-- R287 to R290, R322, R330: a queue opens with a descriptor that passes its checks, ACTIVE at the index its watched line
holds, and is in ERROR with a code otherwise, and one whose reads have to wait stands by, the queue as a CLOSED one (log 46: the
model's choice); it stops, restarts from STOPPED or
ERROR, and closes when nothing that it started is left; a reset is a close and an open; a stop or a restart of a virtual device
acts on each of its queues. -/
def Obligations.QueueContextResults : Prop :=
  ∀ (s : State) (q p : Nat) (a : W64),
    let x := s.queue q
    (x.status = 0 → x.opening = none →
      (∀ d m w, s.openCheck p a = .ok d m w →
        ∃ t, exec (.queueOpen q p a) s = .next t ∧ (t.queue q).status = 1 ∧ (t.queue q).desc = some d ∧
          (t.queue q).ridx = w ∧ (t.queue q).widx = w ∧ (t.queue q).running = [] ∧ (t.queue q).after = none ∧
          (∃ e ∈ t.monitors, e.entry = d.ment ∧ e.held = true ∧ e.key = m) ∧ ∀ n, n ≠ q → t.queue n = s.queue n) ∧
      (∀ c, s.openCheck p a = .err c →
        ∃ t, exec (.queueOpen q p a) s = .next t ∧ t = { s with queues := t.queues } ∧
          t.queue q = { Queue.closed q with status := 3, code := c, gens := x.gens } ∧ ∀ n, n ≠ q → t.queue n = s.queue n) ∧
      (∀ ds, s.openCheck p a = .wait ds →
        ∃ t, exec (.queueOpen q p a) s = .next t ∧ t = { s with queues := t.queues, links := t.links } ∧
          t.queue q = { x with opening := some (p, a) } ∧ ∀ n, n ≠ q → t.queue n = s.queue n) ∧
      ((s.part? p).map (·.status) ≠ some 1 → s.openCheck p a = .err 0x0D)) ∧
    (∀ d c key vd, x.desc = some d → s.queueCtx d = some c → s.cpPlace d.part c d.ridxa.toNat 16 .write = .ok key →
      x.closing = none → s.commanded q vd = [q] →
      let shows := fun (t : State) (st : Nat) =>
        DeviceWrites s t (128 + q) key (bytesOf64 x.ridx ++ bytesOfNat 8 (st * 2 ^ 56)) ∧ ∀ n, n ≠ q → t.queue n = s.queue n
      (x.status = 1 ∨ x.status = 3 → ∃ t, exec (.queueStop ⟨q, vd⟩) s = .next t ∧ shows t 2 ∧ (t.queue q).status = 2 ∧
        (t.queue q).code = 0 ∧ (t.queue q).running = x.running ∧ (t.queue q).ridx = x.ridx ∧ (t.queue q).desc = some d) ∧
      (x.status = 2 ∨ x.status = 3 → ∃ t, exec (.queueRestart ⟨q, vd⟩) s = .next t ∧ shows t 1 ∧ (t.queue q).status = 1 ∧
        (t.queue q).code = 0 ∧ (t.queue q).running = x.running ∧ (t.queue q).ridx = x.ridx ∧ (t.queue q).desc = some d) ∧
      (x.status ≠ 0 → x.running = [] → s.queueGrids q = [] → (∀ l ∈ s.launches, l.queue ≠ q) →
        ∃ t, exec (.queueClose ⟨q, vd⟩) s = .next t ∧ shows t 0 ∧ t.queue q = { Queue.closed q with gens := x.gens } ∧
          ((∀ y ∈ s.queues, y.opening ≠ some (p, a) ∧ y.closing ≠ some (some (p, a))) →
            (∀ ds, t.openCheck p a ≠ .wait ds) → exec (.queueReset ⟨q, vd⟩ p a) s = exec (.queueOpen q p a) t))) ∧
    (∀ d n, x.desc = some d →
      (n ∈ s.commanded q true ↔ ∃ y ∈ s.queues, y.num = n ∧ ∃ e, y.desc = some e ∧ e.part = d.part ∧ e.vdev = d.vdev)) ∧
    (∃ t, exec (.queueStop ⟨q, true⟩) s = .next t ∧ Each (fun n => .queueStop ⟨n, false⟩) (s.commanded q true) s t) ∧
    (∃ t, exec (.queueRestart ⟨q, true⟩) s = .next t ∧ Each (fun n => .queueRestart ⟨n, false⟩) (s.commanded q true) s t) ∧
    ∀ vd, ∃ t u, exec (.queueClose ⟨q, vd⟩) s = .next t ∧ exec (.queueReset ⟨q, vd⟩ p a) s = .next u

/-- R291, R292, R296, R298, R301, R302, R304, R306: a dispatched LAUNCH makes the next grid, a LAUNCH-AT one that is held until
its instant or copies for its peers, one for this device itself delivered at once to its fabric queue (log 69: the model's
choice), or is refused where a copy cannot be delivered, the others still delivered; a GRAPH a launch of its instance; each
that is not refused moves RIDX past its command. A DISPATCH that visits the queue does the same. -/
def Obligations.LaunchCommandResults : Prop :=
  ∀ (s : State) (q : Nat) (d : QDesc) (ord : Bool) (lrec done start peers : W64) (gen : W32) (ctx : Nat),
    let s1 := s.refreshEligible
    let visits := fun (c : Cmd) => s1.dueVisit = some (q, d, c) ∧ s1.headCmd (s1.queue q) = .cmd ord c ∧
      0 < visitDeficit d (s1.queue q).deficit ∧ (s.queue q).desc = some d ∧ s.queueCtx d = some ctx
    let dispatches := fun (t : State) =>
      s.badHead = none → (∀ y ∈ s.queues, s.headDies y = []) → exec .dispatch s = .next t
    let moves := fun (t : State) => (t.queue q).ridx = (s.queue q).ridx + 1 ∧ dispatches t
    let makes := fun (t : State) (l : LaunchRec) (held : Option Nat) => moves t ∧ t.nextGrid = s.nextGrid + 1 ∧
      Running.grid s.nextKey ∈ (t.queue q).running ∧
      ∃ y, t.grid? s.nextKey = some y ∧ y.id = s.nextGrid ∧ y.lrec = l ∧ y.part = d.part ∧ y.ctx = ctx ∧ y.pasid = d.pasid ∧
        y.level = d.prio ∧ y.queue = some q ∧ y.done = done ∧ y.depth = 0 ∧ y.parent = none ∧ y.held = held ∧ y.placed = []
    s.grid? s.nextKey = none →
      (∀ l, visits (.launch lrec done) → s.checkLaunch d.part ctx lrec = .ok l →
        ∃ t, exec (.launch q ord lrec done) s = .next t ∧ makes t l none) ∧
      (∀ l, visits (.launchAt false lrec done start peers gen) → s.checkLaunch d.part ctx lrec = .ok l →
        (s.time .caldera).pkgState = 2 →
        ∃ t, exec (.launchAt q ord false lrec done start peers gen) s = .next t ∧ makes t l (some (start.toNat + 32))) ∧
      (let copy : ReplCopy := ⟨Config.fabricNumber, gen.toNat, lrec, done, start.toNat⟩
        let self := Config.fabricNumber < 64 ∧ peers.getLsbD Config.fabricNumber = true
        visits (.launchAt true lrec done start peers gen) → CalderaLeads s →
        (∀ e ds, self → s.ownFabricQueue = some e → s.copyFate Config.fabricQueue e copy ≠ .wait ds) →
        ∃ t, exec (.launchAt q ord true lrec done start peers gen) s = .next t ∧
          (t.peerOut = s.peerOut ++ ((List.range 64).filter fun k =>
            peers.getLsbD k && (k != Config.fabricNumber && s.peerReachable k)).map fun k => (k, copy)) ∧
          ((∀ k, k < 64 → peers.getLsbD k = true → s.peerReachable k = true) → moves t) ∧
          ((∃ k, k < 64 ∧ peers.getLsbD k = true ∧ s.peerReachable k = false) →
            (t.queue q).ridx = (s.queue q).ridx ∧ (t.queue q).status = 3 ∧ dispatches t) ∧
          ∀ e, self → s.ownFabricQueue = some e →
            (∀ k l, s.copyFate Config.fabricQueue e copy = .runs k l → ∃ y, t.grid? s.nextKey = some y ∧ y.id = s.nextGrid ∧
              y.lrec = l ∧ y.queue = some Config.fabricQueue ∧ y.done = done ∧ y.held = some (start.toNat + 400) ∧
              (t.queue Config.fabricQueue).lastGen Config.fabricNumber = some gen.toNat) ∧
            (∀ c, s.copyFate Config.fabricQueue e copy = .refused c → t.grids = s.grids ∧
              (t.queue Config.fabricQueue).status = 3) ∧
            (s.copyFate Config.fabricQueue e copy = .old → t.grids = s.grids)) ∧
      (∀ i l, visits (.graph lrec done) → s.findGraph d.part ctx d.pasid lrec = .ok i l →
        ∃ t y, exec (.graph q ord lrec done) s = .next t ∧ moves t ∧ t.launches = s.launches ++ [y] ∧ y.key = s.nextKey ∧
          y.inst = i ∧ y.queue = q ∧ y.done = done ∧ y.started = [] ∧ y.finished = [] ∧
          Running.launch s.nextKey ∈ (t.queue q).running)

/-- R289, R296, R297, R302, R304, R306: SIGNAL writes its word; AFTER holds its queue back until a poll finds its condition met,
and puts it into ERROR when its time has passed, where it is dropped (that it is polled in ERROR too, and dropped then, is the
model's choice, log 65); DISPATCH refuses a head that is malformed, and else visits a queue, whose deficit takes its quantum, and
dispatches its head if that is positive; a watched line's read gives its queues their WIDX, and an overrun puts a STOPPED queue
into ERROR as well (log 66: the model's choice); a graph's node starts when its predecessors are complete; a replicated copy launches with its later
instant, and is refused by a device that has FAILED. -/
def Obligations.QueueServiceResults : Prop :=
  ∀ (s : State) (q : Nat) (x : Queue) (d : QDesc) (ctx key : Nat), s.queues.find? (fun y => y.num == q) = some x →
    x.desc = some d → s.queueCtx d = some ctx → s.cpPlace d.part ctx d.ridxa.toNat 16 .write = .ok key →
      (∀ o a v add k, s.headCmd x = .cmd o (.signal a v add) → x.running = [] →
        s.cpPlace d.part ctx a.toNat 8 .write = .ok k → s.lostAt k 8 = none →
        s.mayWrite (s.homeVent (lineOf k)) (lineOf k) = true →
        ∃ t m, exec (.signal q a v add) s = .next t ∧ t = m.nextCommand q ∧ (t.queue q).ridx = x.ridx + 1 ∧
          m.queues = s.queues ∧ m.groups = s.groups ∧
          Stored s m (d.part == 127) k (bytesOf64 (if add then BitVec.ofNat 64 (s.readNat k 8) + v else v))) ∧
      (∀ o a v kind w, s.headCmd x = .cmd o (.after a v kind w) →
        ∃ t n, exec (.after q a v kind w) s = .next t ∧ (t.queue q).ridx = x.ridx + 1 ∧ s.now ≤ n ∧
          (t.queue q).after = some ⟨a, v, kind, if w = 0 then none else some (w.toNat * 16000), n⟩) ∧
      (∀ a k, x.after = some a → (x.status = 1 ∨ x.status = 3) → a.kind = 0 → (∀ l ∈ s.launches, l.queue ≠ q) →
        s.cpPlace d.part ctx a.addr.toNat 8 .read = .ok k → s.lostAt k 8 = none →
        ∃ t, exec (.afterPoll q) s = .next t ∧ t = { s with queues := t.queues, times := t.times } ∧
          t.queue q = { x with after := if a.value.toNat ≤ s.readNat k 8 then none else some a } ∧
          ∀ n, n ≠ q → t.queue n = s.queue n) ∧
      (∀ a w, x.after = some a → (x.status = 1 ∨ x.status = 3) → a.timeout = some w → a.started + w ≤ s.now →
        (∀ l ∈ s.launches, l.queue ≠ q) →
        ∃ t, exec (.afterTimeout q) s = .next t ∧ (t.queue q).status = 3 ∧ (t.queue q).code = 0x08 ∧ (t.queue q).after = none ∧
          DeviceWrites s t (128 + q) key (bytesOf64 x.ridx ++ bytesOfNat 8 (3 * 2 ^ 56 + 8 * 2 ^ 48))) ∧
      (∀ c, s.badHead = some (q, c) →
        ∃ t, exec .dispatch s = .next t ∧ (t.queue q).status = 3 ∧ (t.queue q).code = c ∧ (t.queue q).ridx = x.ridx) ∧
      (s.badHead = none → (∀ y ∈ s.queues, s.headDies y = []) →
        (s.refreshEligible.dueVisit = none → exec .dispatch s = .next s.refreshEligible) ∧
        (∀ c, s.refreshEligible.dueVisit = some (q, d, c) → x.deficit + d.quantum ≤ 0 →
          ∃ t, exec .dispatch s = .next t ∧ (t.queue q).deficit = x.deficit + d.quantum ∧ (t.queue q).ridx = x.ridx ∧
            t.grids = s.grids ∧ t.launches = s.launches ∧ MemorySame s t) ∧
        (∀ lrec done r, s.refreshEligible.dueVisit = some (q, d, .launch lrec done) → 0 < x.deficit + d.quantum → 0 < d.quantum →
          s.checkLaunch d.part ctx lrec = .ok r → s.grid? s.nextKey = none →
          ∃ t y, exec .dispatch s = .next t ∧ (t.queue q).ridx = x.ridx + 1 ∧ t.grid? s.nextKey = some y ∧ y.id = s.nextGrid ∧
            y.lrec = r ∧ y.queue = some q ∧ y.done = done ∧ Running.grid s.nextKey ∈ (t.queue q).running)) ∧
      (∀ m k l, s.monitors.find? (fun m => m.entry == d.ment) = some m → m.part = d.part → m.pasid = d.pasid →
        (∀ y ∈ s.queues, y.num ≠ q → ∀ e, y.desc = some e → e.ment ≠ d.ment) →
        s.cpReadIn d.part ctx m.mline.toNat 1024 = .ok l → (k : W64) = BitVec.ofNat 64 (fld l (8 * d.mpos) (8 * d.mpos + 7)) →
        ∃ t, exec (.watchedLineRead d.ment) s = .next t ∧ (t.queue q).widx = k ∧ (t.queue q).ridx = x.ridx ∧
          (x.status ≠ 3 → 2 ^ d.rszlog < (k - x.ridx).toNat →
            (t.queue q).status = 3 ∧ (t.queue q).code = 0x04)) ∧
      (∀ l n y lrec done r, s.launches.find? (fun z => z.key == l.key) = some l → l.queue = q → l.inst.nodes[n]? = some y →
        y.cmd = .launch lrec done → l.active = true → l.faulted = none → l.started.contains n = false →
        (∀ p ∈ y.preds, l.finished.contains p = true) → l.inst.part = d.part → l.inst.pasid = d.pasid →
        s.checkLaunch d.part ctx lrec = .ok r → s.grid? s.nextKey = none →
        ∃ t g, exec (.graphNodeStart l.key n) s = .next t ∧ t.grid? s.nextKey = some g ∧ g.id = s.nextGrid ∧ g.lrec = r ∧
          g.launch = some (l.key, n) ∧ g.done = done ∧ g.part = d.part ∧
          t.launches.find? (fun z => z.key == l.key) = some { l with started := l.started ++ [n] }) ∧
      ∀ (c : ReplCopy) r, x.status = 1 → x.closing = none → (∀ g, x.lastGen c.src = some g → g < c.gen) → copyDue c = true →
        (s.info.state = 3 → ∃ t, exec (.replicatedCopyReceive q c) s = .next t ∧ (t.queue q).status = 3 ∧
          (t.queue q).code = 0x0B ∧ t.grids = s.grids) ∧
        (s.info.state ≠ 3 → (s.time .caldera).fabState = 2 → s.now < c.start + 400 → s.checkLaunch d.part ctx c.lrec = .ok r →
        s.grid? s.nextKey = none →
        ∃ t g, exec (.replicatedCopyReceive q c) s = .next t ∧ t.grid? s.nextKey = some g ∧ g.id = s.nextGrid ∧ g.lrec = r ∧
          g.held = some (c.start + 400) ∧ g.queue = some q ∧ g.done = c.done ∧ (t.queue q).lastGen c.src = some c.gen ∧
          (t.queue q).ridx = x.ridx)

/-! ## Pre-emption, partitions and hosts (14, 15) -/

/-- R232, R310 to R313, R353: a request begins the ladder with GRACE and KILLT; after GRACE every group of the context there is
to halt, after KILLT its grids end KILLED; once all is drained and there is room its image moves with its records, what shadow
storage does not take to the save area, and it comes back on the cores that are given, what happened meanwhile delivered in
order, unless it is damaged: an image that is, ends all its teams, with the cause of a lost line where one holds a part of it
(logs 59 and 103, on what shadow storage takes and on a damaged image, are the model's choice). -/
def Obligations.PreemptionResults : Prop :=
  (∀ (s : State) (r : PreemptReq) (gr ki : Nat), s.ladderTimes r = some (gr, ki) →
    (∀ x ∈ s.preempts, x.req.part = r.part → x.req.ctx = r.ctx → ∀ c ∈ x.req.cores, c ∉ r.cores) →
      exec (.preemptRequest r) s = .next { s with
        nextKey := s.nextKey + 1
        preempts := s.preempts ++ [⟨s.nextKey, r, 1, s.now, gr, ki, none, [], [], [], false⟩] }) ∧
  ∀ (s : State) (n : Nat) (x : Preempt), s.preempts.find? (fun y => y.n == n) = some x →
    (x.stage = 1 → x.since + 16000 * x.grace ≤ s.now →
      ∃ t, exec (.preemptHalt n) s = .next t ∧ t = { s with preempts := t.preempts, groups := t.groups } ∧
        t.preempts.find? (fun y => y.n == n) = some { x with stage := 2, since := s.now } ∧
        t.groups = s.groups.map fun h => if s.preempts? x h then { h with halt := some 0 } else h) ∧
    (x.stage = 2 → x.saved = none → x.since + 16000 * x.killt ≤ s.now →
      ∃ t, exec (.preemptKill n) s = .next t ∧ (∀ y ∈ t.preempts, y.n ≠ n) ∧
        ∀ u ∈ s.teams, s.preemptsTeam x.req u = true → ∀ g, s.grid? u.grid = some g → g.cause = none →
          ∃ y, t.grid? u.grid = some y ∧ y.cause = some Cause.killed) ∧
    (let y : Preempt := { x with bins := s.gatherBins x };
      x.saved = none → s.stageTwoDone y = true → (∀ l ∈ s.links, l.st = .active) →
      (s.storage x.req.part (s.imageOf y).length = none → exec (.contextSwapOut n) s = .next s) ∧
      ∀ w, s.storage x.req.part (s.imageOf y).length = some w →
        ∃ t ar, exec (.contextSwapOut n) s = .next t ∧
          t.preempts.find? (fun y => y.n == n) = some { y with saved := some w, area := ar } ∧
          ar.flatMap (·.data) <+: (s.imageOf y).drop w.1 ∧
          (w.2 = 0 → ar = [] ∧ t = { s with
            preempts := t.preempts, groups := t.groups, teams := t.teams, cores := t.cores, times := t.times, fresh := t.fresh }) ∧
          (t.groups = s.groups.map fun h => if s.preempts? x h then { h with seat := none } else h) ∧
          (t.teams = s.teams.map fun u => if s.preemptsTeam x.req u then { u with swapped := true } else u) ∧
          ∀ c ∈ t.cores, x.req.cores.contains c.id = true → isService c.id = false → ∀ b ∈ c.bins, b.grid ∉ s.ctxGrids x.req) ∧
    ∀ (place : List (Nat × CoreId)) (m : State),
      let ts := (s.teams.filter fun t => t.swapped && t.dead.isNone && s.preemptsTeam x.req t).map (·.key)
      let s0 := s.causal (.caldera :: place.map fun e => dieOf e.2)
      x.saved.isSome = true → (place.map (·.1)).Nodup → (∀ k, k ∈ ts ↔ k ∈ place.map (·.1)) → place.length = ts.length →
      s.placeTogether place = true → s.placeGroups place = true → s.returnWaits x place = none →
      (x.bad = true ∨ s.areaIntact x.area = false →
        ∃ t, exec (.contextSwapIn n place) s = .next t ∧ (∀ y ∈ t.preempts, y.n ≠ n) ∧
          ∀ u ∈ s.teams, u.key ∈ ts → s.team? u.key = some u → isService u.core = false → ∀ g, s.grid? u.grid = some g →
            g.cause = none → ∃ z, t.grid? u.grid = some z ∧ (z.cause = some (if x.bad then Cause.uncorrectable else s.restoreCause x.area) ∨
              z.cause = some Cause.killed)) ∧
      (x.bad = false → s.areaIntact x.area = true → s.returnMarks place = [] → (∀ l ∈ s.links, l.st = .active) →
      State.restoreTeams place { s0 with preempts := s0.preempts.filter fun y => y.n != n } = some m →
      (m.restoreBins x.bins).storesFit = true →
        ∃ u, exec (.contextSwapIn n place) s = .next (x.events.foldl (fun s e => s.deliverEvent x.req.part e) u) ∧
          (∀ y ∈ u.preempts, y.n ≠ n) ∧
          (∀ e ∈ place, ∀ T, s.team? e.1 = some T →
            ∃ U, u.team? e.1 = some U ∧ U = { T with core := e.2, swapped := false, tslot := U.tslot }) ∧
          ∀ h ∈ s.groups, h.hasTeam ts = true → ∃ h' ∈ u.groups,
            h' = { h with
              core := h'.core, halt := none, run := if h.run = .halted then .running else h.run } ∧
            ∀ k th c, h.thread? k = some th → placedAt place th.team = some c → h'.core = c)

/-- R307, R309, R315, R316, R322, R323, R324: a heartbeat's answer is heard; after 100 µs of silence the adopter takes a die
scheduler over; each 1 ms window begins with no charge; a commit reports its code, and one that is accepted gives the partition
its descriptor, BW, MIN and TB at the next microsecond, a new key where it was free, and takes all of it back where it becomes
free. The order and the codes of a commit's checks (log 34), what SVEC takes of a value beyond 32 bits (log 36), and that a hung
scheduler that answers has its Vent again (log 101), are the model's choice. -/
def Obligations.PartitionEventResults : Prop :=
  ∀ s : State,
    (∀ v d, s.scheds.find? (fun d => d.vent == v) = some d →
      s.linkFlows .caldera = true → s.linkFlows (.vent v) = true →
      ∃ t, exec (.heartbeat v true) s = .next t ∧ t = { s with scheds := t.scheds, times := t.times } ∧ s.now ≤ t.now ∧
        (d.hung = true → v ∉ s.liveVents → t.scheds.find? (fun d => d.vent == v) = some d) ∧
        (d.hung = false ∨ v ∈ s.liveVents → t.scheds.find? (fun d => d.vent == v) =
          some { d with hung := false, adopter := if d.hung then none else d.adopter, seen := t.now })) ∧
    (∀ v d, s.scheds.find? (fun d => d.vent == v) = some d → s.canAdopt v = true → d.seen + 1600000 ≤ s.now →
      ∃ t e, exec (.schedulerHung v) s = .next t ∧ t = { s with scheds := t.scheds } ∧
        t.scheds.find? (fun d => d.vent == v) = some e ∧ e = { d with hung := true, adopter := e.adopter } ∧
        (v < 8 → (s.canAdopt (v ^^^ 1) = true → e.adopter = some (.vent (v ^^^ 1))) ∧
          (s.canAdopt (v ^^^ 1) = false → s.canAdopt (v ^^^ 2) = true → e.adopter = some (.vent (v ^^^ 2))) ∧
          (s.canAdopt (v ^^^ 1) = false → s.canAdopt (v ^^^ 2) = false → s.canAdopt (v ^^^ 4) = true →
            e.adopter = some (.vent (v ^^^ 4))) ∧
          (s.canAdopt (v ^^^ 1) = false → s.canAdopt (v ^^^ 2) = false → s.canAdopt (v ^^^ 4) = false →
            e.adopter = none))) ∧
    exec .tbWindow s = .next { s with parts := s.parts.map fun x => { x with charged := 0 } } ∧
    (∀ (k : Nat) (v : W64), k ≠ 127 →
      (v.toNat % 4 = 0 → exec (.supervisorRegisterWrite k 2 0 v) s =
        .next (s.onPart k fun x => { x with svec := BitVec.ofNat 64 (v.toNat % 2 ^ 32) })) ∧
      (v.toNat ≤ 65536 → exec (.supervisorRegisterWrite k 11 0 v) s = .next (s.onPart k fun x => { x with swinn := v }))) ∧
    ∀ (p : Nat) (a : W64), p < 72 → s.inReach 127 a.toNat 128 = true → s.lostAt a.toNat 128 = none →
      let l := (s.seenBy 127).readBytes a.toNat 128
      let d := descOf l
      let on := fld l 0 0 == 1
      let t1 := s.tableWith p (if on then some d else none)
      let refused := fun (c : Nat) => ∃ t x, exec (.partitionCommit p a) s = .next t ∧ t = { s with parts := t.parts } ∧
        t.part? p = some x ∧ x.commit = c ∧ (∀ y, s.part? p = some y → x = { y with commit := c }) ∧
        ∀ q, q ≠ p → t.part? q = s.part? q
      (s.descOk p l = false → refused 1) ∧
      (s.descOk p l = true → tableDisjoint t1 = false → refused 2) ∧
      (s.descOk p l = true → tableDisjoint t1 = true → tableSums t1 = false → refused 1) ∧
      (s.descOk p l = true → tableDisjoint t1 = true → tableSums t1 = true →
        (∀ y, s.part? p = some y → y.status ≠ 0 → on = false ∨ d.moves y.desc = true → s.allQuiescent p = false → refused 3) ∧
        (s.partOn p = false → on = true → ∃ t x k, exec (.partitionCommit p a) s = .next t ∧ t.part? p = some x ∧
          x.status = 1 ∧ x.commit = 0 ∧ x.desc = d ∧ x.keyId = k ∧ x.halted = true ∧ x.svec = 0 ∧
          (s.freeKeyId = some k → t.keys = (k, Config.freeKey s.fresh) :: s.keys) ∧ t.mem = s.mem ∧
          ∀ q, q ≠ p → t.part? q = s.part? q) ∧
        (∀ y, s.part? p = some y → y.status ≠ 0 → on = true → (d.moves y.desc = false ∨ s.allQuiescent p = true) →
          ∃ t, exec (.partitionCommit p a) s = .next t ∧ t = { s with parts := t.parts } ∧
            t.part? p = some { y with
              desc := { d with min := y.desc.min, bw := y.desc.bw, tb := y.desc.tb }
              next := some (d.min, d.bw, d.tb, (s.now / 16000 + 1) * 16000), commit := 0 }) ∧
        ∀ y, s.part? p = some y → y.status ≠ 0 → on = false → s.allQuiescent p = true →
          ∃ t x, exec (.partitionCommit p a) s = .next t ∧ t.part? p = some x ∧ x.status = 0 ∧ x.commit = 0 ∧
            (∀ e ∈ t.keys, e.1 ≠ y.keyId) ∧ (∀ q ∈ t.queues, q.part ≠ some p) ∧
            (∀ h ∈ t.groups, h.core ≠ .service p) ∧ (∀ b ∈ t.l2, isDeviceLine b.line = true → b.key ≠ y.keySer) ∧
            ∀ a, inRanges (s.keyRanges p) a = true → t.readByte a = Config.freeByte s.fresh a)

/-- R29, R191, R325, R326, R328, R330, R331: a host's read is answered with the bytes or with poison, its write reaches only
its partition; a link that goes down quarantines the dirty lines of its memory, which are written back on its return and after
2 s are discarded with a fault of every context that last wrote one; a snoop takes the device's copies; a port comes up, and
with the fabric master behind it nothing bounds the fabric's time yet. That a host's accesses are performed as they come (log 75),
that the expiry of the quarantine drops the clean lines of the port too (log 76), and which accesses that need a line of the
lost host wait (log 77), are the model's choice. -/
def Obligations.HostLinkResults : Prop :=
  ∀ (s : State) (n : Nat) (p : Port), s.ports.find? (fun q => q.n == n) = some p →
    (p.peer = false → p.up = true →
      (∀ tag a k c, let i : Instr := .hostCxlMemAccess n (.read tag a k c)
        let answers := fun (t : State) (b : Option (List Byte)) => t.hostLog = s.hostLog ++ [(tag, b)] ∧ t.mem = s.mem
        p.writeTags + (k + 63) / 64 ≤ 16384 →
        (s.hostReach p a k = false ∨ s.lostAt a k ≠ none → ∃ t, exec i s = .next t ∧ answers t none) ∧
        (s.hostReach p a k = true → s.lostAt a k = none → s.hostWaits p (a / 1024) = false → (∀ l ∈ s.links, l.st = .active) →
          ∃ t, exec i s = .next t ∧ answers t (some (s.readBytes a k)) ∧
            (c = true → ∃ q, t.ports.find? (fun q => q.n == n) = some q ∧ ∃ h ∈ q.held, h.1 = a / 1024))) ∧
      (∀ a bs, let i : Instr := .hostCxlMemAccess n (.write a bs)
        p.writes = [] → (bs.length + 63) / 64 ≤ 16384 →
        (s.hostReach p a bs.length = false → ∃ t, exec i s = .next t ∧ t = { s with ports := t.ports } ∧
          t.ports.find? (fun q => q.n == n) = some { p with poisoned := p.poisoned + 1 }) ∧
        (s.hostReach p a bs.length = true → (∀ l ∈ s.links, l.st = .active) → (∀ b ∈ s.l2, b.line ≠ a / 1024) →
          s.sliceWaking (s.homeVent (a / 1024)) (a / 1024) = false → (∀ m ∈ s.monitors, m.held = false) →
          (∀ q ∈ s.ports, q.n ≠ n → ∀ h ∈ q.held, h.1 ≠ a / 1024) →
          (∀ e ∈ s.past, s.mixesPast (s.hostMaker p) a bs.length e = false) →
          ∃ t, exec i s = .next t ∧ Stored s t false a bs)) ∧
      (∀ tag off k, exec (.hostCxlMemAccess n (.ioRead tag off k)) s =
        .next { s with hostLog := s.hostLog ++ [(tag, some (bytesOfNat k (s.infoRead off k)))] }) ∧
      (∀ line, 1024 * line < Config.hostKeyBase →
        let l := hostKey n 0 / 1024 + line
        (∀ x ∈ s.links, x.st = .active) →
        (s.narrow? l = none → (∀ x ∈ s.l2, x.vent < 8) → ∃ t, exec (.cxlCacheSnoop n line .invalidate) s = .next t ∧
          t = { s with l2 := t.l2, debugLog := t.debugLog, monitors := t.monitors, times := t.times } ∧ TimesRise s t ∧
          (∀ x ∈ t.l2, x.line = l → x.pinned.isSome = true ∧ x.valid = 0 ∧ x.dirty = 0 ∧ x.owned = false) ∧
          (∀ m ∈ t.monitors, m.key / 1024 = l → m.held = false) ∧ ∀ x ∈ s.l2, x.line ≠ l → x ∈ t.l2) ∧
        ∃ t, exec (.cxlCacheSnoop n line .share) s = .next t ∧ t = { s with l2 := t.l2, times := t.times } ∧ TimesRise s t ∧
          (∀ x ∈ t.l2, x.line = l → x.dirty = 0 ∧ x.owned = false) ∧ t.l2.map (·.line) = s.l2.map (·.line)) ∧
      ∃ t q, exec (.hostLinkDown n) s = .next t ∧ t = { s with ports := t.ports } ∧
        t.ports.find? (fun q => q.n == n) = some q ∧
        q = { p with
          up := false, failedAt := some s.now, lost := false, quarantine := q.quarantine, reads := []
          writes := p.writes.map fun w => { w with tags := 0 } } ∧
        ∀ b ∈ s.l2, lineOnPort n b.line = true → b.dirty ≠ 0 → (b.line, b.writers) ∈ q.quarantine) ∧
    (∀ T, p.failedAt = some T → s.devWrites = [] → (∀ q ∈ s.ports, q.writes = []) → QueuesIdle s →
      let back := fun (k : Nat) => { p with up := true, failedAt := none, lost := false, quarantine := [], lostBelow := k }
      (p.lost = true → ∃ t, exec (.hostLinkReturn n) s = .next t ∧ t = { s with ports := t.ports } ∧
        t.ports.find? (fun q => q.n == n) = some (back s.nextOp)) ∧
      (p.lost = false → s.now < T + 32000000000 → exec (.hostQuarantineExpiry n) s = .next s ∧
        ∃ t, exec (.hostLinkReturn n) s = .next t ∧ t = { s with ports := t.ports, l2 := t.l2 } ∧
          t.ports.find? (fun q => q.n == n) = some (back p.lostBelow) ∧ ∀ b ∈ t.l2, lineOnPort n b.line = true → b.dirty = 0) ∧
      (p.lost = false → T + 32000000000 ≤ s.now → (∀ r ∈ s.ownReqs, lineOnPort n r.line = false) →
        ∃ t, exec (.hostQuarantineExpiry n) s = .next t ∧
          (∀ q ∈ t.ports, q.n = n → q.lost = true ∧ q.quarantine = [] ∧ q.held = []) ∧
          ((∀ k ∈ s.parkings, k.slot = none) → ∀ b ∈ t.l2, lineOnPort n b.line = false) ∧
          (∀ h ∈ p.held, h.2 = true → ∃ m ∈ t.lost, m.line = h.1) ∧
          ∀ e ∈ p.quarantine, ∀ w, e.2.head? = some w → w.1 < 127 → ∀ y, s.grid? y.key = some y → y.part = w.1 → y.ctx = w.2 →
            y.cause = none →
            ∃ z, t.grid? y.key = some z ∧ (z.cause = some Cause.hostLineLost ∨ z.cause = some Cause.killed))) ∧
    ∀ master, p.up = false → p.failedAt = none →
      ∃ t, exec (.portTraining n true master) s = .next t ∧
        t = { s with ports := t.ports, fabric := t.fabric, times := t.times } ∧
        t.ports.find? (fun q => q.n == n) = some { p with up := true } ∧
        t.times = (if p.peer = true ∧ master = true then
          s.times.map fun r => { r with fabState := 0, fabBound := 0xFFFFFF } else s.times) ∧
        t.fabric = if p.peer = true ∧ master = true then some n else s.fabric

/-! ## The machine as a whole -/

/-- What a group needs to issue its next word (R86, R87, R105): it is at the head of the issue queue, runs, holds a seat, has
no fault that waits for it, and its pending halt has not met the limit. -/
structure Claims.Issues (s : State) (g : Group) : Prop where
  issues : s.issuing? = some g
  queue  : s.issueQ ≠ []
  lives  : g.ended = false
  runs   : g.run = .running
  seat   : g.seat.isSome = true
  faults : ∀ f ∈ s.lateFaults, f.group ≠ g.key
  halt   : ∀ n, g.halt = some n → n < 8192

/-- The word of the clause that is the next to issue, with its literal, decodes to `i` (R42, R43, R47). -/
def Claims.ReadsWord (c : Clause) (i : Instr) : Prop :=
  ∃ x, c.word? 0 = some x ∧ decodeWord x (if litFollows x then (c.word? 1).getD 0 else 0) = .ok i

/-- A step runs the decoded instruction: where the group inside an open clause issues and the next of its words decodes to i,
the step is exec of i in the state in which the group's last turn is the present one; a word that is no instruction raises
ILLEGAL_INSTRUCTION for the positions at which it is active (R53); and with no group to issue the next event of the agenda is
what the step runs. -/
def Obligations.StepRunsTheDecodedInstruction : Prop :=
  (∀ (s : State) (g : Group) (c : Clause) (i : Instr), Claims.Issues s g → g.clause = some c → c.isOpen = true →
    Claims.ReadsWord c i →
      step s = exec i { s with
        groups := s.groups.map fun h => if h.key == g.key then { g with lastTurn := s.turn } else h }) ∧
  (∀ (s : State) (g : Group) (c : Clause) (x : W32), Claims.Issues s g → g.clause = some c → c.isOpen = true →
    c.word? 0 = some x → (∀ i, ¬ Claims.ReadsWord c i) →
      let p : Pred := ⟨x.extractLsb' 23 3, x.getLsbD 22⟩
      let A := if p = ⟨7, true⟩ then g.entryMask else g.active p
      A ≠ 0 → step s = .next (s.popIssue.trap g A Cause.illegalInstruction A 0)) ∧
  ∀ (s : State) (e : Instr) (l : List Instr), s.issueQ = [] → s.agenda = e :: l → step s = exec e { s with agenda := l }

/-- R38, R42, R43, R53, R105: a clause is fetched and checked whole before its first word: what cannot be fetched traps at its
address, a clause that breaks R42 raises ILLEGAL_CLAUSE, with the entry's own mask as FMASK in both cases (log 88: the model's
choice), a pending halt stops the group at a safe point, a wait condition that
is not met holds it, and else its first word issues, each of its words as it was fetched. -/
def Obligations.ClauseOpeningResults : Prop :=
  ∀ (s : State) (g : Group) (e : Entry), Claims.Issues s g → g.clause = none → g.selected? = some e →
    (∀ c a, s.fetchClause (s.whoOf g) e.addr = .fault c a →
      step s = .next (s.popIssue.trap { g with clause := some ⟨e.addr, 0, e.addr, false, []⟩ } e.mask c e.mask a)) ∧
    ∀ hw ws, s.fetchClause (s.whoOf g) e.addr = .ok hw ws →
      (s.fetchWord (s.whoOf g) e.addr = .word hw ∧ ws.length = (headerOf hw).count ∧
        ∀ k x, ws[k]? = some x → s.fetchWord (s.whoOf g) (e.addr + 4 + BitVec.ofNat 64 (4 * k)) = .word x) ∧
      (clauseOk (headerOf hw) ws = false →
        step s = .next (s.popIssue.trap { g with clause := some ⟨e.addr, 0, e.addr, false, []⟩ } e.mask Cause.illegalClause
          e.mask 0)) ∧
      (clauseOk (headerOf hw) ws = true → (headerOf hw).safe = true → g.halt.isSome = true →
        ∃ t, step s = .next t ∧ OnlyGroup s t g { g with run := .halted }) ∧
      (clauseOk (headerOf hw) ws = true → ((headerOf hw).safe = false ∨ g.halt = none) → waitMet (headerOf hw) g.cnt = false →
        ∃ t g', step s = .next t ∧ OnlyGroup s t g g' ∧ KeptGroup g g' ∧ g'.clause = none ∧ g'.lanes = g.lanes ∧
          g'.s = g.s) ∧
      (clauseOk (headerOf hw) ws = true → ((headerOf hw).safe = false ∨ g.halt = none) → waitMet (headerOf hw) g.cnt = true →
        ∃ (m : State) (h : Group) (c : Clause), m.group? g.key = some h ∧ h.clause = some c ∧ c = ⟨e.addr, (headerOf hw).count, e.addr + 4, true, ws⟩ ∧
          KeptGroup g h ∧ h.lanes = g.lanes ∧ h.s = g.s ∧
          m = { s with groups := m.groups, cores := m.cores, times := m.times } ∧ TimesRise s m ∧
          (∀ k, k ≠ g.key → m.group? k = s.group? k) ∧
          ∀ i, Claims.ReadsWord c i →
            step s = exec i { m with
              groups := m.groups.map fun x => if x.key == g.key then { h with lastTurn := s.turn } else x })

/-- Words that the spec writes out decode to the instructions that it says they are (R46 to R53). -/
def Obligations.SpecWordsDecode : Prop :=
  let always : Pred := ⟨7, false⟩
  decodeWord 0x5B9C0180#32 0 = .ok (.jmp always 6) ∧
  decodeWord 0x03844083#32 0 = .ok (.isub always 4 2 (.v 3)) ∧
  decodeWord 0x27A0513F#32 7 = .ok (.fmul always .rn 5 4 (.lit 7)) ∧
  decodeWord 0x13911083#32 0 = .ok (.cmpI32 always .lt 1 2 (.v 3)) ∧
  decodeWord 0x1F840064#32 0 = .ok (.ldi always true 4 100) ∧
  decodeWord 0x8B901015#32 0 = .ok (.btstTeam always 1 (.v 21)) ∧
  decodeWord 0xBF8820BF#32 9 = .ok (.trap always 2 2 (.lit 9)) ∧
  decodeWord 0xC794124A#32 0 = .ok (.tlbinv always 1 9 10)

/-- R46 to R53: every word that decodes is the encoding of a well-formed instruction, and every well-formed instruction with
its literal is decoded from its encoding, with every operand as it was: no bit of an encoding is dropped, and no two
instructions share a word. -/
def Obligations.DecodingInvertsEncoding : Prop :=
  (∀ i : Instr, i.wf = true → ∀ rest, decodeBytes (encodeBytes i ++ rest) = .ok (i, rest)) ∧
  ∀ (w lit : W32) (i : Instr), decodeWord w lit = .ok i →
    i.wf = true ∧ encode i = w :: if litFollows w then [lit] else []

/-- Every step keeps memory in its one canonical form: addresses rise strictly, and no entry holds what an unlisted address
reads as (log 2). -/
def Obligations.EveryStepKeepsMemoryCanonical : Prop :=
  ∀ s t : State, MemoryCanonical s → step s = .next t → MemoryCanonical t

/-- Every step keeps the groups' keys apart: no two groups have one key, and no key to come is in use. -/
def Obligations.EveryStepKeepsGroupKeysFresh : Prop :=
  ∀ s t : State, KeysFresh s → step s = .next t → KeysFresh t

/-- The machine right after reset: Caldera waits in its boot ROM, nothing runs, no partition and no queue is open, no link is
up, its time register is 0 and UNSYNC, and the two invariants hold. That memory then reads 0 is the model's choice (log 2). -/
def Obligations.ResetState : Prop :=
  let s := State.reset
  s.inRom = true ∧ s.groups = [] ∧ s.ops = [] ∧ s.teams = [] ∧ s.grids = [] ∧ s.parkings = [] ∧ s.issueQ = [] ∧ s.agenda = [] ∧
    s.liveVents = [] ∧ (s.time .caldera).value = 0 ∧ (s.time .caldera).pkgState = 0 ∧ (∀ p, s.part? p = none) ∧
    (∀ q, (s.queue q).status = 0) ∧ (∀ p ∈ s.ports, p.up = false) ∧ (∀ a, s.readByte a = 0) ∧ MemoryCanonical s ∧ KeysFresh s

/-! ## Statements of several parts -/

/-- R127, R129, R130, R132: the integer words of 32 and of 64 bits write the results of their table rows, and change nothing else. -/
def Obligations.IntegerResults : Prop :=
  Claims.IntegerArithmeticResults ∧ Claims.ShiftAndBitCountResults ∧ Claims.PairArithmeticResults

/-- R56, R57, R136, R137, R139: sums and products are exact values rounded once, with the special cases of the tables; FMIN, FMAX, FABS,
FNEG and FCLASS. -/
def Obligations.FloatArithmeticResults : Prop :=
  Claims.FloatSumAndProductResults ∧ Claims.MinMaxSignClassResults

/-- R60, R66, R68, R69, R141 to R144: packed arithmetic by element, and conversions, each stochastic rounding taking one draw. -/
def Obligations.PackedAndConversionResults : Prop :=
  Claims.PackedResults ∧ Claims.ConversionResults

/-- R108, R110: predicate logic, votes, and the words that read other lanes. -/
def Obligations.PredicateAndLaneResults : Prop :=
  Claims.PredicateAndVoteResults ∧ Claims.LaneReadResults

/-- R49, R97 to R99, R101, R102, R215: BRA, JMP, NOP, YIELD and TAIL. -/
def Obligations.BranchAndTailResults : Prop :=
  Claims.BranchJumpNopYieldResults ∧ Claims.TailResult

/-- R95 to R98: CALL and RET, where they complete and where they trap. -/
def Obligations.CallResults : Prop :=
  Claims.CallAndReturnResults ∧ Claims.CallAndReturnTraps

/-- R221, R222, R226, R227, R230: REGROUP deposits its records, is held or traps; REGROUP.FLUSH flushes the grid's bins, on
a service core those of its own state (log 27: the model's choice). -/
def Obligations.RegroupResults : Prop :=
  Claims.RegroupDepositsRecords ∧ Claims.RegroupHoldsAndTraps ∧ Claims.RegroupFlushResult

/-- R51, R121, R123, R166, R167: loads and stores issue one operation with an access for each place; those of `.rs` act at once. -/
def Obligations.LoadsAndStoresIssue : Prop :=
  Claims.LoadsIssueOrReadRegisters ∧ Claims.StoresIssueOrWriteRegisters

/-- R182 to R185, R198, R200: ATOM and the words of class 16 capture their operands and issue one operation, or trap. -/
def Obligations.AtomicWordsIssue : Prop :=
  Claims.AtomicsIssue ∧ Claims.HelpedObjectWordsIssue

/-- R170 to R174, R186: fences, and the instructions on lines. -/
def Obligations.FenceAndLineResults : Prop :=
  Claims.FenceResults ∧ Claims.LineInstructionResults

/-- R39, R184, R212 to R214, R217: BARR, BTST, SWSET and SWTST, and the words that a full counter or an acquire
holds (log 95, on what is held before which checks, is the model's choice). -/
def Obligations.BarrierAndSyncWords : Prop :=
  Claims.BarrierArrivalResults ∧ Claims.SyncWordsIssue ∧ Claims.FullCounterHoldsWords

/-- R50, R273, R275 to R277, R281 to R283, R285: the words of the copy path trap by their first failing check, and else issue
one operation (log 95, the hold before the checks, and log 111, FADDR of their traps, are the model's choice). -/
def Obligations.CopyCommandsIssue : Prop :=
  Claims.CopyElementsIssue ∧ Claims.BulkCopiesIssue ∧ Claims.GatherCommandsIssue

/-- R235, R236, R239 to R250, R253, R265, R266, R319: the words of the matrix path trap by their first failing check, and
else issue (log 95, the hold before the checks, and log 111, FADDR of their traps, are the model's choice). -/
def Obligations.MatrixCommandsIssue : Prop :=
  Claims.MatrixMultiplyIssue ∧ Claims.TileCommandsIssue

/-- R68, R81, R113, R114, R347: RDSR and WRSR for every register number. -/
def Obligations.SpecialRegisterResults : Prop :=
  Claims.SpecialRegisterReads ∧ Claims.SpecialRegisterWrites

/-- R46, R53, R94, R119, R120, R348: what comes before any word's own effect: no active position, a register above the cap, a group that
is not converged, an uncorrectable register; each for a sample of words that it names. -/
def Obligations.WordGuards : Prop :=
  Claims.InactiveWordHasNoEffect ∧ Claims.RegisterAboveCapTraps ∧ Claims.CollectivesNeedConvergence ∧ Claims.UncorrectableRegisterEndsTheGrid

/-- R53, R332, R333: words of class 24 outside supervisor state trap, SRDSR and SWRSR with PRIVILEGE also where they name no register
(log 96: the model's choice); RESUME and KILL that do nothing return their status. -/
def Obligations.PrivilegedWordGuards : Prop :=
  Claims.PrivilegedWordsTrap ∧ Claims.ResumeAndKillRefusals

/-- R333, R344, R346, R348: RESUME wakes a parked group, KILL ends its team's grid or its threads (logs 92 and 103, on the
next header and on a save area that software has written, are the model's choice). -/
def Obligations.ResumeAndKillResults : Prop :=
  Claims.ResumeResults ∧ Claims.KillResults

/-- R39, R157, R166 to R168: loads and stores that are due are performed and complete. -/
def Obligations.LoadAndStoreCompletion : Prop :=
  Claims.LoadCompletionResult ∧ Claims.StoreCompletionResult

/-- R39, R183, R184, R197, R200, R208: atomics and the words of class 16 that are due are performed and complete. -/
def Obligations.AtomicPerformResults : Prop :=
  Claims.AtomicPerformResult ∧ Claims.HobPerformResult

/-- R155, R157, R187: logical time, promotion of narrow lines, and the passing of ownership. -/
def Obligations.CoherenceResults : Prop :=
  Claims.PromotionAndLogicalTimeResults ∧ Claims.OwnershipResults

/-- R115, R119, R159, R160, R351: patrol scrub and power gating (log 48, on what a gated bank or way drops, is the model's choice). -/
def Obligations.ScrubAndGatingResults : Prop :=
  Claims.PatrolScrubResults ∧ Claims.PowerGatingResults

/-- R22, R24 to R26: flits and tokens, and the states of a link (log 94, a FAILED device stays so, is the model's choice). -/
def Obligations.LinkResults : Prop :=
  Claims.FlitAndTokenResults ∧ Claims.LinkStateResults

/-- R28 to R32: time registers and their synchronisation (logs 9, 61 and 93, on the ticks that are due, on Caldera's bound and on
the master's write, are the model's choice). -/
def Obligations.TimeResults : Prop :=
  Claims.TimeRegisterResults ∧ Claims.SynchronisationResults

/-- R85, R100, R223, R224: groups are formed from bins and leave when they have ended. -/
def Obligations.GroupLifeResults : Prop :=
  Claims.GroupFormationResults ∧ Claims.GroupRetirementResult

/-- R83, R101, R104, R296, R299 to R301, R306, R308: teams are placed and complete, grids end, children launch, leaves report. -/
def Obligations.GridLifeResults : Prop :=
  Claims.TeamResults ∧ Claims.GridAndCommandLinkResults

/-- R236, R245, R248, R251, R254, R256, R260, R267, R282, R284, R286: the commands of the matrix and copy engines, performed. -/
def Obligations.EngineCommandResults : Prop :=
  Claims.MatrixCommandResults ∧ Claims.GatherCommandResults

/-! ## What control words meet (03, 05) -/

/-- R53, R90, R91: a control word with no active position sends every lane of its entry to the address after the clause and
does nothing else; and every control word meets a header that cannot be read and a ninth entry as R90 and R91 say, without an
effect of its own. -/
def Obligations.ControlWordsMeetTheFrontier : Prop :=
  ∀ (p : Pred) (s : State) (g : Group) (c : Clause) (e : Entry),
    let A := g.active p
    let next := nextOf c
    let all := fun (_ : Nat) => some next
    (s.issuing? = some g → g.clause = some c → g.entry? = some e → A = 0 →
      ∀ (off : BitVec 22) (x y : RegNum) (b : OpS),
        ∀ i ∈ [Instr.bra p off, .call p off, .jmp p x, .callUniform p x, .ret p, .nop p, .yield p, .tail p, .spawn p x y,
            .regroup p x y b, .regroupFlush p, .trap p x y b],
          ControlResult i s g e all (fun h => h = g) ∧ MeetsFrontier i s g e 0 all) ∧
    (Steers s g p [] [] c e →
      MeetsFrontier (.nop p) s g e A all ∧ MeetsFrontier (.yield p) s g e A all ∧
      MeetsFrontier (.tail p) s g e A (leaving A next) ∧ MeetsFrontier (.regroupFlush p) s g e A all ∧
      (∀ off : BitVec 22, MeetsFrontier (.bra p off) s g e A (toward A (c.kept + BitVec.ofInt 64 (4 * off.toInt)) next)) ∧
      (∀ sa : RegNum, (g.sGet sa.toNat).toNat % 4 = 0 →
        MeetsFrontier (.jmp p sa) s g e A (toward A (s.cbOf g + (g.sGet sa.toNat).setWidth 64) next)) ∧
      ((∀ k th, A.getLsbD k = true → g.thread? k = some th → th.depth ≠ 65535) →
        (∀ off : BitVec 22, MeetsFrontier (.call p off) s g e A (toward A (c.kept + BitVec.ofInt 64 (4 * off.toInt)) next)) ∧
        (∀ sa : RegNum, (g.sGet sa.toNat).toNat % 4 = 0 →
          MeetsFrontier (.callUniform p sa) s g e A (toward A (s.cbOf g + (g.sGet sa.toNat).setWidth 64) next)))) ∧
    (Steers s g p [1] [1] c e →
      (∀ k th, A.getLsbD k = true → g.thread? k = some th → th.depth ≠ 0 ∧ (th.get 1).toNat % 4 = 0) →
      MeetsFrontier (.ret p) s g e A fun k =>
        if A.getLsbD k then (g.thread? k).map fun th => s.cbOf g + (th.get 1).setWidth 64 else some next) ∧
    (∀ (l vkey : RegNum) (b : OpS) (h : W32),
      let L := l.toNat + 1
      let ts := (lanesOf A).filterMap g.thread?
      let bins := (s.core g.core).bins
      Steers s g p [vkey.toNat, l.toNat] (vkey.toNat :: List.range L) c e → (opSWord g b).toNat < 2 →
      g.cnt = ⟨0, 0, 0, 0⟩ → s.popIssue.fetchWord (s.whoOf g) next = .word h →
      (s.core g.core).usedSlots + ts.length * (2 + (L + 7) / 8) ≤ (if isService g.core then 1024 else 4096) →
      bins.length + (newBins bins [] (ts.map fun th => regroupBin g th vkey ((next - s.cbOf g).setWidth 32) (h.toNat % 4096)
        (opSWord g b == 1))).length ≤ 1024 →
      MeetsFrontier (.regroup p l vkey b) s g e A (leaving A next))
end

