-- ==== Sys2Proof/Laws/Exec.lean ====
section
/-! SUPPORT. Which meaning `exec` calls, one lemma per constructor, so that no proof unfolds `exec`. -/

namespace Sys2Proof.Machine

@[simp] theorem exec_iadd (p d a b s) : exec (.iadd p d a b) s = execIadd p d a b s := rfl
@[simp] theorem exec_isub (p d a b s) : exec (.isub p d a b) s = execIsub p d a b s := rfl
@[simp] theorem exec_iaddSatI32 (p d a b s) : exec (.iaddSatI32 p d a b) s = execIaddSatI32 p d a b s := rfl
@[simp] theorem exec_isubSatI32 (p d a b s) : exec (.isubSatI32 p d a b) s = execIsubSatI32 p d a b s := rfl
@[simp] theorem exec_imul (p d a b s) : exec (.imul p d a b) s = execImul p d a b s := rfl
@[simp] theorem exec_imulhI32 (p d a b s) : exec (.imulhI32 p d a b) s = execImulhI32 p d a b s := rfl
@[simp] theorem exec_imulhN32 (p d a b s) : exec (.imulhN32 p d a b) s = execImulhN32 p d a b s := rfl
@[simp] theorem exec_imad (p d a b s) : exec (.imad p d a b) s = execImad p d a b s := rfl
@[simp] theorem exec_iminI32 (p d a b s) : exec (.iminI32 p d a b) s = execIminI32 p d a b s := rfl
@[simp] theorem exec_iminN32 (p d a b s) : exec (.iminN32 p d a b) s = execIminN32 p d a b s := rfl
@[simp] theorem exec_imaxI32 (p d a b s) : exec (.imaxI32 p d a b) s = execImaxI32 p d a b s := rfl
@[simp] theorem exec_imaxN32 (p d a b s) : exec (.imaxN32 p d a b) s = execImaxN32 p d a b s := rfl
@[simp] theorem exec_iabs (p d a s) : exec (.iabs p d a) s = execIabs p d a s := rfl
@[simp] theorem exec_ineg (p d a s) : exec (.ineg p d a) s = execIneg p d a s := rfl
@[simp] theorem exec_iaddSatN32 (p d a b s) : exec (.iaddSatN32 p d a b) s = execIaddSatN32 p d a b s := rfl
@[simp] theorem exec_isubSatN32 (p d a b s) : exec (.isubSatN32 p d a b) s = execIsubSatN32 p d a b s := rfl
@[simp] theorem exec_shlB32 (p d a b s) : exec (.shlB32 p d a b) s = execShlB32 p d a b s := rfl
@[simp] theorem exec_shrN32 (p d a b s) : exec (.shrN32 p d a b) s = execShrN32 p d a b s := rfl
@[simp] theorem exec_shrI32 (p d a b s) : exec (.shrI32 p d a b) s = execShrI32 p d a b s := rfl
@[simp] theorem exec_rolB32 (p d a b s) : exec (.rolB32 p d a b) s = execRolB32 p d a b s := rfl
@[simp] theorem exec_popc (p d a s) : exec (.popc p d a) s = execPopc p d a s := rfl
@[simp] theorem exec_clz (p d a s) : exec (.clz p d a) s = execClz p d a s := rfl
@[simp] theorem exec_brev (p d a s) : exec (.brev p d a) s = execBrev p d a s := rfl
@[simp] theorem exec_bfeN32 (p d a b s) : exec (.bfeN32 p d a b) s = execBfeN32 p d a b s := rfl
@[simp] theorem exec_bfeI32 (p d a b s) : exec (.bfeI32 p d a b) s = execBfeI32 p d a b s := rfl
@[simp] theorem exec_bfi (p d a b s) : exec (.bfi p d a b) s = execBfi p d a b s := rfl
@[simp] theorem exec_iaddI64 (p d a b s) : exec (.iaddI64 p d a b) s = execIaddI64 p d a b s := rfl
@[simp] theorem exec_isubI64 (p d a b s) : exec (.isubI64 p d a b) s = execIsubI64 p d a b s := rfl
@[simp] theorem exec_imulI64 (p d a b s) : exec (.imulI64 p d a b) s = execImulI64 p d a b s := rfl
@[simp] theorem exec_shlB64 (p d a b s) : exec (.shlB64 p d a b) s = execShlB64 p d a b s := rfl
@[simp] theorem exec_shrN64 (p d a b s) : exec (.shrN64 p d a b) s = execShrN64 p d a b s := rfl
@[simp] theorem exec_shrI64 (p d a b s) : exec (.shrI64 p d a b) s = execShrI64 p d a b s := rfl
@[simp] theorem exec_iand (p d a b s) : exec (.iand p d a b) s = execIand p d a b s := rfl
@[simp] theorem exec_ior (p d a b s) : exec (.ior p d a b) s = execIor p d a b s := rfl
@[simp] theorem exec_ixor (p d a b s) : exec (.ixor p d a b) s = execIxor p d a b s := rfl
@[simp] theorem exec_iandn (p d a b s) : exec (.iandn p d a b) s = execIandn p d a b s := rfl
@[simp] theorem exec_cmpI32 (p cc pd a b s) : exec (.cmpI32 p cc pd a b) s = execCmpI32 p cc pd a b s := rfl
@[simp] theorem exec_cmpN32 (p cc pd a b s) : exec (.cmpN32 p cc pd a b) s = execCmpN32 p cc pd a b s := rfl
@[simp] theorem exec_cmpI64 (p cc pd a b s) : exec (.cmpI64 p cc pd a b) s = execCmpI64 p cc pd a b s := rfl
@[simp] theorem exec_cmpN64 (p cc pd a b s) : exec (.cmpN64 p cc pd a b) s = execCmpN64 p cc pd a b s := rfl
@[simp] theorem exec_sel (p k d a b s) : exec (.sel p k d a b) s = execSel p k d a b s := rfl
@[simp] theorem exec_mov (p d b s) : exec (.mov p d b) s = execMov p d b s := rfl
@[simp] theorem exec_ldi (p u d imm s) : exec (.ldi p u d imm) s = execLdi p u d imm s := rfl
@[simp] theorem exec_fadd (p m d a b s) : exec (.fadd p m d a b) s = execFadd p m d a b s := rfl
@[simp] theorem exec_fsub (p m d a b s) : exec (.fsub p m d a b) s = execFsub p m d a b s := rfl
@[simp] theorem exec_fmul (p m d a b s) : exec (.fmul p m d a b) s = execFmul p m d a b s := rfl
@[simp] theorem exec_ffma (p m d a b s) : exec (.ffma p m d a b) s = execFfma p m d a b s := rfl
@[simp] theorem exec_fmin (p d a b s) : exec (.fmin p d a b) s = execFmin p d a b s := rfl
@[simp] theorem exec_fmax (p d a b s) : exec (.fmax p d a b) s = execFmax p d a b s := rfl
@[simp] theorem exec_fabs (p d a s) : exec (.fabs p d a) s = execFabs p d a s := rfl
@[simp] theorem exec_fneg (p d a s) : exec (.fneg p d a) s = execFneg p d a s := rfl
@[simp] theorem exec_fcmp (p cc pd a b s) : exec (.fcmp p cc pd a b) s = execFcmp p cc pd a b s := rfl
@[simp] theorem exec_fclass (p d a s) : exec (.fclass p d a) s = execFclass p d a s := rfl
@[simp] theorem exec_frcp (p d a s) : exec (.frcp p d a) s = execFrcp p d a s := rfl
@[simp] theorem exec_fsqrt (p d a s) : exec (.fsqrt p d a) s = execFsqrt p d a s := rfl
@[simp] theorem exec_frsq (p d a s) : exec (.frsq p d a) s = execFrsq p d a s := rfl
@[simp] theorem exec_fexp2 (p d a s) : exec (.fexp2 p d a) s = execFexp2 p d a s := rfl
@[simp] theorem exec_flog2 (p d a s) : exec (.flog2 p d a) s = execFlog2 p d a s := rfl
@[simp] theorem exec_frint (p m d a s) : exec (.frint p m d a) s = execFrint p m d a s := rfl
@[simp] theorem exec_paddBf16 (p d a b s) : exec (.paddBf16 p d a b) s = execPaddBf16 p d a b s := rfl
@[simp] theorem exec_psubBf16 (p d a b s) : exec (.psubBf16 p d a b) s = execPsubBf16 p d a b s := rfl
@[simp] theorem exec_pmulBf16 (p d a b s) : exec (.pmulBf16 p d a b) s = execPmulBf16 p d a b s := rfl
@[simp] theorem exec_pfmaBf16 (p d a b s) : exec (.pfmaBf16 p d a b) s = execPfmaBf16 p d a b s := rfl
@[simp] theorem exec_pminBf16 (p d a b s) : exec (.pminBf16 p d a b) s = execPminBf16 p d a b s := rfl
@[simp] theorem exec_pmaxBf16 (p d a b s) : exec (.pmaxBf16 p d a b) s = execPmaxBf16 p d a b s := rfl
@[simp] theorem exec_pdotBf16 (p d a b s) : exec (.pdotBf16 p d a b) s = execPdotBf16 p d a b s := rfl
@[simp] theorem exec_pdotE4m3 (p d a b s) : exec (.pdotE4m3 p d a b) s = execPdotE4m3 p d a b s := rfl
@[simp] theorem exec_pdotE5m2 (p d a b s) : exec (.pdotE5m2 p d a b) s = execPdotE5m2 p d a b s := rfl
@[simp] theorem exec_pminE4m3 (p d a b s) : exec (.pminE4m3 p d a b) s = execPminE4m3 p d a b s := rfl
@[simp] theorem exec_pmaxE4m3 (p d a b s) : exec (.pmaxE4m3 p d a b) s = execPmaxE4m3 p d a b s := rfl
@[simp] theorem exec_pminE5m2 (p d a b s) : exec (.pminE5m2 p d a b) s = execPminE5m2 p d a b s := rfl
@[simp] theorem exec_pmaxE5m2 (p d a b s) : exec (.pmaxE5m2 p d a b) s = execPmaxE5m2 p d a b s := rfl
@[simp] theorem exec_cvtBf16F32 (p m d a s) : exec (.cvtBf16F32 p m d a) s = execCvtBf16F32 p m d a s := rfl
@[simp] theorem exec_cvtE4m3F32 (p m d a s) : exec (.cvtE4m3F32 p m d a) s = execCvtE4m3F32 p m d a s := rfl
@[simp] theorem exec_cvtE5m2F32 (p m d a s) : exec (.cvtE5m2F32 p m d a) s = execCvtE5m2F32 p m d a s := rfl
@[simp] theorem exec_cvtF32Bf16 (p d a s) : exec (.cvtF32Bf16 p d a) s = execCvtF32Bf16 p d a s := rfl
@[simp] theorem exec_cvtF32E4m3 (p d a s) : exec (.cvtF32E4m3 p d a) s = execCvtF32E4m3 p d a s := rfl
@[simp] theorem exec_cvtF32E5m2 (p d a s) : exec (.cvtF32E5m2 p d a) s = execCvtF32E5m2 p d a s := rfl
@[simp] theorem exec_cvtI32F32 (p m d a s) : exec (.cvtI32F32 p m d a) s = execCvtI32F32 p m d a s := rfl
@[simp] theorem exec_cvtN32F32 (p m d a s) : exec (.cvtN32F32 p m d a) s = execCvtN32F32 p m d a s := rfl
@[simp] theorem exec_cvtF32I32 (p m d a s) : exec (.cvtF32I32 p m d a) s = execCvtF32I32 p m d a s := rfl
@[simp] theorem exec_cvtF32N32 (p m d a s) : exec (.cvtF32N32 p m d a) s = execCvtF32N32 p m d a s := rfl
@[simp] theorem exec_cvtF32I64 (p m d a s) : exec (.cvtF32I64 p m d a) s = execCvtF32I64 p m d a s := rfl
@[simp] theorem exec_packBf16 (p m d a s) : exec (.packBf16 p m d a) s = execPackBf16 p m d a s := rfl
@[simp] theorem exec_packE4m3 (p m d a s) : exec (.packE4m3 p m d a) s = execPackE4m3 p m d a s := rfl
@[simp] theorem exec_packE5m2 (p m d a s) : exec (.packE5m2 p m d a) s = execPackE5m2 p m d a s := rfl
@[simp] theorem exec_pand (p pd pa pb s) : exec (.pand p pd pa pb) s = execPand p pd pa pb s := rfl
@[simp] theorem exec_por (p pd pa pb s) : exec (.por p pd pa pb) s = execPor p pd pa pb s := rfl
@[simp] theorem exec_pxor (p pd pa pb s) : exec (.pxor p pd pa pb) s = execPxor p pd pa pb s := rfl
@[simp] theorem exec_pandn (p pd pa pb s) : exec (.pandn p pd pa pb) s = execPandn p pd pa pb s := rfl
@[simp] theorem exec_psave (p d s) : exec (.psave p d) s = execPsave p d s := rfl
@[simp] theorem exec_prest (p a s) : exec (.prest p a) s = execPrest p a s := rfl
@[simp] theorem exec_voteAny (p pd pa s) : exec (.voteAny p pd pa) s = execVoteAny p pd pa s := rfl
@[simp] theorem exec_voteAll (p pd pa s) : exec (.voteAll p pd pa) s = execVoteAll p pd pa s := rfl
@[simp] theorem exec_voteBallot (p sd pa s) : exec (.voteBallot p sd pa) s = execVoteBallot p sd pa s := rfl
@[simp] theorem exec_voteEq (p pd a s) : exec (.voteEq p pd a) s = execVoteEq p pd a s := rfl
@[simp] theorem exec_shflIdx (p d a b s) : exec (.shflIdx p d a b) s = execShflIdx p d a b s := rfl
@[simp] theorem exec_shflUp (p d a b s) : exec (.shflUp p d a b) s = execShflUp p d a b s := rfl
@[simp] theorem exec_shflDown (p d a b s) : exec (.shflDown p d a b) s = execShflDown p d a b s := rfl
@[simp] theorem exec_shflXor (p d a b s) : exec (.shflXor p d a b) s = execShflXor p d a b s := rfl
@[simp] theorem exec_rdfl (p sd a s) : exec (.rdfl p sd a) s = execRdfl p sd a s := rfl
@[simp] theorem exec_rdln (p sd a b s) : exec (.rdln p sd a b) s = execRdln p sd a b s := rfl
@[simp] theorem exec_bra (p off s) : exec (.bra p off) s = execBra p off s := rfl
@[simp] theorem exec_call (p off s) : exec (.call p off) s = execCall p off s := rfl
@[simp] theorem exec_nop (p s) : exec (.nop p) s = execNop p s := rfl
@[simp] theorem exec_tail (p s) : exec (.tail p) s = execTail p s := rfl
@[simp] theorem exec_yield (p s) : exec (.yield p) s = execYield p s := rfl
@[simp] theorem exec_spawn (p sd ps s) : exec (.spawn p sd ps) s = execSpawn p sd ps s := rfl
@[simp] theorem exec_regroup (p l vkey b s) : exec (.regroup p l vkey b) s = execRegroup p l vkey b s := rfl
@[simp] theorem exec_regroupFlush (p s) : exec (.regroupFlush p) s = execRegroupFlush p s := rfl
@[simp] theorem exec_ret (p s) : exec (.ret p) s = execRet p s := rfl
@[simp] theorem exec_jmp (p sa s) : exec (.jmp p sa) s = execJmp p sa s := rfl
@[simp] theorem exec_callUniform (p sa s) : exec (.callUniform p sa) s = execCallUniform p sa s := rfl
@[simp] theorem exec_ldB8 (p d m s) : exec (.ldB8 p d m) s = execLdB8 p d m s := rfl
@[simp] theorem exec_ldB16 (p d m s) : exec (.ldB16 p d m) s = execLdB16 p d m s := rfl
@[simp] theorem exec_ldB32 (p d m s) : exec (.ldB32 p d m) s = execLdB32 p d m s := rfl
@[simp] theorem exec_ldB64 (p d m s) : exec (.ldB64 p d m) s = execLdB64 p d m s := rfl
@[simp] theorem exec_ldB128 (p d m s) : exec (.ldB128 p d m) s = execLdB128 p d m s := rfl
@[simp] theorem exec_ldI8 (p d m s) : exec (.ldI8 p d m) s = execLdI8 p d m s := rfl
@[simp] theorem exec_ldI16 (p d m s) : exec (.ldI16 p d m) s = execLdI16 p d m s := rfl
@[simp] theorem exec_stB8 (p d m s) : exec (.stB8 p d m) s = execStB8 p d m s := rfl
@[simp] theorem exec_stB16 (p d m s) : exec (.stB16 p d m) s = execStB16 p d m s := rfl
@[simp] theorem exec_stB32 (p d m s) : exec (.stB32 p d m) s = execStB32 p d m s := rfl
@[simp] theorem exec_stB64 (p d m s) : exec (.stB64 p d m) s = execStB64 p d m s := rfl
@[simp] theorem exec_stB128 (p d m s) : exec (.stB128 p d m) s = execStB128 p d m s := rfl
@[simp] theorem exec_atomLd (p x s) : exec (.atomLd p x) s = execAtomLd p x s := rfl
@[simp] theorem exec_atomSt (p x s) : exec (.atomSt p x) s = execAtomSt p x s := rfl
@[simp] theorem exec_atomAdd (p x s) : exec (.atomAdd p x) s = execAtomAdd p x s := rfl
@[simp] theorem exec_atomAnd (p x s) : exec (.atomAnd p x) s = execAtomAnd p x s := rfl
@[simp] theorem exec_atomOr (p x s) : exec (.atomOr p x) s = execAtomOr p x s := rfl
@[simp] theorem exec_atomXor (p x s) : exec (.atomXor p x) s = execAtomXor p x s := rfl
@[simp] theorem exec_atomMinI (p x s) : exec (.atomMinI p x) s = execAtomMinI p x s := rfl
@[simp] theorem exec_atomMinN (p x s) : exec (.atomMinN p x) s = execAtomMinN p x s := rfl
@[simp] theorem exec_atomMaxI (p x s) : exec (.atomMaxI p x) s = execAtomMaxI p x s := rfl
@[simp] theorem exec_atomMaxN (p x s) : exec (.atomMaxN p x) s = execAtomMaxN p x s := rfl
@[simp] theorem exec_atomSwap (p x s) : exec (.atomSwap p x) s = execAtomSwap p x s := rfl
@[simp] theorem exec_atomCas (p x s) : exec (.atomCas p x) s = execAtomCas p x s := rfl
@[simp] theorem exec_atomLdRemote (p d a b64 s) : exec (.atomLdRemote p d a b64) s = execAtomLdRemote p d a b64 s := rfl
@[simp] theorem exec_fence (p k scope s) : exec (.fence p k scope) s = execFence p k scope s := rfl
@[simp] theorem exec_xfence (p from_ to_ s) : exec (.xfence p from_ to_) s = execXfence p from_ to_ s := rfl
@[simp] theorem exec_cflush (p a s) : exec (.cflush p a) s = execCflush p a s := rfl
@[simp] theorem exec_cinv (p a s) : exec (.cinv p a) s = execCinv p a s := rfl
@[simp] theorem exec_cpref (p a s) : exec (.cpref p a) s = execCpref p a s := rfl
@[simp] theorem exec_czero (p a s) : exec (.czero p a) s = execCzero p a s := rfl
@[simp] theorem exec_iinv (p s) : exec (.iinv p) s = execIinv p s := rfl
@[simp] theorem exec_hinit (p d a b s) : exec (.hinit p d a b) s = execHinit p d a b s := rfl
@[simp] theorem exec_help (p a s) : exec (.help p a) s = execHelp p a s := rfl
@[simp] theorem exec_lda (p d a b s) : exec (.lda p d a b) s = execLda p d a b s := rfl
@[simp] theorem exec_apply (p d a b s) : exec (.apply p d a b) s = execApply p d a b s := rfl
@[simp] theorem exec_ares (p d a b s) : exec (.ares p d a b) s = execAres p d a b s := rfl
@[simp] theorem exec_arel (p a b s) : exec (.arel p a b) s = execArel p a b s := rfl
@[simp] theorem exec_annAdd (p d a b s) : exec (.annAdd p d a b) s = execAnnAdd p d a b s := rfl
@[simp] theorem exec_annAnd (p d a b s) : exec (.annAnd p d a b) s = execAnnAnd p d a b s := rfl
@[simp] theorem exec_annOr (p d a b s) : exec (.annOr p d a b) s = execAnnOr p d a b s := rfl
@[simp] theorem exec_annXor (p d a b s) : exec (.annXor p d a b) s = execAnnXor p d a b s := rfl
@[simp] theorem exec_annMin (p d a b s) : exec (.annMin p d a b) s = execAnnMin p d a b s := rfl
@[simp] theorem exec_annMax (p d a b s) : exec (.annMax p d a b) s = execAnnMax p d a b s := rfl
@[simp] theorem exec_annSwap (p d a b s) : exec (.annSwap p d a b) s = execAnnSwap p d a b s := rfl
@[simp] theorem exec_annCas (p d a b s) : exec (.annCas p d a b) s = execAnnCas p d a b s := rfl
@[simp] theorem exec_annCas2 (p d a b s) : exec (.annCas2 p d a b) s = execAnnCas2 p d a b s := rfl
@[simp] theorem exec_annSw (p d a b s) : exec (.annSw p d a b) s = execAnnSw p d a b s := rfl
@[simp] theorem exec_barrTeam (p d s) : exec (.barrTeam p d) s = execBarrTeam p d s := rfl
@[simp] theorem exec_barrCluster (p d s) : exec (.barrCluster p d) s = execBarrCluster p d s := rfl
@[simp] theorem exec_barrDie (p d s) : exec (.barrDie p d) s = execBarrDie p d s := rfl
@[simp] theorem exec_barrGrid (p d s) : exec (.barrGrid p d) s = execBarrGrid p d s := rfl
@[simp] theorem exec_btstTeam (p pd b s) : exec (.btstTeam p pd b) s = execBtstTeam p pd b s := rfl
@[simp] theorem exec_btstCluster (p pd b s) : exec (.btstCluster p pd b) s = execBtstCluster p pd b s := rfl
@[simp] theorem exec_btstDie (p pd b s) : exec (.btstDie p pd b) s = execBtstDie p pd b s := rfl
@[simp] theorem exec_btstGrid (p pd b s) : exec (.btstGrid p pd b) s = execBtstGrid p pd b s := rfl
@[simp] theorem exec_swset (p a b s) : exec (.swset p a b) s = execSwset p a b s := rfl
@[simp] theorem exec_swtst (p pd a b s) : exec (.swtst p pd a b) s = execSwtst p pd a b s := rfl
@[simp] theorem exec_wait (p ld st cp tl s) : exec (.wait p ld st cp tl) s = execWait p ld st cp tl s := rfl
@[simp] theorem exec_cpyB32 (p x s) : exec (.cpyB32 p x) s = execCpyB32 p x s := rfl
@[simp] theorem exec_cpyB64 (p x s) : exec (.cpyB64 p x) s = execCpyB64 p x s := rfl
@[simp] theorem exec_cpyB128 (p x s) : exec (.cpyB128 p x) s = execCpyB128 p x s := rfl
@[simp] theorem exec_bcpy (p ps s) : exec (.bcpy p ps) s = execBcpy p ps s := rfl
@[simp] theorem exec_get (p ps s) : exec (.get p ps) s = execGet p ps s := rfl
@[simp] theorem exec_mma (p reuse ps s) : exec (.mma p reuse ps) s = execMma p reuse ps s := rfl
@[simp] theorem exec_tld (p ps s) : exec (.tld p ps) s = execTld p ps s := rfl
@[simp] theorem exec_tst (p ps s) : exec (.tst p ps) s = execTst p ps s := rfl
@[simp] theorem exec_tzero (p t s) : exec (.tzero p t) s = execTzero p t s := rfl
@[simp] theorem exec_epi (p ps s) : exec (.epi p ps) s = execEpi p ps s := rfl
@[simp] theorem exec_bfly (p ps s) : exec (.bfly p ps) s = execBfly p ps s := rfl
@[simp] theorem exec_gather (p ps s) : exec (.gather p ps) s = execGather p ps s := rfl
@[simp] theorem exec_dist (p ps s) : exec (.dist p ps) s = execDist p ps s := rfl
@[simp] theorem exec_topk (p ps s) : exec (.topk p ps) s = execTopk p ps s := rfl
@[simp] theorem exec_rdsr (p d n s) : exec (.rdsr p d n) s = execRdsr p d n s := rfl
@[simp] theorem exec_wrsr (p n b s) : exec (.wrsr p n b) s = execWrsr p n b s := rfl
@[simp] theorem exec_trap (p d a b s) : exec (.trap p d a b) s = execTrap p d a b s := rfl
@[simp] theorem exec_timeNow (p sd s) : exec (.timeNow p sd) s = execTimeNow p sd s := rfl
@[simp] theorem exec_timeErr (p sd s) : exec (.timeErr p sd) s = execTimeErr p sd s := rfl
@[simp] theorem exec_timeAfter (p pd sa s) : exec (.timeAfter p pd sa) s = execTimeAfter p pd sa s := rfl
@[simp] theorem exec_resume (p sd sa b s) : exec (.resume p sd sa b) s = execResume p sd sa b s := rfl
@[simp] theorem exec_kill (p sd sa b s) : exec (.kill p sd sa b) s = execKill p sd sa b s := rfl
@[simp] theorem exec_srdsr (p sd n b s) : exec (.srdsr p sd n b) s = execSrdsr p sd n b s := rfl
@[simp] theorem exec_swrsr (p n sa b s) : exec (.swrsr p n sa b) s = execSwrsr p n sa b s := rfl
@[simp] theorem exec_sret (p sa s) : exec (.sret p sa) s = execSret p sa s := rfl
@[simp] theorem exec_tlbinv (p m sa sb s) : exec (.tlbinv p m sa sb) s = execTlbinv p m sa sb s := rfl
@[simp] theorem exec_keynew (p sd sa s) : exec (.keynew p sd sa) s = execKeynew p sd sa s := rfl
@[simp] theorem exec_queueOpen (q part desc s) : exec (.queueOpen q part desc) s = execQueueOpen q part desc s := rfl
@[simp] theorem exec_queueStop (q s) : exec (.queueStop q) s = execQueueStop q s := rfl
@[simp] theorem exec_queueRestart (q s) : exec (.queueRestart q) s = execQueueRestart q s := rfl
@[simp] theorem exec_queueClose (q s) : exec (.queueClose q) s = execQueueClose q s := rfl
@[simp] theorem exec_queueReset (q part desc s) : exec (.queueReset q part desc) s = execQueueReset q part desc s := rfl
@[simp] theorem exec_partitionCommit (p desc s) : exec (.partitionCommit p desc) s = execPartitionCommit p desc s := rfl
@[simp] theorem exec_coldReset (o s) : exec (.coldReset o) s = execColdReset o s := rfl
@[simp] theorem exec_firmwareImageReplacement (o s) :
    exec (.firmwareImageReplacement o) s = execFirmwareImageReplacement o s := rfl
@[simp] theorem exec_flitDelivery (l toDie ch fate s) :
    exec (.flitDelivery l toDie ch fate) s = execFlitDelivery l toDie ch fate s := rfl
@[simp] theorem exec_handshakeToken (l toDie ch ack credits stamp s) :
    exec (.handshakeToken l toDie ch ack credits stamp) s = execHandshakeToken l toDie ch ack credits stamp s := rfl
@[simp] theorem exec_linkIdleTimeout (l s) : exec (.linkIdleTimeout l) s = execLinkIdleTimeout l s := rfl
@[simp] theorem exec_linkUp (l s) : exec (.linkUp l) s = execLinkUp l s := rfl
@[simp] theorem exec_wakeTimeout (l s) : exec (.wakeTimeout l) s = execWakeTimeout l s := rfl
@[simp] theorem exec_trainingAttemptEnd (l ok s) :
    exec (.trainingAttemptEnd l ok) s = execTrainingAttemptEnd l ok s := rfl
@[simp] theorem exec_timeTick (d s) : exec (.timeTick d) s = execTimeTick d s := rfl
@[simp] theorem exec_syncInterval (s) : exec (.syncInterval) s = execSyncInterval s := rfl
@[simp] theorem exec_sync (d ext s) : exec (.sync d ext) s = execSync d ext s := rfl
@[simp] theorem exec_followUp (d ext s) : exec (.followUp d ext) s = execFollowUp d ext s := rfl
@[simp] theorem exec_pdelayReq (d ext s) : exec (.pdelayReq d ext) s = execPdelayReq d ext s := rfl
@[simp] theorem exec_pdelayResp (d ext s) : exec (.pdelayResp d ext) s = execPdelayResp d ext s := rfl
@[simp] theorem exec_pdelayRespFollowUp (d ext s) :
    exec (.pdelayRespFollowUp d ext) s = execPdelayRespFollowUp d ext s := rfl
@[simp] theorem exec_holdover (d s) : exec (.holdover d) s = execHoldover d s := rfl
@[simp] theorem exec_boundSaturation (d s) : exec (.boundSaturation d) s = execBoundSaturation d s := rfl
@[simp] theorem exec_masterTimeWrite (t s) : exec (.masterTimeWrite t) s = execMasterTimeWrite t s := rfl
@[simp] theorem exec_issueTurn (core slot refetch s) :
    exec (.issueTurn core slot refetch) s = execIssueTurn core slot refetch s := rfl
@[simp] theorem exec_starvationPromotion (g s) : exec (.starvationPromotion g) s = execStarvationPromotion g s := rfl
@[simp] theorem exec_haltWordLimit (g s) : exec (.haltWordLimit g) s = execHaltWordLimit g s := rfl
@[simp] theorem exec_groupHaltComplete (g s) : exec (.groupHaltComplete g) s = execGroupHaltComplete g s := rfl
@[simp] theorem exec_yieldExpiry (g s) : exec (.yieldExpiry g) s = execYieldExpiry g s := rfl
@[simp] theorem exec_loadCompletion (op accs refill s) :
    exec (.loadCompletion op accs refill) s = execLoadCompletion op accs refill s := rfl
@[simp] theorem exec_storeCompletion (op accs s) :
    exec (.storeCompletion op accs) s = execStoreCompletion op accs s := rfl
@[simp] theorem exec_atomicPerform (op accs s) : exec (.atomicPerform op accs) s = execAtomicPerform op accs s := rfl
@[simp] theorem exec_promotionRequest (core line s) :
    exec (.promotionRequest core line) s = execPromotionRequest core line s := rfl
@[simp] theorem exec_promotionAnswer (line s) : exec (.promotionAnswer line) s = execPromotionAnswer line s := rfl
@[simp] theorem exec_hobPerform (op accs s) : exec (.hobPerform op accs) s = execHobPerform op accs s := rfl
@[simp] theorem exec_l1LogicalTick (core s) : exec (.l1LogicalTick core) s = execL1LogicalTick core s := rfl
@[simp] theorem exec_directoryInvalidation (line vent s) :
    exec (.directoryInvalidation line vent) s = execDirectoryInvalidation line vent s := rfl
@[simp] theorem exec_invalidationAck (line vent s) :
    exec (.invalidationAck line vent) s = execInvalidationAck line vent s := rfl
@[simp] theorem exec_pageWalkComplete (core part ctx va s) :
    exec (.pageWalkComplete core part ctx va) s = execPageWalkComplete core part ctx va s := rfl
@[simp] theorem exec_patrolScrub (site uncorrectable s) :
    exec (.patrolScrub site uncorrectable) s = execPatrolScrub site uncorrectable s := rfl
@[simp] theorem exec_bankGate (u s) : exec (.bankGate u) s = execBankGate u s := rfl
@[simp] theorem exec_bankWake (u s) : exec (.bankWake u) s = execBankWake u s := rfl
@[simp] theorem exec_bankWakeComplete (u ok s) : exec (.bankWakeComplete u ok) s = execBankWakeComplete u ok s := rfl
@[simp] theorem exec_tlbinvComplete (op s) : exec (.tlbinvComplete op) s = execTlbinvComplete op s := rfl
@[simp] theorem exec_groupFormation (core s) : exec (.groupFormation core) s = execGroupFormation core s := rfl
@[simp] theorem exec_binAgeFlush (core s) : exec (.binAgeFlush core) s = execBinAgeFlush core s := rfl
@[simp] theorem exec_binIdleFlush (core s) : exec (.binIdleFlush core) s = execBinIdleFlush core s := rfl
@[simp] theorem exec_binRoomReserve (core s) : exec (.binRoomReserve core) s = execBinRoomReserve core s := rfl
@[simp] theorem exec_teamPlacement (grid num v c k s) :
    exec (.teamPlacement grid num v c k) s = execTeamPlacement grid num v c k s := rfl
@[simp] theorem exec_groupRetirement (g s) : exec (.groupRetirement g) s = execGroupRetirement g s := rfl
@[simp] theorem exec_teamComplete (team s) : exec (.teamComplete team) s = execTeamComplete team s := rfl
@[simp] theorem exec_chargeReport (v c s) : exec (.chargeReport v c) s = execChargeReport v c s := rfl
@[simp] theorem exec_gridComplete (grid s) : exec (.gridComplete grid) s = execGridComplete grid s := rfl
@[simp] theorem exec_childLaunch (v s) : exec (.childLaunch v) s = execChildLaunch v s := rfl
@[simp] theorem exec_matrixCommandComplete (op residueOk s) :
    exec (.matrixCommandComplete op residueOk) s = execMatrixCommandComplete op residueOk s := rfl
@[simp] theorem exec_copyTransfer (op parts storage s) :
    exec (.copyTransfer op parts storage) s = execCopyTransfer op parts storage s := rfl
@[simp] theorem exec_copyComplete (op s) : exec (.copyComplete op) s = execCopyComplete op s := rfl
@[simp] theorem exec_copyFault (op storageError s) :
    exec (.copyFault op storageError) s = execCopyFault op storageError s := rfl
@[simp] theorem exec_getTimeout (op s) : exec (.getTimeout op) s = execGetTimeout op s := rfl
@[simp] theorem exec_gatherCommandComplete (op s) :
    exec (.gatherCommandComplete op) s = execGatherCommandComplete op s := rfl
@[simp] theorem exec_faultAfterIssue (n s) : exec (.faultAfterIssue n) s = execFaultAfterIssue n s := rfl
@[simp] theorem exec_ringPost (part s) : exec (.ringPost part) s = execRingPost part s := rfl
@[simp] theorem exec_lockstepMismatchServiceCore (k s) :
    exec (.lockstepMismatchServiceCore k) s = execLockstepMismatchServiceCore k s := rfl
@[simp] theorem exec_lockstepMismatchCommandProcessor (s) :
    exec (.lockstepMismatchCommandProcessor) s = execLockstepMismatchCommandProcessor s := rfl
@[simp] theorem exec_lockstepMismatchRootMonitor (s) :
    exec (.lockstepMismatchRootMonitor) s = execLockstepMismatchRootMonitor s := rfl
@[simp] theorem exec_kernelEntry (k s) : exec (.kernelEntry k) s = execKernelEntry k s := rfl
@[simp] theorem exec_launch (q ord lrec done s) : exec (.launch q ord lrec done) s = execLaunch q ord lrec done s := rfl
@[simp] theorem exec_launchAt (q ord repl lrec done start peers gen s) :
    exec (.launchAt q ord repl lrec done start peers gen) s = execLaunchAt q ord repl lrec done start peers gen s := rfl
@[simp] theorem exec_graph (q ord gdesc done s) : exec (.graph q ord gdesc done) s = execGraph q ord gdesc done s := rfl
@[simp] theorem exec_signal (q addr value add s) :
    exec (.signal q addr value add) s = execSignal q addr value add s := rfl
@[simp] theorem exec_after (q addr value kind timeout s) :
    exec (.after q addr value kind timeout) s = execAfter q addr value kind timeout s := rfl
@[simp] theorem exec_dispatch (s) : exec (.dispatch) s = execDispatch s := rfl
@[simp] theorem exec_watchedLineRead (entry s) : exec (.watchedLineRead entry) s = execWatchedLineRead entry s := rfl
@[simp] theorem exec_afterPoll (q s) : exec (.afterPoll q) s = execAfterPoll q s := rfl
@[simp] theorem exec_afterTimeout (q s) : exec (.afterTimeout q) s = execAfterTimeout q s := rfl
@[simp] theorem exec_launchAtStart (grid v s) : exec (.launchAtStart grid v) s = execLaunchAtStart grid v s := rfl
@[simp] theorem exec_replicatedCopyReceive (q c s) :
    exec (.replicatedCopyReceive q c) s = execReplicatedCopyReceive q c s := rfl
@[simp] theorem exec_graphNodeStart (launch node s) :
    exec (.graphNodeStart launch node) s = execGraphNodeStart launch node s := rfl
@[simp] theorem exec_heartbeat (v answered s) : exec (.heartbeat v answered) s = execHeartbeat v answered s := rfl
@[simp] theorem exec_schedulerHung (v s) : exec (.schedulerHung v) s = execSchedulerHung v s := rfl
@[simp] theorem exec_commandLinkMessage (v c toLeaf s) :
    exec (.commandLinkMessage v c toLeaf) s = execCommandLinkMessage v c toLeaf s := rfl
@[simp] theorem exec_preemptRequest (r s) : exec (.preemptRequest r) s = execPreemptRequest r s := rfl
@[simp] theorem exec_placementWaitTimeout (grid s) :
    exec (.placementWaitTimeout grid) s = execPlacementWaitTimeout grid s := rfl
@[simp] theorem exec_preemptHalt (n s) : exec (.preemptHalt n) s = execPreemptHalt n s := rfl
@[simp] theorem exec_preemptKill (n s) : exec (.preemptKill n) s = execPreemptKill n s := rfl
@[simp] theorem exec_contextSwapOut (n s) : exec (.contextSwapOut n) s = execContextSwapOut n s := rfl
@[simp] theorem exec_contextSwapIn (n place s) : exec (.contextSwapIn n place) s = execContextSwapIn n place s := rfl
@[simp] theorem exec_keynewComplete (op s) : exec (.keynewComplete op) s = execKeynewComplete op s := rfl
@[simp] theorem exec_tbWindow (s) : exec (.tbWindow) s = execTbWindow s := rfl
@[simp] theorem exec_supervisorRegisterWrite (k n idx value s) :
    exec (.supervisorRegisterWrite k n idx value) s = execSupervisorRegisterWrite k n idx value s := rfl
@[simp] theorem exec_hostCxlMemAccess (port x s) :
    exec (.hostCxlMemAccess port x) s = execHostCxlMemAccess port x s := rfl
@[simp] theorem exec_backInvalidateAck (port line s) :
    exec (.backInvalidateAck port line) s = execBackInvalidateAck port line s := rfl
@[simp] theorem exec_hostLinkDown (port s) : exec (.hostLinkDown port) s = execHostLinkDown port s := rfl
@[simp] theorem exec_hostLinkReturn (port s) : exec (.hostLinkReturn port) s = execHostLinkReturn port s := rfl
@[simp] theorem exec_hostQuarantineExpiry (port s) :
    exec (.hostQuarantineExpiry port) s = execHostQuarantineExpiry port s := rfl
@[simp] theorem exec_cxlCacheSnoop (port line k s) :
    exec (.cxlCacheSnoop port line k) s = execCxlCacheSnoop port line k s := rfl
@[simp] theorem exec_portTraining (port up master s) :
    exec (.portTraining port up master) s = execPortTraining port up master s := rfl

end Sys2Proof.Machine
end

