-- ==== Sys2Proof/Laws/Sparse.lean ====
section
/-! SUPPORT. Sparse lists: reading after a write, and the canonical form. -/

namespace Sys2Proof.Machine

variable {β : Type}

@[simp] theorem sget_nil (z : β) (n : Nat) : sget z [] n = z := rfl

theorem sget_cons (z : β) (e : Nat × β) (m : List (Nat × β)) (n : Nat) :
    sget z (e :: m) n = if e.1 = n then e.2 else sget z m n := rfl

theorem sget_drop (z : β) (m : List (Nat × β)) (n r : Nat) :
    sget z (m.filter fun e => e.1 != n) r = if r = n then z else sget z m r := by
  induction m with
  | nil => simp
  | cons e m ih =>
    by_cases he : e.1 = n
    · rw [List.filter_cons_of_neg (by simpa using he), ih, sget_cons, he]
      by_cases hr : r = n
      · simp [hr]
      · simp [hr, Ne.symm hr]
    · rw [List.filter_cons_of_pos (by simpa using he), sget_cons, sget_cons, ih]
      by_cases h1 : e.1 = r <;> by_cases h2 : r = n <;> simp_all

theorem sget_sinsert_same (z v : β) (m : List (Nat × β)) (n : Nat) (h : ∀ e ∈ m, e.1 ≠ n) :
    sget z (sinsert n v m) n = v := by
  induction m with
  | nil => simp [sinsert, sget_cons]
  | cons e m ih =>
    have he : e.1 ≠ n := h e (by simp)
    unfold sinsert
    split
    · simp [sget_cons]
    · simp [sget_cons, he, ih fun x hx => h x (by simp [hx])]

theorem sget_sinsert_other (z v : β) (m : List (Nat × β)) (n r : Nat) (h : r ≠ n) :
    sget z (sinsert n v m) r = sget z m r := by
  induction m with
  | nil => simp [sinsert, sget_cons, Ne.symm h]
  | cons e m ih =>
    unfold sinsert
    split
    · simp [sget_cons, Ne.symm h]
    · simp [sget_cons, ih]

variable [DecidableEq β]

/-- A read after a write gives the value written at its place, and elsewhere what was there. -/
theorem sget_sput (z v : β) (m : List (Nat × β)) (n r : Nat) :
    sget z (sput z m n v) r = if r = n then v else sget z m r := by
  unfold sput
  by_cases hv : v = z
  · simp only [hv, if_true, sget_drop]
  · simp only [hv, if_false]
    by_cases hr : r = n
    · subst hr
      rw [sget_sinsert_same]
      · simp
      · intro e he
        simpa using (List.mem_filter.mp he).2
    · rw [sget_sinsert_other _ _ _ _ _ hr, sget_drop]
      simp [hr]

@[simp] theorem sget_sput_same (z v : β) (m : List (Nat × β)) (n : Nat) : sget z (sput z m n v) n = v := by
  simp [sget_sput]

theorem sget_sput_other (z v : β) (m : List (Nat × β)) (n r : Nat) (h : r ≠ n) :
    sget z (sput z m n v) r = sget z m r := by simp [sget_sput, h]

/-! ## The canonical form -/

/-- Every place of a list in the canonical form lies above its bound. -/
theorem swf_above (z : β) (m : List (Nat × β)) (lo : Nat) (h : swf z (some lo) m = true) :
    ∀ e ∈ m, lo < e.1 := by
  induction m generalizing lo with
  | nil => simp
  | cons e m ih =>
    simp only [swf, Bool.and_eq_true, decide_eq_true_eq] at h
    intro x hx
    rcases List.mem_cons.mp hx with rfl | hx
    · exact h.1.1
    · exact Nat.lt_trans h.1.1 (ih _ h.2 x hx)

theorem swf_weaken (z : β) (m : List (Nat × β)) (lo lo' : Nat) (h : swf z (some lo') m = true) (hl : lo ≤ lo') :
    swf z (some lo) m = true := by
  cases m with
  | nil => rfl
  | cons e m =>
    simp only [swf, Bool.and_eq_true, decide_eq_true_eq] at h ⊢
    exact ⟨⟨Nat.lt_of_le_of_lt hl h.1.1, h.1.2⟩, h.2⟩

theorem swf_none (z : β) (m : List (Nat × β)) (lo : Nat) (h : swf z (some lo) m = true) : swf z none m = true := by
  cases m with
  | nil => rfl
  | cons e m =>
    simp only [swf, Bool.and_eq_true, decide_eq_true_eq] at h ⊢
    exact ⟨⟨trivial, h.1.2⟩, h.2⟩

theorem swf_filter (z : β) (p : Nat × β → Bool) (m : List (Nat × β)) (lo : Nat) (h : swf z (some lo) m = true) :
    swf z (some lo) (m.filter p) = true := by
  induction m generalizing lo with
  | nil => rfl
  | cons e m ih =>
    simp only [swf, Bool.and_eq_true, decide_eq_true_eq] at h
    by_cases hp : p e = true
    · rw [List.filter_cons_of_pos hp]
      simp only [swf, Bool.and_eq_true, decide_eq_true_eq]
      exact ⟨h.1, ih _ h.2⟩
    · rw [List.filter_cons_of_neg hp]
      exact swf_weaken z _ lo e.1 (ih _ h.2) (Nat.le_of_lt h.1.1)

theorem swf_filter_none (z : β) (p : Nat × β → Bool) (m : List (Nat × β)) (h : swf z none m = true) :
    swf z none (m.filter p) = true := by
  cases m with
  | nil => rfl
  | cons e m =>
    simp only [swf, Bool.and_eq_true, decide_eq_true_eq] at h
    by_cases hp : p e = true
    · rw [List.filter_cons_of_pos hp]
      simp only [swf, Bool.and_eq_true, decide_eq_true_eq]
      exact ⟨⟨trivial, h.1.2⟩, swf_filter z p m _ h.2⟩
    · rw [List.filter_cons_of_neg hp]
      exact swf_none z _ e.1 (swf_filter z p m _ h.2)

theorem swf_sinsert (z v : β) (m : List (Nat × β)) (n lo : Nat) (h : swf z (some lo) m = true) (hv : v ≠ z)
    (hn : ∀ e ∈ m, e.1 ≠ n) (hl : lo < n) : swf z (some lo) (sinsert n v m) = true := by
  induction m generalizing lo with
  | nil => simp [sinsert, swf, hl, hv]
  | cons e m ih =>
    simp only [swf, Bool.and_eq_true, decide_eq_true_eq] at h
    unfold sinsert
    split
    · rename_i hlt
      simp only [swf, Bool.and_eq_true, decide_eq_true_eq]
      exact ⟨⟨hl, hv⟩, ⟨hlt, h.1.2⟩, h.2⟩
    · rename_i hge
      have he : e.1 ≠ n := hn e (by simp)
      simp only [swf, Bool.and_eq_true, decide_eq_true_eq]
      exact ⟨h.1, ih _ h.2 (fun x hx => hn x (by simp [hx])) (by omega)⟩

theorem swf_sinsert_none (z v : β) (m : List (Nat × β)) (n : Nat) (h : swf z none m = true) (hv : v ≠ z)
    (hn : ∀ e ∈ m, e.1 ≠ n) : swf z none (sinsert n v m) = true := by
  cases m with
  | nil => simp [sinsert, swf, hv]
  | cons e m =>
    simp only [swf, Bool.and_eq_true, decide_eq_true_eq] at h
    unfold sinsert
    split
    · rename_i hlt
      simp only [swf, Bool.and_eq_true, decide_eq_true_eq]
      exact ⟨⟨trivial, hv⟩, ⟨hlt, h.1.2⟩, h.2⟩
    · rename_i hge
      have he : e.1 ≠ n := hn e (by simp)
      simp only [swf, Bool.and_eq_true, decide_eq_true_eq]
      exact ⟨⟨trivial, h.1.2⟩, swf_sinsert z v m n e.1 h.2 hv (fun x hx => hn x (by simp [hx])) (by omega)⟩

/-- A write keeps the canonical form. -/
theorem swf_sput (z v : β) (m : List (Nat × β)) (n : Nat) (h : swf z none m = true) :
    swf z none (sput z m n v) = true := by
  unfold sput
  by_cases hv : v = z
  · simp only [hv, if_true]
    exact swf_filter_none z _ m h
  · simp only [hv, if_false]
    refine swf_sinsert_none z v _ n (swf_filter_none z _ m h) hv fun e he => ?_
    simpa using (List.mem_filter.mp he).2

end Sys2Proof.Machine
end

