-- ==== Sys2Proof/Laws/State.lean ====
section
/-! SUPPORT. What each update of the state leaves alone, one lemma per field and update. -/

namespace Sys2Proof.Machine

/-! ## onTime -/

@[simp] theorem State.onTime_agenda (s : State) (d : DieId) (f : TimeReg → TimeReg) : (s.onTime d f).agenda = s.agenda := rfl
@[simp] theorem State.onTime_issueQ (s : State) (d : DieId) (f : TimeReg → TimeReg) : (s.onTime d f).issueQ = s.issueQ := rfl
@[simp] theorem State.onTime_turn (s : State) (d : DieId) (f : TimeReg → TimeReg) : (s.onTime d f).turn = s.turn := rfl
@[simp] theorem State.onTime_round (s : State) (d : DieId) (f : TimeReg → TimeReg) : (s.onTime d f).round = s.round := rfl
@[simp] theorem State.onTime_fresh (s : State) (d : DieId) (f : TimeReg → TimeReg) : (s.onTime d f).fresh = s.fresh := rfl
@[simp] theorem State.onTime_nextKey (s : State) (d : DieId) (f : TimeReg → TimeReg) : (s.onTime d f).nextKey = s.nextKey := rfl
@[simp] theorem State.onTime_nextGrid (s : State) (d : DieId) (f : TimeReg → TimeReg) : (s.onTime d f).nextGrid = s.nextGrid := rfl
@[simp] theorem State.onTime_code (s : State) (d : DieId) (f : TimeReg → TimeReg) : (s.onTime d f).code = s.code := rfl
@[simp] theorem State.onTime_fused (s : State) (d : DieId) (f : TimeReg → TimeReg) : (s.onTime d f).fused = s.fused := rfl
@[simp] theorem State.onTime_info (s : State) (d : DieId) (f : TimeReg → TimeReg) : (s.onTime d f).info = s.info := rfl
@[simp] theorem State.onTime_inRom (s : State) (d : DieId) (f : TimeReg → TimeReg) : (s.onTime d f).inRom = s.inRom := rfl
@[simp] theorem State.onTime_links (s : State) (d : DieId) (f : TimeReg → TimeReg) : (s.onTime d f).links = s.links := rfl
@[simp] theorem State.onTime_masterSet (s : State) (d : DieId) (f : TimeReg → TimeReg) : (s.onTime d f).masterSet = s.masterSet := rfl
@[simp] theorem State.onTime_fabric (s : State) (d : DieId) (f : TimeReg → TimeReg) : (s.onTime d f).fabric = s.fabric := rfl
@[simp] theorem State.onTime_mem (s : State) (d : DieId) (f : TimeReg → TimeReg) : (s.onTime d f).mem = s.mem := rfl
@[simp] theorem State.onTime_scrambled (s : State) (d : DieId) (f : TimeReg → TimeReg) : (s.onTime d f).scrambled = s.scrambled := rfl
@[simp] theorem State.onTime_l2 (s : State) (d : DieId) (f : TimeReg → TimeReg) : (s.onTime d f).l2 = s.l2 := rfl
@[simp] theorem State.onTime_ownReqs (s : State) (d : DieId) (f : TimeReg → TimeReg) : (s.onTime d f).ownReqs = s.ownReqs := rfl
@[simp] theorem State.onTime_maxLease (s : State) (d : DieId) (f : TimeReg → TimeReg) : (s.onTime d f).maxLease = s.maxLease := rfl
@[simp] theorem State.onTime_lost (s : State) (d : DieId) (f : TimeReg → TimeReg) : (s.onTime d f).lost = s.lost := rfl
@[simp] theorem State.onTime_narrow (s : State) (d : DieId) (f : TimeReg → TimeReg) : (s.onTime d f).narrow = s.narrow := rfl
@[simp] theorem State.onTime_debugLog (s : State) (d : DieId) (f : TimeReg → TimeReg) : (s.onTime d f).debugLog = s.debugLog := rfl
@[simp] theorem State.onTime_gatedWays (s : State) (d : DieId) (f : TimeReg → TimeReg) : (s.onTime d f).gatedWays = s.gatedWays := rfl
@[simp] theorem State.onTime_groups (s : State) (d : DieId) (f : TimeReg → TimeReg) : (s.onTime d f).groups = s.groups := rfl
@[simp] theorem State.onTime_ops (s : State) (d : DieId) (f : TimeReg → TimeReg) : (s.onTime d f).ops = s.ops := rfl
@[simp] theorem State.onTime_nextOp (s : State) (d : DieId) (f : TimeReg → TimeReg) : (s.onTime d f).nextOp = s.nextOp := rfl
@[simp] theorem State.onTime_trackers (s : State) (d : DieId) (f : TimeReg → TimeReg) : (s.onTime d f).trackers = s.trackers := rfl
@[simp] theorem State.onTime_lateFaults (s : State) (d : DieId) (f : TimeReg → TimeReg) : (s.onTime d f).lateFaults = s.lateFaults := rfl
@[simp] theorem State.onTime_parkings (s : State) (d : DieId) (f : TimeReg → TimeReg) : (s.onTime d f).parkings = s.parkings := rfl
@[simp] theorem State.onTime_cores (s : State) (d : DieId) (f : TimeReg → TimeReg) : (s.onTime d f).cores = s.cores := rfl
@[simp] theorem State.onTime_teams (s : State) (d : DieId) (f : TimeReg → TimeReg) : (s.onTime d f).teams = s.teams := rfl
@[simp] theorem State.onTime_grids (s : State) (d : DieId) (f : TimeReg → TimeReg) : (s.onTime d f).grids = s.grids := rfl
@[simp] theorem State.onTime_parts (s : State) (d : DieId) (f : TimeReg → TimeReg) : (s.onTime d f).parts = s.parts := rfl
@[simp] theorem State.onTime_keys (s : State) (d : DieId) (f : TimeReg → TimeReg) : (s.onTime d f).keys = s.keys := rfl
@[simp] theorem State.onTime_queues (s : State) (d : DieId) (f : TimeReg → TimeReg) : (s.onTime d f).queues = s.queues := rfl
@[simp] theorem State.onTime_monitors (s : State) (d : DieId) (f : TimeReg → TimeReg) : (s.onTime d f).monitors = s.monitors := rfl
@[simp] theorem State.onTime_insts (s : State) (d : DieId) (f : TimeReg → TimeReg) : (s.onTime d f).insts = s.insts := rfl
@[simp] theorem State.onTime_launches (s : State) (d : DieId) (f : TimeReg → TimeReg) : (s.onTime d f).launches = s.launches := rfl
@[simp] theorem State.onTime_rounds (s : State) (d : DieId) (f : TimeReg → TimeReg) : (s.onTime d f).rounds = s.rounds := rfl
@[simp] theorem State.onTime_scheds (s : State) (d : DieId) (f : TimeReg → TimeReg) : (s.onTime d f).scheds = s.scheds := rfl
@[simp] theorem State.onTime_cmdLinks (s : State) (d : DieId) (f : TimeReg → TimeReg) : (s.onTime d f).cmdLinks = s.cmdLinks := rfl
@[simp] theorem State.onTime_preempts (s : State) (d : DieId) (f : TimeReg → TimeReg) : (s.onTime d f).preempts = s.preempts := rfl
@[simp] theorem State.onTime_ports (s : State) (d : DieId) (f : TimeReg → TimeReg) : (s.onTime d f).ports = s.ports := rfl
@[simp] theorem State.onTime_hostLog (s : State) (d : DieId) (f : TimeReg → TimeReg) : (s.onTime d f).hostLog = s.hostLog := rfl
@[simp] theorem State.onTime_peerOut (s : State) (d : DieId) (f : TimeReg → TimeReg) : (s.onTime d f).peerOut = s.peerOut := rfl
@[simp] theorem State.onTime_marks (s : State) (d : DieId) (f : TimeReg → TimeReg) : (s.onTime d f).marks = s.marks := rfl
@[simp] theorem State.onTime_units (s : State) (d : DieId) (f : TimeReg → TimeReg) : (s.onTime d f).units = s.units := rfl
@[simp] theorem State.onTime_devWrites (s : State) (d : DieId) (f : TimeReg → TimeReg) : (s.onTime d f).devWrites = s.devWrites := rfl
@[simp] theorem State.onTime_retry (s : State) (d : DieId) (f : TimeReg → TimeReg) : (s.onTime d f).retry = s.retry := rfl
@[simp] theorem State.onTime_served (s : State) (d : DieId) (f : TimeReg → TimeReg) : (s.onTime d f).served = s.served := rfl
@[simp] theorem State.onTime_posted (s : State) (d : DieId) (f : TimeReg → TimeReg) : (s.onTime d f).posted = s.posted := rfl
@[simp] theorem State.onTime_past (s : State) (d : DieId) (f : TimeReg → TimeReg) : (s.onTime d f).past = s.past := rfl
@[simp] theorem State.onTime_acquires (s : State) (d : DieId) (f : TimeReg → TimeReg) : (s.onTime d f).acquires = s.acquires := rfl

/-! ## onLink -/

@[simp] theorem State.onLink_agenda (s : State) (d : DieId) (f : Link → Link) : (s.onLink d f).agenda = s.agenda := rfl
@[simp] theorem State.onLink_issueQ (s : State) (d : DieId) (f : Link → Link) : (s.onLink d f).issueQ = s.issueQ := rfl
@[simp] theorem State.onLink_turn (s : State) (d : DieId) (f : Link → Link) : (s.onLink d f).turn = s.turn := rfl
@[simp] theorem State.onLink_round (s : State) (d : DieId) (f : Link → Link) : (s.onLink d f).round = s.round := rfl
@[simp] theorem State.onLink_fresh (s : State) (d : DieId) (f : Link → Link) : (s.onLink d f).fresh = s.fresh := rfl
@[simp] theorem State.onLink_nextKey (s : State) (d : DieId) (f : Link → Link) : (s.onLink d f).nextKey = s.nextKey := rfl
@[simp] theorem State.onLink_nextGrid (s : State) (d : DieId) (f : Link → Link) : (s.onLink d f).nextGrid = s.nextGrid := rfl
@[simp] theorem State.onLink_code (s : State) (d : DieId) (f : Link → Link) : (s.onLink d f).code = s.code := rfl
@[simp] theorem State.onLink_fused (s : State) (d : DieId) (f : Link → Link) : (s.onLink d f).fused = s.fused := rfl
@[simp] theorem State.onLink_info (s : State) (d : DieId) (f : Link → Link) : (s.onLink d f).info = s.info := rfl
@[simp] theorem State.onLink_inRom (s : State) (d : DieId) (f : Link → Link) : (s.onLink d f).inRom = s.inRom := rfl
@[simp] theorem State.onLink_times (s : State) (d : DieId) (f : Link → Link) : (s.onLink d f).times = s.times := rfl
@[simp] theorem State.onLink_masterSet (s : State) (d : DieId) (f : Link → Link) : (s.onLink d f).masterSet = s.masterSet := rfl
@[simp] theorem State.onLink_fabric (s : State) (d : DieId) (f : Link → Link) : (s.onLink d f).fabric = s.fabric := rfl
@[simp] theorem State.onLink_mem (s : State) (d : DieId) (f : Link → Link) : (s.onLink d f).mem = s.mem := rfl
@[simp] theorem State.onLink_scrambled (s : State) (d : DieId) (f : Link → Link) : (s.onLink d f).scrambled = s.scrambled := rfl
@[simp] theorem State.onLink_l2 (s : State) (d : DieId) (f : Link → Link) : (s.onLink d f).l2 = s.l2 := rfl
@[simp] theorem State.onLink_ownReqs (s : State) (d : DieId) (f : Link → Link) : (s.onLink d f).ownReqs = s.ownReqs := rfl
@[simp] theorem State.onLink_maxLease (s : State) (d : DieId) (f : Link → Link) : (s.onLink d f).maxLease = s.maxLease := rfl
@[simp] theorem State.onLink_lost (s : State) (d : DieId) (f : Link → Link) : (s.onLink d f).lost = s.lost := rfl
@[simp] theorem State.onLink_narrow (s : State) (d : DieId) (f : Link → Link) : (s.onLink d f).narrow = s.narrow := rfl
@[simp] theorem State.onLink_debugLog (s : State) (d : DieId) (f : Link → Link) : (s.onLink d f).debugLog = s.debugLog := rfl
@[simp] theorem State.onLink_gatedWays (s : State) (d : DieId) (f : Link → Link) : (s.onLink d f).gatedWays = s.gatedWays := rfl
@[simp] theorem State.onLink_groups (s : State) (d : DieId) (f : Link → Link) : (s.onLink d f).groups = s.groups := rfl
@[simp] theorem State.onLink_ops (s : State) (d : DieId) (f : Link → Link) : (s.onLink d f).ops = s.ops := rfl
@[simp] theorem State.onLink_nextOp (s : State) (d : DieId) (f : Link → Link) : (s.onLink d f).nextOp = s.nextOp := rfl
@[simp] theorem State.onLink_trackers (s : State) (d : DieId) (f : Link → Link) : (s.onLink d f).trackers = s.trackers := rfl
@[simp] theorem State.onLink_lateFaults (s : State) (d : DieId) (f : Link → Link) : (s.onLink d f).lateFaults = s.lateFaults := rfl
@[simp] theorem State.onLink_parkings (s : State) (d : DieId) (f : Link → Link) : (s.onLink d f).parkings = s.parkings := rfl
@[simp] theorem State.onLink_cores (s : State) (d : DieId) (f : Link → Link) : (s.onLink d f).cores = s.cores := rfl
@[simp] theorem State.onLink_teams (s : State) (d : DieId) (f : Link → Link) : (s.onLink d f).teams = s.teams := rfl
@[simp] theorem State.onLink_grids (s : State) (d : DieId) (f : Link → Link) : (s.onLink d f).grids = s.grids := rfl
@[simp] theorem State.onLink_parts (s : State) (d : DieId) (f : Link → Link) : (s.onLink d f).parts = s.parts := rfl
@[simp] theorem State.onLink_keys (s : State) (d : DieId) (f : Link → Link) : (s.onLink d f).keys = s.keys := rfl
@[simp] theorem State.onLink_queues (s : State) (d : DieId) (f : Link → Link) : (s.onLink d f).queues = s.queues := rfl
@[simp] theorem State.onLink_monitors (s : State) (d : DieId) (f : Link → Link) : (s.onLink d f).monitors = s.monitors := rfl
@[simp] theorem State.onLink_insts (s : State) (d : DieId) (f : Link → Link) : (s.onLink d f).insts = s.insts := rfl
@[simp] theorem State.onLink_launches (s : State) (d : DieId) (f : Link → Link) : (s.onLink d f).launches = s.launches := rfl
@[simp] theorem State.onLink_rounds (s : State) (d : DieId) (f : Link → Link) : (s.onLink d f).rounds = s.rounds := rfl
@[simp] theorem State.onLink_scheds (s : State) (d : DieId) (f : Link → Link) : (s.onLink d f).scheds = s.scheds := rfl
@[simp] theorem State.onLink_cmdLinks (s : State) (d : DieId) (f : Link → Link) : (s.onLink d f).cmdLinks = s.cmdLinks := rfl
@[simp] theorem State.onLink_preempts (s : State) (d : DieId) (f : Link → Link) : (s.onLink d f).preempts = s.preempts := rfl
@[simp] theorem State.onLink_ports (s : State) (d : DieId) (f : Link → Link) : (s.onLink d f).ports = s.ports := rfl
@[simp] theorem State.onLink_hostLog (s : State) (d : DieId) (f : Link → Link) : (s.onLink d f).hostLog = s.hostLog := rfl
@[simp] theorem State.onLink_peerOut (s : State) (d : DieId) (f : Link → Link) : (s.onLink d f).peerOut = s.peerOut := rfl
@[simp] theorem State.onLink_marks (s : State) (d : DieId) (f : Link → Link) : (s.onLink d f).marks = s.marks := rfl
@[simp] theorem State.onLink_units (s : State) (d : DieId) (f : Link → Link) : (s.onLink d f).units = s.units := rfl
@[simp] theorem State.onLink_devWrites (s : State) (d : DieId) (f : Link → Link) : (s.onLink d f).devWrites = s.devWrites := rfl
@[simp] theorem State.onLink_retry (s : State) (d : DieId) (f : Link → Link) : (s.onLink d f).retry = s.retry := rfl
@[simp] theorem State.onLink_served (s : State) (d : DieId) (f : Link → Link) : (s.onLink d f).served = s.served := rfl
@[simp] theorem State.onLink_posted (s : State) (d : DieId) (f : Link → Link) : (s.onLink d f).posted = s.posted := rfl
@[simp] theorem State.onLink_past (s : State) (d : DieId) (f : Link → Link) : (s.onLink d f).past = s.past := rfl
@[simp] theorem State.onLink_acquires (s : State) (d : DieId) (f : Link → Link) : (s.onLink d f).acquires = s.acquires := rfl

/-! ## writeByte -/

@[simp] theorem State.writeByte_agenda (s : State) (key : Nat) (b : Byte) : (s.writeByte key b).agenda = s.agenda := rfl
@[simp] theorem State.writeByte_issueQ (s : State) (key : Nat) (b : Byte) : (s.writeByte key b).issueQ = s.issueQ := rfl
@[simp] theorem State.writeByte_turn (s : State) (key : Nat) (b : Byte) : (s.writeByte key b).turn = s.turn := rfl
@[simp] theorem State.writeByte_round (s : State) (key : Nat) (b : Byte) : (s.writeByte key b).round = s.round := rfl
@[simp] theorem State.writeByte_fresh (s : State) (key : Nat) (b : Byte) : (s.writeByte key b).fresh = s.fresh := rfl
@[simp] theorem State.writeByte_nextKey (s : State) (key : Nat) (b : Byte) : (s.writeByte key b).nextKey = s.nextKey := rfl
@[simp] theorem State.writeByte_nextGrid (s : State) (key : Nat) (b : Byte) : (s.writeByte key b).nextGrid = s.nextGrid := rfl
@[simp] theorem State.writeByte_code (s : State) (key : Nat) (b : Byte) : (s.writeByte key b).code = s.code := rfl
@[simp] theorem State.writeByte_fused (s : State) (key : Nat) (b : Byte) : (s.writeByte key b).fused = s.fused := rfl
@[simp] theorem State.writeByte_info (s : State) (key : Nat) (b : Byte) : (s.writeByte key b).info = s.info := rfl
@[simp] theorem State.writeByte_inRom (s : State) (key : Nat) (b : Byte) : (s.writeByte key b).inRom = s.inRom := rfl
@[simp] theorem State.writeByte_links (s : State) (key : Nat) (b : Byte) : (s.writeByte key b).links = s.links := rfl
@[simp] theorem State.writeByte_times (s : State) (key : Nat) (b : Byte) : (s.writeByte key b).times = s.times := rfl
@[simp] theorem State.writeByte_masterSet (s : State) (key : Nat) (b : Byte) : (s.writeByte key b).masterSet = s.masterSet := rfl
@[simp] theorem State.writeByte_fabric (s : State) (key : Nat) (b : Byte) : (s.writeByte key b).fabric = s.fabric := rfl
@[simp] theorem State.writeByte_l2 (s : State) (key : Nat) (b : Byte) : (s.writeByte key b).l2 = s.l2 := rfl
@[simp] theorem State.writeByte_ownReqs (s : State) (key : Nat) (b : Byte) : (s.writeByte key b).ownReqs = s.ownReqs := rfl
@[simp] theorem State.writeByte_maxLease (s : State) (key : Nat) (b : Byte) : (s.writeByte key b).maxLease = s.maxLease := rfl
@[simp] theorem State.writeByte_lost (s : State) (key : Nat) (b : Byte) : (s.writeByte key b).lost = s.lost := rfl
@[simp] theorem State.writeByte_narrow (s : State) (key : Nat) (b : Byte) : (s.writeByte key b).narrow = s.narrow := rfl
@[simp] theorem State.writeByte_debugLog (s : State) (key : Nat) (b : Byte) : (s.writeByte key b).debugLog = s.debugLog := rfl
@[simp] theorem State.writeByte_gatedWays (s : State) (key : Nat) (b : Byte) : (s.writeByte key b).gatedWays = s.gatedWays := rfl
@[simp] theorem State.writeByte_groups (s : State) (key : Nat) (b : Byte) : (s.writeByte key b).groups = s.groups := rfl
@[simp] theorem State.writeByte_ops (s : State) (key : Nat) (b : Byte) : (s.writeByte key b).ops = s.ops := rfl
@[simp] theorem State.writeByte_nextOp (s : State) (key : Nat) (b : Byte) : (s.writeByte key b).nextOp = s.nextOp := rfl
@[simp] theorem State.writeByte_trackers (s : State) (key : Nat) (b : Byte) : (s.writeByte key b).trackers = s.trackers := rfl
@[simp] theorem State.writeByte_lateFaults (s : State) (key : Nat) (b : Byte) : (s.writeByte key b).lateFaults = s.lateFaults := rfl
@[simp] theorem State.writeByte_parkings (s : State) (key : Nat) (b : Byte) : (s.writeByte key b).parkings = s.parkings := rfl
@[simp] theorem State.writeByte_cores (s : State) (key : Nat) (b : Byte) : (s.writeByte key b).cores = s.cores := rfl
@[simp] theorem State.writeByte_teams (s : State) (key : Nat) (b : Byte) : (s.writeByte key b).teams = s.teams := rfl
@[simp] theorem State.writeByte_grids (s : State) (key : Nat) (b : Byte) : (s.writeByte key b).grids = s.grids := rfl
@[simp] theorem State.writeByte_parts (s : State) (key : Nat) (b : Byte) : (s.writeByte key b).parts = s.parts := rfl
@[simp] theorem State.writeByte_keys (s : State) (key : Nat) (b : Byte) : (s.writeByte key b).keys = s.keys := rfl
@[simp] theorem State.writeByte_queues (s : State) (key : Nat) (b : Byte) : (s.writeByte key b).queues = s.queues := rfl
@[simp] theorem State.writeByte_monitors (s : State) (key : Nat) (b : Byte) : (s.writeByte key b).monitors = s.monitors := rfl
@[simp] theorem State.writeByte_insts (s : State) (key : Nat) (b : Byte) : (s.writeByte key b).insts = s.insts := rfl
@[simp] theorem State.writeByte_launches (s : State) (key : Nat) (b : Byte) : (s.writeByte key b).launches = s.launches := rfl
@[simp] theorem State.writeByte_rounds (s : State) (key : Nat) (b : Byte) : (s.writeByte key b).rounds = s.rounds := rfl
@[simp] theorem State.writeByte_scheds (s : State) (key : Nat) (b : Byte) : (s.writeByte key b).scheds = s.scheds := rfl
@[simp] theorem State.writeByte_cmdLinks (s : State) (key : Nat) (b : Byte) : (s.writeByte key b).cmdLinks = s.cmdLinks := rfl
@[simp] theorem State.writeByte_preempts (s : State) (key : Nat) (b : Byte) : (s.writeByte key b).preempts = s.preempts := rfl
@[simp] theorem State.writeByte_ports (s : State) (key : Nat) (b : Byte) : (s.writeByte key b).ports = s.ports := rfl
@[simp] theorem State.writeByte_hostLog (s : State) (key : Nat) (b : Byte) : (s.writeByte key b).hostLog = s.hostLog := rfl
@[simp] theorem State.writeByte_peerOut (s : State) (key : Nat) (b : Byte) : (s.writeByte key b).peerOut = s.peerOut := rfl
@[simp] theorem State.writeByte_marks (s : State) (key : Nat) (b : Byte) : (s.writeByte key b).marks = s.marks := rfl
@[simp] theorem State.writeByte_units (s : State) (key : Nat) (b : Byte) : (s.writeByte key b).units = s.units := rfl
@[simp] theorem State.writeByte_devWrites (s : State) (key : Nat) (b : Byte) : (s.writeByte key b).devWrites = s.devWrites := rfl
@[simp] theorem State.writeByte_retry (s : State) (key : Nat) (b : Byte) : (s.writeByte key b).retry = s.retry := rfl
@[simp] theorem State.writeByte_served (s : State) (key : Nat) (b : Byte) : (s.writeByte key b).served = s.served := rfl
@[simp] theorem State.writeByte_posted (s : State) (key : Nat) (b : Byte) : (s.writeByte key b).posted = s.posted := rfl
@[simp] theorem State.writeByte_past (s : State) (key : Nat) (b : Byte) : (s.writeByte key b).past = s.past := rfl
@[simp] theorem State.writeByte_acquires (s : State) (key : Nat) (b : Byte) : (s.writeByte key b).acquires = s.acquires := rfl

/-! ## setCore -/

@[simp] theorem State.setCore_agenda (s : State) (c : CoreId) (f : CoreState → CoreState) : (s.setCore c f).agenda = s.agenda := rfl
@[simp] theorem State.setCore_issueQ (s : State) (c : CoreId) (f : CoreState → CoreState) : (s.setCore c f).issueQ = s.issueQ := rfl
@[simp] theorem State.setCore_turn (s : State) (c : CoreId) (f : CoreState → CoreState) : (s.setCore c f).turn = s.turn := rfl
@[simp] theorem State.setCore_round (s : State) (c : CoreId) (f : CoreState → CoreState) : (s.setCore c f).round = s.round := rfl
@[simp] theorem State.setCore_fresh (s : State) (c : CoreId) (f : CoreState → CoreState) : (s.setCore c f).fresh = s.fresh := rfl
@[simp] theorem State.setCore_nextKey (s : State) (c : CoreId) (f : CoreState → CoreState) : (s.setCore c f).nextKey = s.nextKey := rfl
@[simp] theorem State.setCore_nextGrid (s : State) (c : CoreId) (f : CoreState → CoreState) : (s.setCore c f).nextGrid = s.nextGrid := rfl
@[simp] theorem State.setCore_code (s : State) (c : CoreId) (f : CoreState → CoreState) : (s.setCore c f).code = s.code := rfl
@[simp] theorem State.setCore_fused (s : State) (c : CoreId) (f : CoreState → CoreState) : (s.setCore c f).fused = s.fused := rfl
@[simp] theorem State.setCore_info (s : State) (c : CoreId) (f : CoreState → CoreState) : (s.setCore c f).info = s.info := rfl
@[simp] theorem State.setCore_inRom (s : State) (c : CoreId) (f : CoreState → CoreState) : (s.setCore c f).inRom = s.inRom := rfl
@[simp] theorem State.setCore_links (s : State) (c : CoreId) (f : CoreState → CoreState) : (s.setCore c f).links = s.links := rfl
@[simp] theorem State.setCore_times (s : State) (c : CoreId) (f : CoreState → CoreState) : (s.setCore c f).times = s.times := rfl
@[simp] theorem State.setCore_masterSet (s : State) (c : CoreId) (f : CoreState → CoreState) : (s.setCore c f).masterSet = s.masterSet := rfl
@[simp] theorem State.setCore_fabric (s : State) (c : CoreId) (f : CoreState → CoreState) : (s.setCore c f).fabric = s.fabric := rfl
@[simp] theorem State.setCore_mem (s : State) (c : CoreId) (f : CoreState → CoreState) : (s.setCore c f).mem = s.mem := rfl
@[simp] theorem State.setCore_scrambled (s : State) (c : CoreId) (f : CoreState → CoreState) : (s.setCore c f).scrambled = s.scrambled := rfl
@[simp] theorem State.setCore_l2 (s : State) (c : CoreId) (f : CoreState → CoreState) : (s.setCore c f).l2 = s.l2 := rfl
@[simp] theorem State.setCore_ownReqs (s : State) (c : CoreId) (f : CoreState → CoreState) : (s.setCore c f).ownReqs = s.ownReqs := rfl
@[simp] theorem State.setCore_maxLease (s : State) (c : CoreId) (f : CoreState → CoreState) : (s.setCore c f).maxLease = s.maxLease := rfl
@[simp] theorem State.setCore_lost (s : State) (c : CoreId) (f : CoreState → CoreState) : (s.setCore c f).lost = s.lost := rfl
@[simp] theorem State.setCore_narrow (s : State) (c : CoreId) (f : CoreState → CoreState) : (s.setCore c f).narrow = s.narrow := rfl
@[simp] theorem State.setCore_debugLog (s : State) (c : CoreId) (f : CoreState → CoreState) : (s.setCore c f).debugLog = s.debugLog := rfl
@[simp] theorem State.setCore_gatedWays (s : State) (c : CoreId) (f : CoreState → CoreState) : (s.setCore c f).gatedWays = s.gatedWays := rfl
@[simp] theorem State.setCore_groups (s : State) (c : CoreId) (f : CoreState → CoreState) : (s.setCore c f).groups = s.groups := rfl
@[simp] theorem State.setCore_ops (s : State) (c : CoreId) (f : CoreState → CoreState) : (s.setCore c f).ops = s.ops := rfl
@[simp] theorem State.setCore_nextOp (s : State) (c : CoreId) (f : CoreState → CoreState) : (s.setCore c f).nextOp = s.nextOp := rfl
@[simp] theorem State.setCore_trackers (s : State) (c : CoreId) (f : CoreState → CoreState) : (s.setCore c f).trackers = s.trackers := rfl
@[simp] theorem State.setCore_lateFaults (s : State) (c : CoreId) (f : CoreState → CoreState) : (s.setCore c f).lateFaults = s.lateFaults := rfl
@[simp] theorem State.setCore_parkings (s : State) (c : CoreId) (f : CoreState → CoreState) : (s.setCore c f).parkings = s.parkings := rfl
@[simp] theorem State.setCore_teams (s : State) (c : CoreId) (f : CoreState → CoreState) : (s.setCore c f).teams = s.teams := rfl
@[simp] theorem State.setCore_grids (s : State) (c : CoreId) (f : CoreState → CoreState) : (s.setCore c f).grids = s.grids := rfl
@[simp] theorem State.setCore_parts (s : State) (c : CoreId) (f : CoreState → CoreState) : (s.setCore c f).parts = s.parts := rfl
@[simp] theorem State.setCore_keys (s : State) (c : CoreId) (f : CoreState → CoreState) : (s.setCore c f).keys = s.keys := rfl
@[simp] theorem State.setCore_queues (s : State) (c : CoreId) (f : CoreState → CoreState) : (s.setCore c f).queues = s.queues := rfl
@[simp] theorem State.setCore_monitors (s : State) (c : CoreId) (f : CoreState → CoreState) : (s.setCore c f).monitors = s.monitors := rfl
@[simp] theorem State.setCore_insts (s : State) (c : CoreId) (f : CoreState → CoreState) : (s.setCore c f).insts = s.insts := rfl
@[simp] theorem State.setCore_launches (s : State) (c : CoreId) (f : CoreState → CoreState) : (s.setCore c f).launches = s.launches := rfl
@[simp] theorem State.setCore_rounds (s : State) (c : CoreId) (f : CoreState → CoreState) : (s.setCore c f).rounds = s.rounds := rfl
@[simp] theorem State.setCore_scheds (s : State) (c : CoreId) (f : CoreState → CoreState) : (s.setCore c f).scheds = s.scheds := rfl
@[simp] theorem State.setCore_cmdLinks (s : State) (c : CoreId) (f : CoreState → CoreState) : (s.setCore c f).cmdLinks = s.cmdLinks := rfl
@[simp] theorem State.setCore_preempts (s : State) (c : CoreId) (f : CoreState → CoreState) : (s.setCore c f).preempts = s.preempts := rfl
@[simp] theorem State.setCore_ports (s : State) (c : CoreId) (f : CoreState → CoreState) : (s.setCore c f).ports = s.ports := rfl
@[simp] theorem State.setCore_hostLog (s : State) (c : CoreId) (f : CoreState → CoreState) : (s.setCore c f).hostLog = s.hostLog := rfl
@[simp] theorem State.setCore_peerOut (s : State) (c : CoreId) (f : CoreState → CoreState) : (s.setCore c f).peerOut = s.peerOut := rfl
@[simp] theorem State.setCore_marks (s : State) (c : CoreId) (f : CoreState → CoreState) : (s.setCore c f).marks = s.marks := rfl
@[simp] theorem State.setCore_units (s : State) (c : CoreId) (f : CoreState → CoreState) : (s.setCore c f).units = s.units := rfl
@[simp] theorem State.setCore_devWrites (s : State) (c : CoreId) (f : CoreState → CoreState) : (s.setCore c f).devWrites = s.devWrites := rfl
@[simp] theorem State.setCore_retry (s : State) (c : CoreId) (f : CoreState → CoreState) : (s.setCore c f).retry = s.retry := rfl
@[simp] theorem State.setCore_served (s : State) (c : CoreId) (f : CoreState → CoreState) : (s.setCore c f).served = s.served := rfl
@[simp] theorem State.setCore_posted (s : State) (c : CoreId) (f : CoreState → CoreState) : (s.setCore c f).posted = s.posted := rfl
@[simp] theorem State.setCore_past (s : State) (c : CoreId) (f : CoreState → CoreState) : (s.setCore c f).past = s.past := rfl
@[simp] theorem State.setCore_acquires (s : State) (c : CoreId) (f : CoreState → CoreState) : (s.setCore c f).acquires = s.acquires := rfl

/-! ## setNarrow -/

@[simp] theorem State.setNarrow_agenda (s : State) (line : Nat) (c : CoreId) : (s.setNarrow line c).agenda = s.agenda := rfl
@[simp] theorem State.setNarrow_issueQ (s : State) (line : Nat) (c : CoreId) : (s.setNarrow line c).issueQ = s.issueQ := rfl
@[simp] theorem State.setNarrow_turn (s : State) (line : Nat) (c : CoreId) : (s.setNarrow line c).turn = s.turn := rfl
@[simp] theorem State.setNarrow_round (s : State) (line : Nat) (c : CoreId) : (s.setNarrow line c).round = s.round := rfl
@[simp] theorem State.setNarrow_fresh (s : State) (line : Nat) (c : CoreId) : (s.setNarrow line c).fresh = s.fresh := rfl
@[simp] theorem State.setNarrow_nextKey (s : State) (line : Nat) (c : CoreId) : (s.setNarrow line c).nextKey = s.nextKey := rfl
@[simp] theorem State.setNarrow_nextGrid (s : State) (line : Nat) (c : CoreId) : (s.setNarrow line c).nextGrid = s.nextGrid := rfl
@[simp] theorem State.setNarrow_code (s : State) (line : Nat) (c : CoreId) : (s.setNarrow line c).code = s.code := rfl
@[simp] theorem State.setNarrow_fused (s : State) (line : Nat) (c : CoreId) : (s.setNarrow line c).fused = s.fused := rfl
@[simp] theorem State.setNarrow_info (s : State) (line : Nat) (c : CoreId) : (s.setNarrow line c).info = s.info := rfl
@[simp] theorem State.setNarrow_inRom (s : State) (line : Nat) (c : CoreId) : (s.setNarrow line c).inRom = s.inRom := rfl
@[simp] theorem State.setNarrow_links (s : State) (line : Nat) (c : CoreId) : (s.setNarrow line c).links = s.links := rfl
@[simp] theorem State.setNarrow_times (s : State) (line : Nat) (c : CoreId) : (s.setNarrow line c).times = s.times := rfl
@[simp] theorem State.setNarrow_masterSet (s : State) (line : Nat) (c : CoreId) : (s.setNarrow line c).masterSet = s.masterSet := rfl
@[simp] theorem State.setNarrow_fabric (s : State) (line : Nat) (c : CoreId) : (s.setNarrow line c).fabric = s.fabric := rfl
@[simp] theorem State.setNarrow_mem (s : State) (line : Nat) (c : CoreId) : (s.setNarrow line c).mem = s.mem := rfl
@[simp] theorem State.setNarrow_scrambled (s : State) (line : Nat) (c : CoreId) : (s.setNarrow line c).scrambled = s.scrambled := rfl
@[simp] theorem State.setNarrow_l2 (s : State) (line : Nat) (c : CoreId) : (s.setNarrow line c).l2 = s.l2 := rfl
@[simp] theorem State.setNarrow_ownReqs (s : State) (line : Nat) (c : CoreId) : (s.setNarrow line c).ownReqs = s.ownReqs := rfl
@[simp] theorem State.setNarrow_maxLease (s : State) (line : Nat) (c : CoreId) : (s.setNarrow line c).maxLease = s.maxLease := rfl
@[simp] theorem State.setNarrow_lost (s : State) (line : Nat) (c : CoreId) : (s.setNarrow line c).lost = s.lost := rfl
@[simp] theorem State.setNarrow_debugLog (s : State) (line : Nat) (c : CoreId) : (s.setNarrow line c).debugLog = s.debugLog := rfl
@[simp] theorem State.setNarrow_gatedWays (s : State) (line : Nat) (c : CoreId) : (s.setNarrow line c).gatedWays = s.gatedWays := rfl
@[simp] theorem State.setNarrow_groups (s : State) (line : Nat) (c : CoreId) : (s.setNarrow line c).groups = s.groups := rfl
@[simp] theorem State.setNarrow_ops (s : State) (line : Nat) (c : CoreId) : (s.setNarrow line c).ops = s.ops := rfl
@[simp] theorem State.setNarrow_nextOp (s : State) (line : Nat) (c : CoreId) : (s.setNarrow line c).nextOp = s.nextOp := rfl
@[simp] theorem State.setNarrow_trackers (s : State) (line : Nat) (c : CoreId) : (s.setNarrow line c).trackers = s.trackers := rfl
@[simp] theorem State.setNarrow_lateFaults (s : State) (line : Nat) (c : CoreId) : (s.setNarrow line c).lateFaults = s.lateFaults := rfl
@[simp] theorem State.setNarrow_parkings (s : State) (line : Nat) (c : CoreId) : (s.setNarrow line c).parkings = s.parkings := rfl
@[simp] theorem State.setNarrow_cores (s : State) (line : Nat) (c : CoreId) : (s.setNarrow line c).cores = s.cores := rfl
@[simp] theorem State.setNarrow_teams (s : State) (line : Nat) (c : CoreId) : (s.setNarrow line c).teams = s.teams := rfl
@[simp] theorem State.setNarrow_grids (s : State) (line : Nat) (c : CoreId) : (s.setNarrow line c).grids = s.grids := rfl
@[simp] theorem State.setNarrow_parts (s : State) (line : Nat) (c : CoreId) : (s.setNarrow line c).parts = s.parts := rfl
@[simp] theorem State.setNarrow_keys (s : State) (line : Nat) (c : CoreId) : (s.setNarrow line c).keys = s.keys := rfl
@[simp] theorem State.setNarrow_queues (s : State) (line : Nat) (c : CoreId) : (s.setNarrow line c).queues = s.queues := rfl
@[simp] theorem State.setNarrow_monitors (s : State) (line : Nat) (c : CoreId) : (s.setNarrow line c).monitors = s.monitors := rfl
@[simp] theorem State.setNarrow_insts (s : State) (line : Nat) (c : CoreId) : (s.setNarrow line c).insts = s.insts := rfl
@[simp] theorem State.setNarrow_launches (s : State) (line : Nat) (c : CoreId) : (s.setNarrow line c).launches = s.launches := rfl
@[simp] theorem State.setNarrow_rounds (s : State) (line : Nat) (c : CoreId) : (s.setNarrow line c).rounds = s.rounds := rfl
@[simp] theorem State.setNarrow_scheds (s : State) (line : Nat) (c : CoreId) : (s.setNarrow line c).scheds = s.scheds := rfl
@[simp] theorem State.setNarrow_cmdLinks (s : State) (line : Nat) (c : CoreId) : (s.setNarrow line c).cmdLinks = s.cmdLinks := rfl
@[simp] theorem State.setNarrow_preempts (s : State) (line : Nat) (c : CoreId) : (s.setNarrow line c).preempts = s.preempts := rfl
@[simp] theorem State.setNarrow_ports (s : State) (line : Nat) (c : CoreId) : (s.setNarrow line c).ports = s.ports := rfl
@[simp] theorem State.setNarrow_hostLog (s : State) (line : Nat) (c : CoreId) : (s.setNarrow line c).hostLog = s.hostLog := rfl
@[simp] theorem State.setNarrow_peerOut (s : State) (line : Nat) (c : CoreId) : (s.setNarrow line c).peerOut = s.peerOut := rfl
@[simp] theorem State.setNarrow_marks (s : State) (line : Nat) (c : CoreId) : (s.setNarrow line c).marks = s.marks := rfl
@[simp] theorem State.setNarrow_units (s : State) (line : Nat) (c : CoreId) : (s.setNarrow line c).units = s.units := rfl
@[simp] theorem State.setNarrow_devWrites (s : State) (line : Nat) (c : CoreId) : (s.setNarrow line c).devWrites = s.devWrites := rfl
@[simp] theorem State.setNarrow_retry (s : State) (line : Nat) (c : CoreId) : (s.setNarrow line c).retry = s.retry := rfl
@[simp] theorem State.setNarrow_served (s : State) (line : Nat) (c : CoreId) : (s.setNarrow line c).served = s.served := rfl
@[simp] theorem State.setNarrow_posted (s : State) (line : Nat) (c : CoreId) : (s.setNarrow line c).posted = s.posted := rfl
@[simp] theorem State.setNarrow_past (s : State) (line : Nat) (c : CoreId) : (s.setNarrow line c).past = s.past := rfl
@[simp] theorem State.setNarrow_acquires (s : State) (line : Nat) (c : CoreId) : (s.setNarrow line c).acquires = s.acquires := rfl

/-! ## clearNarrow -/

@[simp] theorem State.clearNarrow_agenda (s : State) (line : Nat) : (s.clearNarrow line).agenda = s.agenda := rfl
@[simp] theorem State.clearNarrow_issueQ (s : State) (line : Nat) : (s.clearNarrow line).issueQ = s.issueQ := rfl
@[simp] theorem State.clearNarrow_turn (s : State) (line : Nat) : (s.clearNarrow line).turn = s.turn := rfl
@[simp] theorem State.clearNarrow_round (s : State) (line : Nat) : (s.clearNarrow line).round = s.round := rfl
@[simp] theorem State.clearNarrow_fresh (s : State) (line : Nat) : (s.clearNarrow line).fresh = s.fresh := rfl
@[simp] theorem State.clearNarrow_nextKey (s : State) (line : Nat) : (s.clearNarrow line).nextKey = s.nextKey := rfl
@[simp] theorem State.clearNarrow_nextGrid (s : State) (line : Nat) : (s.clearNarrow line).nextGrid = s.nextGrid := rfl
@[simp] theorem State.clearNarrow_code (s : State) (line : Nat) : (s.clearNarrow line).code = s.code := rfl
@[simp] theorem State.clearNarrow_fused (s : State) (line : Nat) : (s.clearNarrow line).fused = s.fused := rfl
@[simp] theorem State.clearNarrow_info (s : State) (line : Nat) : (s.clearNarrow line).info = s.info := rfl
@[simp] theorem State.clearNarrow_inRom (s : State) (line : Nat) : (s.clearNarrow line).inRom = s.inRom := rfl
@[simp] theorem State.clearNarrow_links (s : State) (line : Nat) : (s.clearNarrow line).links = s.links := rfl
@[simp] theorem State.clearNarrow_times (s : State) (line : Nat) : (s.clearNarrow line).times = s.times := rfl
@[simp] theorem State.clearNarrow_masterSet (s : State) (line : Nat) : (s.clearNarrow line).masterSet = s.masterSet := rfl
@[simp] theorem State.clearNarrow_fabric (s : State) (line : Nat) : (s.clearNarrow line).fabric = s.fabric := rfl
@[simp] theorem State.clearNarrow_mem (s : State) (line : Nat) : (s.clearNarrow line).mem = s.mem := rfl
@[simp] theorem State.clearNarrow_scrambled (s : State) (line : Nat) : (s.clearNarrow line).scrambled = s.scrambled := rfl
@[simp] theorem State.clearNarrow_l2 (s : State) (line : Nat) : (s.clearNarrow line).l2 = s.l2 := rfl
@[simp] theorem State.clearNarrow_ownReqs (s : State) (line : Nat) : (s.clearNarrow line).ownReqs = s.ownReqs := rfl
@[simp] theorem State.clearNarrow_maxLease (s : State) (line : Nat) : (s.clearNarrow line).maxLease = s.maxLease := rfl
@[simp] theorem State.clearNarrow_lost (s : State) (line : Nat) : (s.clearNarrow line).lost = s.lost := rfl
@[simp] theorem State.clearNarrow_debugLog (s : State) (line : Nat) : (s.clearNarrow line).debugLog = s.debugLog := rfl
@[simp] theorem State.clearNarrow_gatedWays (s : State) (line : Nat) : (s.clearNarrow line).gatedWays = s.gatedWays := rfl
@[simp] theorem State.clearNarrow_groups (s : State) (line : Nat) : (s.clearNarrow line).groups = s.groups := rfl
@[simp] theorem State.clearNarrow_ops (s : State) (line : Nat) : (s.clearNarrow line).ops = s.ops := rfl
@[simp] theorem State.clearNarrow_nextOp (s : State) (line : Nat) : (s.clearNarrow line).nextOp = s.nextOp := rfl
@[simp] theorem State.clearNarrow_trackers (s : State) (line : Nat) : (s.clearNarrow line).trackers = s.trackers := rfl
@[simp] theorem State.clearNarrow_lateFaults (s : State) (line : Nat) : (s.clearNarrow line).lateFaults = s.lateFaults := rfl
@[simp] theorem State.clearNarrow_parkings (s : State) (line : Nat) : (s.clearNarrow line).parkings = s.parkings := rfl
@[simp] theorem State.clearNarrow_cores (s : State) (line : Nat) : (s.clearNarrow line).cores = s.cores := rfl
@[simp] theorem State.clearNarrow_teams (s : State) (line : Nat) : (s.clearNarrow line).teams = s.teams := rfl
@[simp] theorem State.clearNarrow_grids (s : State) (line : Nat) : (s.clearNarrow line).grids = s.grids := rfl
@[simp] theorem State.clearNarrow_parts (s : State) (line : Nat) : (s.clearNarrow line).parts = s.parts := rfl
@[simp] theorem State.clearNarrow_keys (s : State) (line : Nat) : (s.clearNarrow line).keys = s.keys := rfl
@[simp] theorem State.clearNarrow_queues (s : State) (line : Nat) : (s.clearNarrow line).queues = s.queues := rfl
@[simp] theorem State.clearNarrow_monitors (s : State) (line : Nat) : (s.clearNarrow line).monitors = s.monitors := rfl
@[simp] theorem State.clearNarrow_insts (s : State) (line : Nat) : (s.clearNarrow line).insts = s.insts := rfl
@[simp] theorem State.clearNarrow_launches (s : State) (line : Nat) : (s.clearNarrow line).launches = s.launches := rfl
@[simp] theorem State.clearNarrow_rounds (s : State) (line : Nat) : (s.clearNarrow line).rounds = s.rounds := rfl
@[simp] theorem State.clearNarrow_scheds (s : State) (line : Nat) : (s.clearNarrow line).scheds = s.scheds := rfl
@[simp] theorem State.clearNarrow_cmdLinks (s : State) (line : Nat) : (s.clearNarrow line).cmdLinks = s.cmdLinks := rfl
@[simp] theorem State.clearNarrow_preempts (s : State) (line : Nat) : (s.clearNarrow line).preempts = s.preempts := rfl
@[simp] theorem State.clearNarrow_ports (s : State) (line : Nat) : (s.clearNarrow line).ports = s.ports := rfl
@[simp] theorem State.clearNarrow_hostLog (s : State) (line : Nat) : (s.clearNarrow line).hostLog = s.hostLog := rfl
@[simp] theorem State.clearNarrow_peerOut (s : State) (line : Nat) : (s.clearNarrow line).peerOut = s.peerOut := rfl
@[simp] theorem State.clearNarrow_marks (s : State) (line : Nat) : (s.clearNarrow line).marks = s.marks := rfl
@[simp] theorem State.clearNarrow_units (s : State) (line : Nat) : (s.clearNarrow line).units = s.units := rfl
@[simp] theorem State.clearNarrow_devWrites (s : State) (line : Nat) : (s.clearNarrow line).devWrites = s.devWrites := rfl
@[simp] theorem State.clearNarrow_retry (s : State) (line : Nat) : (s.clearNarrow line).retry = s.retry := rfl
@[simp] theorem State.clearNarrow_served (s : State) (line : Nat) : (s.clearNarrow line).served = s.served := rfl
@[simp] theorem State.clearNarrow_posted (s : State) (line : Nat) : (s.clearNarrow line).posted = s.posted := rfl
@[simp] theorem State.clearNarrow_past (s : State) (line : Nat) : (s.clearNarrow line).past = s.past := rfl
@[simp] theorem State.clearNarrow_acquires (s : State) (line : Nat) : (s.clearNarrow line).acquires = s.acquires := rfl

/-! ## setGroup -/

@[simp] theorem State.setGroup_agenda (s : State) (g : Group) : (s.setGroup g).agenda = s.agenda := rfl
@[simp] theorem State.setGroup_issueQ (s : State) (g : Group) : (s.setGroup g).issueQ = s.issueQ := rfl
@[simp] theorem State.setGroup_turn (s : State) (g : Group) : (s.setGroup g).turn = s.turn := rfl
@[simp] theorem State.setGroup_round (s : State) (g : Group) : (s.setGroup g).round = s.round := rfl
@[simp] theorem State.setGroup_fresh (s : State) (g : Group) : (s.setGroup g).fresh = s.fresh := rfl
@[simp] theorem State.setGroup_nextKey (s : State) (g : Group) : (s.setGroup g).nextKey = s.nextKey := rfl
@[simp] theorem State.setGroup_nextGrid (s : State) (g : Group) : (s.setGroup g).nextGrid = s.nextGrid := rfl
@[simp] theorem State.setGroup_code (s : State) (g : Group) : (s.setGroup g).code = s.code := rfl
@[simp] theorem State.setGroup_fused (s : State) (g : Group) : (s.setGroup g).fused = s.fused := rfl
@[simp] theorem State.setGroup_info (s : State) (g : Group) : (s.setGroup g).info = s.info := rfl
@[simp] theorem State.setGroup_inRom (s : State) (g : Group) : (s.setGroup g).inRom = s.inRom := rfl
@[simp] theorem State.setGroup_links (s : State) (g : Group) : (s.setGroup g).links = s.links := rfl
@[simp] theorem State.setGroup_times (s : State) (g : Group) : (s.setGroup g).times = s.times := rfl
@[simp] theorem State.setGroup_masterSet (s : State) (g : Group) : (s.setGroup g).masterSet = s.masterSet := rfl
@[simp] theorem State.setGroup_fabric (s : State) (g : Group) : (s.setGroup g).fabric = s.fabric := rfl
@[simp] theorem State.setGroup_mem (s : State) (g : Group) : (s.setGroup g).mem = s.mem := rfl
@[simp] theorem State.setGroup_scrambled (s : State) (g : Group) : (s.setGroup g).scrambled = s.scrambled := rfl
@[simp] theorem State.setGroup_l2 (s : State) (g : Group) : (s.setGroup g).l2 = s.l2 := rfl
@[simp] theorem State.setGroup_ownReqs (s : State) (g : Group) : (s.setGroup g).ownReqs = s.ownReqs := rfl
@[simp] theorem State.setGroup_maxLease (s : State) (g : Group) : (s.setGroup g).maxLease = s.maxLease := rfl
@[simp] theorem State.setGroup_lost (s : State) (g : Group) : (s.setGroup g).lost = s.lost := rfl
@[simp] theorem State.setGroup_narrow (s : State) (g : Group) : (s.setGroup g).narrow = s.narrow := rfl
@[simp] theorem State.setGroup_debugLog (s : State) (g : Group) : (s.setGroup g).debugLog = s.debugLog := rfl
@[simp] theorem State.setGroup_gatedWays (s : State) (g : Group) : (s.setGroup g).gatedWays = s.gatedWays := rfl
@[simp] theorem State.setGroup_ops (s : State) (g : Group) : (s.setGroup g).ops = s.ops := rfl
@[simp] theorem State.setGroup_nextOp (s : State) (g : Group) : (s.setGroup g).nextOp = s.nextOp := rfl
@[simp] theorem State.setGroup_trackers (s : State) (g : Group) : (s.setGroup g).trackers = s.trackers := rfl
@[simp] theorem State.setGroup_lateFaults (s : State) (g : Group) : (s.setGroup g).lateFaults = s.lateFaults := rfl
@[simp] theorem State.setGroup_parkings (s : State) (g : Group) : (s.setGroup g).parkings = s.parkings := rfl
@[simp] theorem State.setGroup_cores (s : State) (g : Group) : (s.setGroup g).cores = s.cores := rfl
@[simp] theorem State.setGroup_teams (s : State) (g : Group) : (s.setGroup g).teams = s.teams := rfl
@[simp] theorem State.setGroup_grids (s : State) (g : Group) : (s.setGroup g).grids = s.grids := rfl
@[simp] theorem State.setGroup_parts (s : State) (g : Group) : (s.setGroup g).parts = s.parts := rfl
@[simp] theorem State.setGroup_keys (s : State) (g : Group) : (s.setGroup g).keys = s.keys := rfl
@[simp] theorem State.setGroup_queues (s : State) (g : Group) : (s.setGroup g).queues = s.queues := rfl
@[simp] theorem State.setGroup_monitors (s : State) (g : Group) : (s.setGroup g).monitors = s.monitors := rfl
@[simp] theorem State.setGroup_insts (s : State) (g : Group) : (s.setGroup g).insts = s.insts := rfl
@[simp] theorem State.setGroup_launches (s : State) (g : Group) : (s.setGroup g).launches = s.launches := rfl
@[simp] theorem State.setGroup_rounds (s : State) (g : Group) : (s.setGroup g).rounds = s.rounds := rfl
@[simp] theorem State.setGroup_scheds (s : State) (g : Group) : (s.setGroup g).scheds = s.scheds := rfl
@[simp] theorem State.setGroup_cmdLinks (s : State) (g : Group) : (s.setGroup g).cmdLinks = s.cmdLinks := rfl
@[simp] theorem State.setGroup_preempts (s : State) (g : Group) : (s.setGroup g).preempts = s.preempts := rfl
@[simp] theorem State.setGroup_ports (s : State) (g : Group) : (s.setGroup g).ports = s.ports := rfl
@[simp] theorem State.setGroup_hostLog (s : State) (g : Group) : (s.setGroup g).hostLog = s.hostLog := rfl
@[simp] theorem State.setGroup_peerOut (s : State) (g : Group) : (s.setGroup g).peerOut = s.peerOut := rfl
@[simp] theorem State.setGroup_marks (s : State) (g : Group) : (s.setGroup g).marks = s.marks := rfl
@[simp] theorem State.setGroup_units (s : State) (g : Group) : (s.setGroup g).units = s.units := rfl
@[simp] theorem State.setGroup_devWrites (s : State) (g : Group) : (s.setGroup g).devWrites = s.devWrites := rfl
@[simp] theorem State.setGroup_retry (s : State) (g : Group) : (s.setGroup g).retry = s.retry := rfl
@[simp] theorem State.setGroup_served (s : State) (g : Group) : (s.setGroup g).served = s.served := rfl
@[simp] theorem State.setGroup_posted (s : State) (g : Group) : (s.setGroup g).posted = s.posted := rfl
@[simp] theorem State.setGroup_past (s : State) (g : Group) : (s.setGroup g).past = s.past := rfl
@[simp] theorem State.setGroup_acquires (s : State) (g : Group) : (s.setGroup g).acquires = s.acquires := rfl

/-! ## onGroup -/

@[simp] theorem State.onGroup_agenda (s : State) (k : Nat) (f : Group → Group) : (s.onGroup k f).agenda = s.agenda := rfl
@[simp] theorem State.onGroup_issueQ (s : State) (k : Nat) (f : Group → Group) : (s.onGroup k f).issueQ = s.issueQ := rfl
@[simp] theorem State.onGroup_turn (s : State) (k : Nat) (f : Group → Group) : (s.onGroup k f).turn = s.turn := rfl
@[simp] theorem State.onGroup_round (s : State) (k : Nat) (f : Group → Group) : (s.onGroup k f).round = s.round := rfl
@[simp] theorem State.onGroup_fresh (s : State) (k : Nat) (f : Group → Group) : (s.onGroup k f).fresh = s.fresh := rfl
@[simp] theorem State.onGroup_nextKey (s : State) (k : Nat) (f : Group → Group) : (s.onGroup k f).nextKey = s.nextKey := rfl
@[simp] theorem State.onGroup_nextGrid (s : State) (k : Nat) (f : Group → Group) : (s.onGroup k f).nextGrid = s.nextGrid := rfl
@[simp] theorem State.onGroup_code (s : State) (k : Nat) (f : Group → Group) : (s.onGroup k f).code = s.code := rfl
@[simp] theorem State.onGroup_fused (s : State) (k : Nat) (f : Group → Group) : (s.onGroup k f).fused = s.fused := rfl
@[simp] theorem State.onGroup_info (s : State) (k : Nat) (f : Group → Group) : (s.onGroup k f).info = s.info := rfl
@[simp] theorem State.onGroup_inRom (s : State) (k : Nat) (f : Group → Group) : (s.onGroup k f).inRom = s.inRom := rfl
@[simp] theorem State.onGroup_links (s : State) (k : Nat) (f : Group → Group) : (s.onGroup k f).links = s.links := rfl
@[simp] theorem State.onGroup_times (s : State) (k : Nat) (f : Group → Group) : (s.onGroup k f).times = s.times := rfl
@[simp] theorem State.onGroup_masterSet (s : State) (k : Nat) (f : Group → Group) : (s.onGroup k f).masterSet = s.masterSet := rfl
@[simp] theorem State.onGroup_fabric (s : State) (k : Nat) (f : Group → Group) : (s.onGroup k f).fabric = s.fabric := rfl
@[simp] theorem State.onGroup_mem (s : State) (k : Nat) (f : Group → Group) : (s.onGroup k f).mem = s.mem := rfl
@[simp] theorem State.onGroup_scrambled (s : State) (k : Nat) (f : Group → Group) : (s.onGroup k f).scrambled = s.scrambled := rfl
@[simp] theorem State.onGroup_l2 (s : State) (k : Nat) (f : Group → Group) : (s.onGroup k f).l2 = s.l2 := rfl
@[simp] theorem State.onGroup_ownReqs (s : State) (k : Nat) (f : Group → Group) : (s.onGroup k f).ownReqs = s.ownReqs := rfl
@[simp] theorem State.onGroup_maxLease (s : State) (k : Nat) (f : Group → Group) : (s.onGroup k f).maxLease = s.maxLease := rfl
@[simp] theorem State.onGroup_lost (s : State) (k : Nat) (f : Group → Group) : (s.onGroup k f).lost = s.lost := rfl
@[simp] theorem State.onGroup_narrow (s : State) (k : Nat) (f : Group → Group) : (s.onGroup k f).narrow = s.narrow := rfl
@[simp] theorem State.onGroup_debugLog (s : State) (k : Nat) (f : Group → Group) : (s.onGroup k f).debugLog = s.debugLog := rfl
@[simp] theorem State.onGroup_gatedWays (s : State) (k : Nat) (f : Group → Group) : (s.onGroup k f).gatedWays = s.gatedWays := rfl
@[simp] theorem State.onGroup_ops (s : State) (k : Nat) (f : Group → Group) : (s.onGroup k f).ops = s.ops := rfl
@[simp] theorem State.onGroup_nextOp (s : State) (k : Nat) (f : Group → Group) : (s.onGroup k f).nextOp = s.nextOp := rfl
@[simp] theorem State.onGroup_trackers (s : State) (k : Nat) (f : Group → Group) : (s.onGroup k f).trackers = s.trackers := rfl
@[simp] theorem State.onGroup_lateFaults (s : State) (k : Nat) (f : Group → Group) : (s.onGroup k f).lateFaults = s.lateFaults := rfl
@[simp] theorem State.onGroup_parkings (s : State) (k : Nat) (f : Group → Group) : (s.onGroup k f).parkings = s.parkings := rfl
@[simp] theorem State.onGroup_cores (s : State) (k : Nat) (f : Group → Group) : (s.onGroup k f).cores = s.cores := rfl
@[simp] theorem State.onGroup_teams (s : State) (k : Nat) (f : Group → Group) : (s.onGroup k f).teams = s.teams := rfl
@[simp] theorem State.onGroup_grids (s : State) (k : Nat) (f : Group → Group) : (s.onGroup k f).grids = s.grids := rfl
@[simp] theorem State.onGroup_parts (s : State) (k : Nat) (f : Group → Group) : (s.onGroup k f).parts = s.parts := rfl
@[simp] theorem State.onGroup_keys (s : State) (k : Nat) (f : Group → Group) : (s.onGroup k f).keys = s.keys := rfl
@[simp] theorem State.onGroup_queues (s : State) (k : Nat) (f : Group → Group) : (s.onGroup k f).queues = s.queues := rfl
@[simp] theorem State.onGroup_monitors (s : State) (k : Nat) (f : Group → Group) : (s.onGroup k f).monitors = s.monitors := rfl
@[simp] theorem State.onGroup_insts (s : State) (k : Nat) (f : Group → Group) : (s.onGroup k f).insts = s.insts := rfl
@[simp] theorem State.onGroup_launches (s : State) (k : Nat) (f : Group → Group) : (s.onGroup k f).launches = s.launches := rfl
@[simp] theorem State.onGroup_rounds (s : State) (k : Nat) (f : Group → Group) : (s.onGroup k f).rounds = s.rounds := rfl
@[simp] theorem State.onGroup_scheds (s : State) (k : Nat) (f : Group → Group) : (s.onGroup k f).scheds = s.scheds := rfl
@[simp] theorem State.onGroup_cmdLinks (s : State) (k : Nat) (f : Group → Group) : (s.onGroup k f).cmdLinks = s.cmdLinks := rfl
@[simp] theorem State.onGroup_preempts (s : State) (k : Nat) (f : Group → Group) : (s.onGroup k f).preempts = s.preempts := rfl
@[simp] theorem State.onGroup_ports (s : State) (k : Nat) (f : Group → Group) : (s.onGroup k f).ports = s.ports := rfl
@[simp] theorem State.onGroup_hostLog (s : State) (k : Nat) (f : Group → Group) : (s.onGroup k f).hostLog = s.hostLog := rfl
@[simp] theorem State.onGroup_peerOut (s : State) (k : Nat) (f : Group → Group) : (s.onGroup k f).peerOut = s.peerOut := rfl
@[simp] theorem State.onGroup_marks (s : State) (k : Nat) (f : Group → Group) : (s.onGroup k f).marks = s.marks := rfl
@[simp] theorem State.onGroup_units (s : State) (k : Nat) (f : Group → Group) : (s.onGroup k f).units = s.units := rfl
@[simp] theorem State.onGroup_devWrites (s : State) (k : Nat) (f : Group → Group) : (s.onGroup k f).devWrites = s.devWrites := rfl
@[simp] theorem State.onGroup_retry (s : State) (k : Nat) (f : Group → Group) : (s.onGroup k f).retry = s.retry := rfl
@[simp] theorem State.onGroup_served (s : State) (k : Nat) (f : Group → Group) : (s.onGroup k f).served = s.served := rfl
@[simp] theorem State.onGroup_posted (s : State) (k : Nat) (f : Group → Group) : (s.onGroup k f).posted = s.posted := rfl
@[simp] theorem State.onGroup_past (s : State) (k : Nat) (f : Group → Group) : (s.onGroup k f).past = s.past := rfl
@[simp] theorem State.onGroup_acquires (s : State) (k : Nat) (f : Group → Group) : (s.onGroup k f).acquires = s.acquires := rfl

/-! ## onTeam -/

@[simp] theorem State.onTeam_agenda (s : State) (k : Nat) (f : Team → Team) : (s.onTeam k f).agenda = s.agenda := rfl
@[simp] theorem State.onTeam_issueQ (s : State) (k : Nat) (f : Team → Team) : (s.onTeam k f).issueQ = s.issueQ := rfl
@[simp] theorem State.onTeam_turn (s : State) (k : Nat) (f : Team → Team) : (s.onTeam k f).turn = s.turn := rfl
@[simp] theorem State.onTeam_round (s : State) (k : Nat) (f : Team → Team) : (s.onTeam k f).round = s.round := rfl
@[simp] theorem State.onTeam_fresh (s : State) (k : Nat) (f : Team → Team) : (s.onTeam k f).fresh = s.fresh := rfl
@[simp] theorem State.onTeam_nextKey (s : State) (k : Nat) (f : Team → Team) : (s.onTeam k f).nextKey = s.nextKey := rfl
@[simp] theorem State.onTeam_nextGrid (s : State) (k : Nat) (f : Team → Team) : (s.onTeam k f).nextGrid = s.nextGrid := rfl
@[simp] theorem State.onTeam_code (s : State) (k : Nat) (f : Team → Team) : (s.onTeam k f).code = s.code := rfl
@[simp] theorem State.onTeam_fused (s : State) (k : Nat) (f : Team → Team) : (s.onTeam k f).fused = s.fused := rfl
@[simp] theorem State.onTeam_info (s : State) (k : Nat) (f : Team → Team) : (s.onTeam k f).info = s.info := rfl
@[simp] theorem State.onTeam_inRom (s : State) (k : Nat) (f : Team → Team) : (s.onTeam k f).inRom = s.inRom := rfl
@[simp] theorem State.onTeam_links (s : State) (k : Nat) (f : Team → Team) : (s.onTeam k f).links = s.links := rfl
@[simp] theorem State.onTeam_times (s : State) (k : Nat) (f : Team → Team) : (s.onTeam k f).times = s.times := rfl
@[simp] theorem State.onTeam_masterSet (s : State) (k : Nat) (f : Team → Team) : (s.onTeam k f).masterSet = s.masterSet := rfl
@[simp] theorem State.onTeam_fabric (s : State) (k : Nat) (f : Team → Team) : (s.onTeam k f).fabric = s.fabric := rfl
@[simp] theorem State.onTeam_mem (s : State) (k : Nat) (f : Team → Team) : (s.onTeam k f).mem = s.mem := rfl
@[simp] theorem State.onTeam_scrambled (s : State) (k : Nat) (f : Team → Team) : (s.onTeam k f).scrambled = s.scrambled := rfl
@[simp] theorem State.onTeam_l2 (s : State) (k : Nat) (f : Team → Team) : (s.onTeam k f).l2 = s.l2 := rfl
@[simp] theorem State.onTeam_ownReqs (s : State) (k : Nat) (f : Team → Team) : (s.onTeam k f).ownReqs = s.ownReqs := rfl
@[simp] theorem State.onTeam_maxLease (s : State) (k : Nat) (f : Team → Team) : (s.onTeam k f).maxLease = s.maxLease := rfl
@[simp] theorem State.onTeam_lost (s : State) (k : Nat) (f : Team → Team) : (s.onTeam k f).lost = s.lost := rfl
@[simp] theorem State.onTeam_narrow (s : State) (k : Nat) (f : Team → Team) : (s.onTeam k f).narrow = s.narrow := rfl
@[simp] theorem State.onTeam_debugLog (s : State) (k : Nat) (f : Team → Team) : (s.onTeam k f).debugLog = s.debugLog := rfl
@[simp] theorem State.onTeam_gatedWays (s : State) (k : Nat) (f : Team → Team) : (s.onTeam k f).gatedWays = s.gatedWays := rfl
@[simp] theorem State.onTeam_groups (s : State) (k : Nat) (f : Team → Team) : (s.onTeam k f).groups = s.groups := rfl
@[simp] theorem State.onTeam_ops (s : State) (k : Nat) (f : Team → Team) : (s.onTeam k f).ops = s.ops := rfl
@[simp] theorem State.onTeam_nextOp (s : State) (k : Nat) (f : Team → Team) : (s.onTeam k f).nextOp = s.nextOp := rfl
@[simp] theorem State.onTeam_trackers (s : State) (k : Nat) (f : Team → Team) : (s.onTeam k f).trackers = s.trackers := rfl
@[simp] theorem State.onTeam_lateFaults (s : State) (k : Nat) (f : Team → Team) : (s.onTeam k f).lateFaults = s.lateFaults := rfl
@[simp] theorem State.onTeam_parkings (s : State) (k : Nat) (f : Team → Team) : (s.onTeam k f).parkings = s.parkings := rfl
@[simp] theorem State.onTeam_cores (s : State) (k : Nat) (f : Team → Team) : (s.onTeam k f).cores = s.cores := rfl
@[simp] theorem State.onTeam_grids (s : State) (k : Nat) (f : Team → Team) : (s.onTeam k f).grids = s.grids := rfl
@[simp] theorem State.onTeam_parts (s : State) (k : Nat) (f : Team → Team) : (s.onTeam k f).parts = s.parts := rfl
@[simp] theorem State.onTeam_keys (s : State) (k : Nat) (f : Team → Team) : (s.onTeam k f).keys = s.keys := rfl
@[simp] theorem State.onTeam_queues (s : State) (k : Nat) (f : Team → Team) : (s.onTeam k f).queues = s.queues := rfl
@[simp] theorem State.onTeam_monitors (s : State) (k : Nat) (f : Team → Team) : (s.onTeam k f).monitors = s.monitors := rfl
@[simp] theorem State.onTeam_insts (s : State) (k : Nat) (f : Team → Team) : (s.onTeam k f).insts = s.insts := rfl
@[simp] theorem State.onTeam_launches (s : State) (k : Nat) (f : Team → Team) : (s.onTeam k f).launches = s.launches := rfl
@[simp] theorem State.onTeam_rounds (s : State) (k : Nat) (f : Team → Team) : (s.onTeam k f).rounds = s.rounds := rfl
@[simp] theorem State.onTeam_scheds (s : State) (k : Nat) (f : Team → Team) : (s.onTeam k f).scheds = s.scheds := rfl
@[simp] theorem State.onTeam_cmdLinks (s : State) (k : Nat) (f : Team → Team) : (s.onTeam k f).cmdLinks = s.cmdLinks := rfl
@[simp] theorem State.onTeam_preempts (s : State) (k : Nat) (f : Team → Team) : (s.onTeam k f).preempts = s.preempts := rfl
@[simp] theorem State.onTeam_ports (s : State) (k : Nat) (f : Team → Team) : (s.onTeam k f).ports = s.ports := rfl
@[simp] theorem State.onTeam_hostLog (s : State) (k : Nat) (f : Team → Team) : (s.onTeam k f).hostLog = s.hostLog := rfl
@[simp] theorem State.onTeam_peerOut (s : State) (k : Nat) (f : Team → Team) : (s.onTeam k f).peerOut = s.peerOut := rfl
@[simp] theorem State.onTeam_marks (s : State) (k : Nat) (f : Team → Team) : (s.onTeam k f).marks = s.marks := rfl
@[simp] theorem State.onTeam_units (s : State) (k : Nat) (f : Team → Team) : (s.onTeam k f).units = s.units := rfl
@[simp] theorem State.onTeam_devWrites (s : State) (k : Nat) (f : Team → Team) : (s.onTeam k f).devWrites = s.devWrites := rfl
@[simp] theorem State.onTeam_retry (s : State) (k : Nat) (f : Team → Team) : (s.onTeam k f).retry = s.retry := rfl
@[simp] theorem State.onTeam_served (s : State) (k : Nat) (f : Team → Team) : (s.onTeam k f).served = s.served := rfl
@[simp] theorem State.onTeam_posted (s : State) (k : Nat) (f : Team → Team) : (s.onTeam k f).posted = s.posted := rfl
@[simp] theorem State.onTeam_past (s : State) (k : Nat) (f : Team → Team) : (s.onTeam k f).past = s.past := rfl
@[simp] theorem State.onTeam_acquires (s : State) (k : Nat) (f : Team → Team) : (s.onTeam k f).acquires = s.acquires := rfl

/-! ## onGrid -/

@[simp] theorem State.onGrid_agenda (s : State) (k : Nat) (f : Grid → Grid) : (s.onGrid k f).agenda = s.agenda := rfl
@[simp] theorem State.onGrid_issueQ (s : State) (k : Nat) (f : Grid → Grid) : (s.onGrid k f).issueQ = s.issueQ := rfl
@[simp] theorem State.onGrid_turn (s : State) (k : Nat) (f : Grid → Grid) : (s.onGrid k f).turn = s.turn := rfl
@[simp] theorem State.onGrid_round (s : State) (k : Nat) (f : Grid → Grid) : (s.onGrid k f).round = s.round := rfl
@[simp] theorem State.onGrid_fresh (s : State) (k : Nat) (f : Grid → Grid) : (s.onGrid k f).fresh = s.fresh := rfl
@[simp] theorem State.onGrid_nextKey (s : State) (k : Nat) (f : Grid → Grid) : (s.onGrid k f).nextKey = s.nextKey := rfl
@[simp] theorem State.onGrid_nextGrid (s : State) (k : Nat) (f : Grid → Grid) : (s.onGrid k f).nextGrid = s.nextGrid := rfl
@[simp] theorem State.onGrid_code (s : State) (k : Nat) (f : Grid → Grid) : (s.onGrid k f).code = s.code := rfl
@[simp] theorem State.onGrid_fused (s : State) (k : Nat) (f : Grid → Grid) : (s.onGrid k f).fused = s.fused := rfl
@[simp] theorem State.onGrid_info (s : State) (k : Nat) (f : Grid → Grid) : (s.onGrid k f).info = s.info := rfl
@[simp] theorem State.onGrid_inRom (s : State) (k : Nat) (f : Grid → Grid) : (s.onGrid k f).inRom = s.inRom := rfl
@[simp] theorem State.onGrid_links (s : State) (k : Nat) (f : Grid → Grid) : (s.onGrid k f).links = s.links := rfl
@[simp] theorem State.onGrid_times (s : State) (k : Nat) (f : Grid → Grid) : (s.onGrid k f).times = s.times := rfl
@[simp] theorem State.onGrid_masterSet (s : State) (k : Nat) (f : Grid → Grid) : (s.onGrid k f).masterSet = s.masterSet := rfl
@[simp] theorem State.onGrid_fabric (s : State) (k : Nat) (f : Grid → Grid) : (s.onGrid k f).fabric = s.fabric := rfl
@[simp] theorem State.onGrid_mem (s : State) (k : Nat) (f : Grid → Grid) : (s.onGrid k f).mem = s.mem := rfl
@[simp] theorem State.onGrid_scrambled (s : State) (k : Nat) (f : Grid → Grid) : (s.onGrid k f).scrambled = s.scrambled := rfl
@[simp] theorem State.onGrid_l2 (s : State) (k : Nat) (f : Grid → Grid) : (s.onGrid k f).l2 = s.l2 := rfl
@[simp] theorem State.onGrid_ownReqs (s : State) (k : Nat) (f : Grid → Grid) : (s.onGrid k f).ownReqs = s.ownReqs := rfl
@[simp] theorem State.onGrid_maxLease (s : State) (k : Nat) (f : Grid → Grid) : (s.onGrid k f).maxLease = s.maxLease := rfl
@[simp] theorem State.onGrid_lost (s : State) (k : Nat) (f : Grid → Grid) : (s.onGrid k f).lost = s.lost := rfl
@[simp] theorem State.onGrid_narrow (s : State) (k : Nat) (f : Grid → Grid) : (s.onGrid k f).narrow = s.narrow := rfl
@[simp] theorem State.onGrid_debugLog (s : State) (k : Nat) (f : Grid → Grid) : (s.onGrid k f).debugLog = s.debugLog := rfl
@[simp] theorem State.onGrid_gatedWays (s : State) (k : Nat) (f : Grid → Grid) : (s.onGrid k f).gatedWays = s.gatedWays := rfl
@[simp] theorem State.onGrid_groups (s : State) (k : Nat) (f : Grid → Grid) : (s.onGrid k f).groups = s.groups := rfl
@[simp] theorem State.onGrid_ops (s : State) (k : Nat) (f : Grid → Grid) : (s.onGrid k f).ops = s.ops := rfl
@[simp] theorem State.onGrid_nextOp (s : State) (k : Nat) (f : Grid → Grid) : (s.onGrid k f).nextOp = s.nextOp := rfl
@[simp] theorem State.onGrid_trackers (s : State) (k : Nat) (f : Grid → Grid) : (s.onGrid k f).trackers = s.trackers := rfl
@[simp] theorem State.onGrid_lateFaults (s : State) (k : Nat) (f : Grid → Grid) : (s.onGrid k f).lateFaults = s.lateFaults := rfl
@[simp] theorem State.onGrid_parkings (s : State) (k : Nat) (f : Grid → Grid) : (s.onGrid k f).parkings = s.parkings := rfl
@[simp] theorem State.onGrid_cores (s : State) (k : Nat) (f : Grid → Grid) : (s.onGrid k f).cores = s.cores := rfl
@[simp] theorem State.onGrid_teams (s : State) (k : Nat) (f : Grid → Grid) : (s.onGrid k f).teams = s.teams := rfl
@[simp] theorem State.onGrid_parts (s : State) (k : Nat) (f : Grid → Grid) : (s.onGrid k f).parts = s.parts := rfl
@[simp] theorem State.onGrid_keys (s : State) (k : Nat) (f : Grid → Grid) : (s.onGrid k f).keys = s.keys := rfl
@[simp] theorem State.onGrid_queues (s : State) (k : Nat) (f : Grid → Grid) : (s.onGrid k f).queues = s.queues := rfl
@[simp] theorem State.onGrid_monitors (s : State) (k : Nat) (f : Grid → Grid) : (s.onGrid k f).monitors = s.monitors := rfl
@[simp] theorem State.onGrid_insts (s : State) (k : Nat) (f : Grid → Grid) : (s.onGrid k f).insts = s.insts := rfl
@[simp] theorem State.onGrid_launches (s : State) (k : Nat) (f : Grid → Grid) : (s.onGrid k f).launches = s.launches := rfl
@[simp] theorem State.onGrid_rounds (s : State) (k : Nat) (f : Grid → Grid) : (s.onGrid k f).rounds = s.rounds := rfl
@[simp] theorem State.onGrid_scheds (s : State) (k : Nat) (f : Grid → Grid) : (s.onGrid k f).scheds = s.scheds := rfl
@[simp] theorem State.onGrid_cmdLinks (s : State) (k : Nat) (f : Grid → Grid) : (s.onGrid k f).cmdLinks = s.cmdLinks := rfl
@[simp] theorem State.onGrid_preempts (s : State) (k : Nat) (f : Grid → Grid) : (s.onGrid k f).preempts = s.preempts := rfl
@[simp] theorem State.onGrid_ports (s : State) (k : Nat) (f : Grid → Grid) : (s.onGrid k f).ports = s.ports := rfl
@[simp] theorem State.onGrid_hostLog (s : State) (k : Nat) (f : Grid → Grid) : (s.onGrid k f).hostLog = s.hostLog := rfl
@[simp] theorem State.onGrid_peerOut (s : State) (k : Nat) (f : Grid → Grid) : (s.onGrid k f).peerOut = s.peerOut := rfl
@[simp] theorem State.onGrid_marks (s : State) (k : Nat) (f : Grid → Grid) : (s.onGrid k f).marks = s.marks := rfl
@[simp] theorem State.onGrid_units (s : State) (k : Nat) (f : Grid → Grid) : (s.onGrid k f).units = s.units := rfl
@[simp] theorem State.onGrid_devWrites (s : State) (k : Nat) (f : Grid → Grid) : (s.onGrid k f).devWrites = s.devWrites := rfl
@[simp] theorem State.onGrid_retry (s : State) (k : Nat) (f : Grid → Grid) : (s.onGrid k f).retry = s.retry := rfl
@[simp] theorem State.onGrid_served (s : State) (k : Nat) (f : Grid → Grid) : (s.onGrid k f).served = s.served := rfl
@[simp] theorem State.onGrid_posted (s : State) (k : Nat) (f : Grid → Grid) : (s.onGrid k f).posted = s.posted := rfl
@[simp] theorem State.onGrid_past (s : State) (k : Nat) (f : Grid → Grid) : (s.onGrid k f).past = s.past := rfl
@[simp] theorem State.onGrid_acquires (s : State) (k : Nat) (f : Grid → Grid) : (s.onGrid k f).acquires = s.acquires := rfl

/-! ## onPart -/

@[simp] theorem State.onPart_agenda (s : State) (p : Nat) (f : Part → Part) : (s.onPart p f).agenda = s.agenda := rfl
@[simp] theorem State.onPart_issueQ (s : State) (p : Nat) (f : Part → Part) : (s.onPart p f).issueQ = s.issueQ := rfl
@[simp] theorem State.onPart_turn (s : State) (p : Nat) (f : Part → Part) : (s.onPart p f).turn = s.turn := rfl
@[simp] theorem State.onPart_round (s : State) (p : Nat) (f : Part → Part) : (s.onPart p f).round = s.round := rfl
@[simp] theorem State.onPart_fresh (s : State) (p : Nat) (f : Part → Part) : (s.onPart p f).fresh = s.fresh := rfl
@[simp] theorem State.onPart_nextKey (s : State) (p : Nat) (f : Part → Part) : (s.onPart p f).nextKey = s.nextKey := rfl
@[simp] theorem State.onPart_nextGrid (s : State) (p : Nat) (f : Part → Part) : (s.onPart p f).nextGrid = s.nextGrid := rfl
@[simp] theorem State.onPart_code (s : State) (p : Nat) (f : Part → Part) : (s.onPart p f).code = s.code := rfl
@[simp] theorem State.onPart_fused (s : State) (p : Nat) (f : Part → Part) : (s.onPart p f).fused = s.fused := rfl
@[simp] theorem State.onPart_info (s : State) (p : Nat) (f : Part → Part) : (s.onPart p f).info = s.info := rfl
@[simp] theorem State.onPart_inRom (s : State) (p : Nat) (f : Part → Part) : (s.onPart p f).inRom = s.inRom := rfl
@[simp] theorem State.onPart_links (s : State) (p : Nat) (f : Part → Part) : (s.onPart p f).links = s.links := rfl
@[simp] theorem State.onPart_times (s : State) (p : Nat) (f : Part → Part) : (s.onPart p f).times = s.times := rfl
@[simp] theorem State.onPart_masterSet (s : State) (p : Nat) (f : Part → Part) : (s.onPart p f).masterSet = s.masterSet := rfl
@[simp] theorem State.onPart_fabric (s : State) (p : Nat) (f : Part → Part) : (s.onPart p f).fabric = s.fabric := rfl
@[simp] theorem State.onPart_mem (s : State) (p : Nat) (f : Part → Part) : (s.onPart p f).mem = s.mem := rfl
@[simp] theorem State.onPart_scrambled (s : State) (p : Nat) (f : Part → Part) : (s.onPart p f).scrambled = s.scrambled := rfl
@[simp] theorem State.onPart_l2 (s : State) (p : Nat) (f : Part → Part) : (s.onPart p f).l2 = s.l2 := rfl
@[simp] theorem State.onPart_ownReqs (s : State) (p : Nat) (f : Part → Part) : (s.onPart p f).ownReqs = s.ownReqs := rfl
@[simp] theorem State.onPart_maxLease (s : State) (p : Nat) (f : Part → Part) : (s.onPart p f).maxLease = s.maxLease := rfl
@[simp] theorem State.onPart_lost (s : State) (p : Nat) (f : Part → Part) : (s.onPart p f).lost = s.lost := rfl
@[simp] theorem State.onPart_narrow (s : State) (p : Nat) (f : Part → Part) : (s.onPart p f).narrow = s.narrow := rfl
@[simp] theorem State.onPart_debugLog (s : State) (p : Nat) (f : Part → Part) : (s.onPart p f).debugLog = s.debugLog := rfl
@[simp] theorem State.onPart_gatedWays (s : State) (p : Nat) (f : Part → Part) : (s.onPart p f).gatedWays = s.gatedWays := rfl
@[simp] theorem State.onPart_groups (s : State) (p : Nat) (f : Part → Part) : (s.onPart p f).groups = s.groups := rfl
@[simp] theorem State.onPart_ops (s : State) (p : Nat) (f : Part → Part) : (s.onPart p f).ops = s.ops := rfl
@[simp] theorem State.onPart_nextOp (s : State) (p : Nat) (f : Part → Part) : (s.onPart p f).nextOp = s.nextOp := rfl
@[simp] theorem State.onPart_trackers (s : State) (p : Nat) (f : Part → Part) : (s.onPart p f).trackers = s.trackers := rfl
@[simp] theorem State.onPart_lateFaults (s : State) (p : Nat) (f : Part → Part) : (s.onPart p f).lateFaults = s.lateFaults := rfl
@[simp] theorem State.onPart_parkings (s : State) (p : Nat) (f : Part → Part) : (s.onPart p f).parkings = s.parkings := rfl
@[simp] theorem State.onPart_cores (s : State) (p : Nat) (f : Part → Part) : (s.onPart p f).cores = s.cores := rfl
@[simp] theorem State.onPart_teams (s : State) (p : Nat) (f : Part → Part) : (s.onPart p f).teams = s.teams := rfl
@[simp] theorem State.onPart_grids (s : State) (p : Nat) (f : Part → Part) : (s.onPart p f).grids = s.grids := rfl
@[simp] theorem State.onPart_keys (s : State) (p : Nat) (f : Part → Part) : (s.onPart p f).keys = s.keys := rfl
@[simp] theorem State.onPart_queues (s : State) (p : Nat) (f : Part → Part) : (s.onPart p f).queues = s.queues := rfl
@[simp] theorem State.onPart_monitors (s : State) (p : Nat) (f : Part → Part) : (s.onPart p f).monitors = s.monitors := rfl
@[simp] theorem State.onPart_insts (s : State) (p : Nat) (f : Part → Part) : (s.onPart p f).insts = s.insts := rfl
@[simp] theorem State.onPart_launches (s : State) (p : Nat) (f : Part → Part) : (s.onPart p f).launches = s.launches := rfl
@[simp] theorem State.onPart_rounds (s : State) (p : Nat) (f : Part → Part) : (s.onPart p f).rounds = s.rounds := rfl
@[simp] theorem State.onPart_scheds (s : State) (p : Nat) (f : Part → Part) : (s.onPart p f).scheds = s.scheds := rfl
@[simp] theorem State.onPart_cmdLinks (s : State) (p : Nat) (f : Part → Part) : (s.onPart p f).cmdLinks = s.cmdLinks := rfl
@[simp] theorem State.onPart_preempts (s : State) (p : Nat) (f : Part → Part) : (s.onPart p f).preempts = s.preempts := rfl
@[simp] theorem State.onPart_ports (s : State) (p : Nat) (f : Part → Part) : (s.onPart p f).ports = s.ports := rfl
@[simp] theorem State.onPart_hostLog (s : State) (p : Nat) (f : Part → Part) : (s.onPart p f).hostLog = s.hostLog := rfl
@[simp] theorem State.onPart_peerOut (s : State) (p : Nat) (f : Part → Part) : (s.onPart p f).peerOut = s.peerOut := rfl
@[simp] theorem State.onPart_marks (s : State) (p : Nat) (f : Part → Part) : (s.onPart p f).marks = s.marks := rfl
@[simp] theorem State.onPart_units (s : State) (p : Nat) (f : Part → Part) : (s.onPart p f).units = s.units := rfl
@[simp] theorem State.onPart_devWrites (s : State) (p : Nat) (f : Part → Part) : (s.onPart p f).devWrites = s.devWrites := rfl
@[simp] theorem State.onPart_retry (s : State) (p : Nat) (f : Part → Part) : (s.onPart p f).retry = s.retry := rfl
@[simp] theorem State.onPart_served (s : State) (p : Nat) (f : Part → Part) : (s.onPart p f).served = s.served := rfl
@[simp] theorem State.onPart_posted (s : State) (p : Nat) (f : Part → Part) : (s.onPart p f).posted = s.posted := rfl
@[simp] theorem State.onPart_past (s : State) (p : Nat) (f : Part → Part) : (s.onPart p f).past = s.past := rfl
@[simp] theorem State.onPart_acquires (s : State) (p : Nat) (f : Part → Part) : (s.onPart p f).acquires = s.acquires := rfl

/-! ## popIssue -/

@[simp] theorem State.popIssue_agenda (s : State) : (s.popIssue).agenda = s.agenda := rfl
@[simp] theorem State.popIssue_turn (s : State) : (s.popIssue).turn = s.turn := rfl
@[simp] theorem State.popIssue_round (s : State) : (s.popIssue).round = s.round := rfl
@[simp] theorem State.popIssue_fresh (s : State) : (s.popIssue).fresh = s.fresh := rfl
@[simp] theorem State.popIssue_nextKey (s : State) : (s.popIssue).nextKey = s.nextKey := rfl
@[simp] theorem State.popIssue_nextGrid (s : State) : (s.popIssue).nextGrid = s.nextGrid := rfl
@[simp] theorem State.popIssue_code (s : State) : (s.popIssue).code = s.code := rfl
@[simp] theorem State.popIssue_fused (s : State) : (s.popIssue).fused = s.fused := rfl
@[simp] theorem State.popIssue_info (s : State) : (s.popIssue).info = s.info := rfl
@[simp] theorem State.popIssue_inRom (s : State) : (s.popIssue).inRom = s.inRom := rfl
@[simp] theorem State.popIssue_links (s : State) : (s.popIssue).links = s.links := rfl
@[simp] theorem State.popIssue_times (s : State) : (s.popIssue).times = s.times := rfl
@[simp] theorem State.popIssue_masterSet (s : State) : (s.popIssue).masterSet = s.masterSet := rfl
@[simp] theorem State.popIssue_fabric (s : State) : (s.popIssue).fabric = s.fabric := rfl
@[simp] theorem State.popIssue_mem (s : State) : (s.popIssue).mem = s.mem := rfl
@[simp] theorem State.popIssue_scrambled (s : State) : (s.popIssue).scrambled = s.scrambled := rfl
@[simp] theorem State.popIssue_l2 (s : State) : (s.popIssue).l2 = s.l2 := rfl
@[simp] theorem State.popIssue_ownReqs (s : State) : (s.popIssue).ownReqs = s.ownReqs := rfl
@[simp] theorem State.popIssue_maxLease (s : State) : (s.popIssue).maxLease = s.maxLease := rfl
@[simp] theorem State.popIssue_lost (s : State) : (s.popIssue).lost = s.lost := rfl
@[simp] theorem State.popIssue_narrow (s : State) : (s.popIssue).narrow = s.narrow := rfl
@[simp] theorem State.popIssue_debugLog (s : State) : (s.popIssue).debugLog = s.debugLog := rfl
@[simp] theorem State.popIssue_gatedWays (s : State) : (s.popIssue).gatedWays = s.gatedWays := rfl
@[simp] theorem State.popIssue_groups (s : State) : (s.popIssue).groups = s.groups := rfl
@[simp] theorem State.popIssue_ops (s : State) : (s.popIssue).ops = s.ops := rfl
@[simp] theorem State.popIssue_nextOp (s : State) : (s.popIssue).nextOp = s.nextOp := rfl
@[simp] theorem State.popIssue_trackers (s : State) : (s.popIssue).trackers = s.trackers := rfl
@[simp] theorem State.popIssue_lateFaults (s : State) : (s.popIssue).lateFaults = s.lateFaults := rfl
@[simp] theorem State.popIssue_parkings (s : State) : (s.popIssue).parkings = s.parkings := rfl
@[simp] theorem State.popIssue_cores (s : State) : (s.popIssue).cores = s.cores := rfl
@[simp] theorem State.popIssue_teams (s : State) : (s.popIssue).teams = s.teams := rfl
@[simp] theorem State.popIssue_grids (s : State) : (s.popIssue).grids = s.grids := rfl
@[simp] theorem State.popIssue_parts (s : State) : (s.popIssue).parts = s.parts := rfl
@[simp] theorem State.popIssue_keys (s : State) : (s.popIssue).keys = s.keys := rfl
@[simp] theorem State.popIssue_queues (s : State) : (s.popIssue).queues = s.queues := rfl
@[simp] theorem State.popIssue_monitors (s : State) : (s.popIssue).monitors = s.monitors := rfl
@[simp] theorem State.popIssue_insts (s : State) : (s.popIssue).insts = s.insts := rfl
@[simp] theorem State.popIssue_launches (s : State) : (s.popIssue).launches = s.launches := rfl
@[simp] theorem State.popIssue_rounds (s : State) : (s.popIssue).rounds = s.rounds := rfl
@[simp] theorem State.popIssue_scheds (s : State) : (s.popIssue).scheds = s.scheds := rfl
@[simp] theorem State.popIssue_cmdLinks (s : State) : (s.popIssue).cmdLinks = s.cmdLinks := rfl
@[simp] theorem State.popIssue_preempts (s : State) : (s.popIssue).preempts = s.preempts := rfl
@[simp] theorem State.popIssue_ports (s : State) : (s.popIssue).ports = s.ports := rfl
@[simp] theorem State.popIssue_hostLog (s : State) : (s.popIssue).hostLog = s.hostLog := rfl
@[simp] theorem State.popIssue_peerOut (s : State) : (s.popIssue).peerOut = s.peerOut := rfl
@[simp] theorem State.popIssue_marks (s : State) : (s.popIssue).marks = s.marks := rfl
@[simp] theorem State.popIssue_units (s : State) : (s.popIssue).units = s.units := rfl
@[simp] theorem State.popIssue_devWrites (s : State) : (s.popIssue).devWrites = s.devWrites := rfl
@[simp] theorem State.popIssue_retry (s : State) : (s.popIssue).retry = s.retry := rfl
@[simp] theorem State.popIssue_served (s : State) : (s.popIssue).served = s.served := rfl
@[simp] theorem State.popIssue_posted (s : State) : (s.popIssue).posted = s.posted := rfl
@[simp] theorem State.popIssue_past (s : State) : (s.popIssue).past = s.past := rfl
@[simp] theorem State.popIssue_acquires (s : State) : (s.popIssue).acquires = s.acquires := rfl

/-! ## onSched -/

@[simp] theorem State.onSched_agenda (s : State) (v : Nat) (f : Scheduler → Scheduler) : (s.onSched v f).agenda = s.agenda := rfl
@[simp] theorem State.onSched_issueQ (s : State) (v : Nat) (f : Scheduler → Scheduler) : (s.onSched v f).issueQ = s.issueQ := rfl
@[simp] theorem State.onSched_turn (s : State) (v : Nat) (f : Scheduler → Scheduler) : (s.onSched v f).turn = s.turn := rfl
@[simp] theorem State.onSched_round (s : State) (v : Nat) (f : Scheduler → Scheduler) : (s.onSched v f).round = s.round := rfl
@[simp] theorem State.onSched_fresh (s : State) (v : Nat) (f : Scheduler → Scheduler) : (s.onSched v f).fresh = s.fresh := rfl
@[simp] theorem State.onSched_nextKey (s : State) (v : Nat) (f : Scheduler → Scheduler) : (s.onSched v f).nextKey = s.nextKey := rfl
@[simp] theorem State.onSched_nextGrid (s : State) (v : Nat) (f : Scheduler → Scheduler) : (s.onSched v f).nextGrid = s.nextGrid := rfl
@[simp] theorem State.onSched_code (s : State) (v : Nat) (f : Scheduler → Scheduler) : (s.onSched v f).code = s.code := rfl
@[simp] theorem State.onSched_fused (s : State) (v : Nat) (f : Scheduler → Scheduler) : (s.onSched v f).fused = s.fused := rfl
@[simp] theorem State.onSched_info (s : State) (v : Nat) (f : Scheduler → Scheduler) : (s.onSched v f).info = s.info := rfl
@[simp] theorem State.onSched_inRom (s : State) (v : Nat) (f : Scheduler → Scheduler) : (s.onSched v f).inRom = s.inRom := rfl
@[simp] theorem State.onSched_links (s : State) (v : Nat) (f : Scheduler → Scheduler) : (s.onSched v f).links = s.links := rfl
@[simp] theorem State.onSched_times (s : State) (v : Nat) (f : Scheduler → Scheduler) : (s.onSched v f).times = s.times := rfl
@[simp] theorem State.onSched_masterSet (s : State) (v : Nat) (f : Scheduler → Scheduler) : (s.onSched v f).masterSet = s.masterSet := rfl
@[simp] theorem State.onSched_fabric (s : State) (v : Nat) (f : Scheduler → Scheduler) : (s.onSched v f).fabric = s.fabric := rfl
@[simp] theorem State.onSched_mem (s : State) (v : Nat) (f : Scheduler → Scheduler) : (s.onSched v f).mem = s.mem := rfl
@[simp] theorem State.onSched_scrambled (s : State) (v : Nat) (f : Scheduler → Scheduler) : (s.onSched v f).scrambled = s.scrambled := rfl
@[simp] theorem State.onSched_l2 (s : State) (v : Nat) (f : Scheduler → Scheduler) : (s.onSched v f).l2 = s.l2 := rfl
@[simp] theorem State.onSched_ownReqs (s : State) (v : Nat) (f : Scheduler → Scheduler) : (s.onSched v f).ownReqs = s.ownReqs := rfl
@[simp] theorem State.onSched_maxLease (s : State) (v : Nat) (f : Scheduler → Scheduler) : (s.onSched v f).maxLease = s.maxLease := rfl
@[simp] theorem State.onSched_lost (s : State) (v : Nat) (f : Scheduler → Scheduler) : (s.onSched v f).lost = s.lost := rfl
@[simp] theorem State.onSched_narrow (s : State) (v : Nat) (f : Scheduler → Scheduler) : (s.onSched v f).narrow = s.narrow := rfl
@[simp] theorem State.onSched_debugLog (s : State) (v : Nat) (f : Scheduler → Scheduler) : (s.onSched v f).debugLog = s.debugLog := rfl
@[simp] theorem State.onSched_gatedWays (s : State) (v : Nat) (f : Scheduler → Scheduler) : (s.onSched v f).gatedWays = s.gatedWays := rfl
@[simp] theorem State.onSched_groups (s : State) (v : Nat) (f : Scheduler → Scheduler) : (s.onSched v f).groups = s.groups := rfl
@[simp] theorem State.onSched_ops (s : State) (v : Nat) (f : Scheduler → Scheduler) : (s.onSched v f).ops = s.ops := rfl
@[simp] theorem State.onSched_nextOp (s : State) (v : Nat) (f : Scheduler → Scheduler) : (s.onSched v f).nextOp = s.nextOp := rfl
@[simp] theorem State.onSched_trackers (s : State) (v : Nat) (f : Scheduler → Scheduler) : (s.onSched v f).trackers = s.trackers := rfl
@[simp] theorem State.onSched_lateFaults (s : State) (v : Nat) (f : Scheduler → Scheduler) : (s.onSched v f).lateFaults = s.lateFaults := rfl
@[simp] theorem State.onSched_parkings (s : State) (v : Nat) (f : Scheduler → Scheduler) : (s.onSched v f).parkings = s.parkings := rfl
@[simp] theorem State.onSched_cores (s : State) (v : Nat) (f : Scheduler → Scheduler) : (s.onSched v f).cores = s.cores := rfl
@[simp] theorem State.onSched_teams (s : State) (v : Nat) (f : Scheduler → Scheduler) : (s.onSched v f).teams = s.teams := rfl
@[simp] theorem State.onSched_grids (s : State) (v : Nat) (f : Scheduler → Scheduler) : (s.onSched v f).grids = s.grids := rfl
@[simp] theorem State.onSched_parts (s : State) (v : Nat) (f : Scheduler → Scheduler) : (s.onSched v f).parts = s.parts := rfl
@[simp] theorem State.onSched_keys (s : State) (v : Nat) (f : Scheduler → Scheduler) : (s.onSched v f).keys = s.keys := rfl
@[simp] theorem State.onSched_queues (s : State) (v : Nat) (f : Scheduler → Scheduler) : (s.onSched v f).queues = s.queues := rfl
@[simp] theorem State.onSched_monitors (s : State) (v : Nat) (f : Scheduler → Scheduler) : (s.onSched v f).monitors = s.monitors := rfl
@[simp] theorem State.onSched_insts (s : State) (v : Nat) (f : Scheduler → Scheduler) : (s.onSched v f).insts = s.insts := rfl
@[simp] theorem State.onSched_launches (s : State) (v : Nat) (f : Scheduler → Scheduler) : (s.onSched v f).launches = s.launches := rfl
@[simp] theorem State.onSched_rounds (s : State) (v : Nat) (f : Scheduler → Scheduler) : (s.onSched v f).rounds = s.rounds := rfl
@[simp] theorem State.onSched_cmdLinks (s : State) (v : Nat) (f : Scheduler → Scheduler) : (s.onSched v f).cmdLinks = s.cmdLinks := rfl
@[simp] theorem State.onSched_preempts (s : State) (v : Nat) (f : Scheduler → Scheduler) : (s.onSched v f).preempts = s.preempts := rfl
@[simp] theorem State.onSched_ports (s : State) (v : Nat) (f : Scheduler → Scheduler) : (s.onSched v f).ports = s.ports := rfl
@[simp] theorem State.onSched_hostLog (s : State) (v : Nat) (f : Scheduler → Scheduler) : (s.onSched v f).hostLog = s.hostLog := rfl
@[simp] theorem State.onSched_peerOut (s : State) (v : Nat) (f : Scheduler → Scheduler) : (s.onSched v f).peerOut = s.peerOut := rfl
@[simp] theorem State.onSched_marks (s : State) (v : Nat) (f : Scheduler → Scheduler) : (s.onSched v f).marks = s.marks := rfl
@[simp] theorem State.onSched_units (s : State) (v : Nat) (f : Scheduler → Scheduler) : (s.onSched v f).units = s.units := rfl
@[simp] theorem State.onSched_devWrites (s : State) (v : Nat) (f : Scheduler → Scheduler) : (s.onSched v f).devWrites = s.devWrites := rfl
@[simp] theorem State.onSched_retry (s : State) (v : Nat) (f : Scheduler → Scheduler) : (s.onSched v f).retry = s.retry := rfl
@[simp] theorem State.onSched_served (s : State) (v : Nat) (f : Scheduler → Scheduler) : (s.onSched v f).served = s.served := rfl
@[simp] theorem State.onSched_posted (s : State) (v : Nat) (f : Scheduler → Scheduler) : (s.onSched v f).posted = s.posted := rfl
@[simp] theorem State.onSched_past (s : State) (v : Nat) (f : Scheduler → Scheduler) : (s.onSched v f).past = s.past := rfl
@[simp] theorem State.onSched_acquires (s : State) (v : Nat) (f : Scheduler → Scheduler) : (s.onSched v f).acquires = s.acquires := rfl

/-! ## onPort -/

@[simp] theorem State.onPort_agenda (s : State) (n : Nat) (f : Port → Port) : (s.onPort n f).agenda = s.agenda := rfl
@[simp] theorem State.onPort_issueQ (s : State) (n : Nat) (f : Port → Port) : (s.onPort n f).issueQ = s.issueQ := rfl
@[simp] theorem State.onPort_turn (s : State) (n : Nat) (f : Port → Port) : (s.onPort n f).turn = s.turn := rfl
@[simp] theorem State.onPort_round (s : State) (n : Nat) (f : Port → Port) : (s.onPort n f).round = s.round := rfl
@[simp] theorem State.onPort_fresh (s : State) (n : Nat) (f : Port → Port) : (s.onPort n f).fresh = s.fresh := rfl
@[simp] theorem State.onPort_nextKey (s : State) (n : Nat) (f : Port → Port) : (s.onPort n f).nextKey = s.nextKey := rfl
@[simp] theorem State.onPort_nextGrid (s : State) (n : Nat) (f : Port → Port) : (s.onPort n f).nextGrid = s.nextGrid := rfl
@[simp] theorem State.onPort_code (s : State) (n : Nat) (f : Port → Port) : (s.onPort n f).code = s.code := rfl
@[simp] theorem State.onPort_fused (s : State) (n : Nat) (f : Port → Port) : (s.onPort n f).fused = s.fused := rfl
@[simp] theorem State.onPort_info (s : State) (n : Nat) (f : Port → Port) : (s.onPort n f).info = s.info := rfl
@[simp] theorem State.onPort_inRom (s : State) (n : Nat) (f : Port → Port) : (s.onPort n f).inRom = s.inRom := rfl
@[simp] theorem State.onPort_links (s : State) (n : Nat) (f : Port → Port) : (s.onPort n f).links = s.links := rfl
@[simp] theorem State.onPort_times (s : State) (n : Nat) (f : Port → Port) : (s.onPort n f).times = s.times := rfl
@[simp] theorem State.onPort_masterSet (s : State) (n : Nat) (f : Port → Port) : (s.onPort n f).masterSet = s.masterSet := rfl
@[simp] theorem State.onPort_fabric (s : State) (n : Nat) (f : Port → Port) : (s.onPort n f).fabric = s.fabric := rfl
@[simp] theorem State.onPort_mem (s : State) (n : Nat) (f : Port → Port) : (s.onPort n f).mem = s.mem := rfl
@[simp] theorem State.onPort_scrambled (s : State) (n : Nat) (f : Port → Port) : (s.onPort n f).scrambled = s.scrambled := rfl
@[simp] theorem State.onPort_l2 (s : State) (n : Nat) (f : Port → Port) : (s.onPort n f).l2 = s.l2 := rfl
@[simp] theorem State.onPort_ownReqs (s : State) (n : Nat) (f : Port → Port) : (s.onPort n f).ownReqs = s.ownReqs := rfl
@[simp] theorem State.onPort_maxLease (s : State) (n : Nat) (f : Port → Port) : (s.onPort n f).maxLease = s.maxLease := rfl
@[simp] theorem State.onPort_lost (s : State) (n : Nat) (f : Port → Port) : (s.onPort n f).lost = s.lost := rfl
@[simp] theorem State.onPort_narrow (s : State) (n : Nat) (f : Port → Port) : (s.onPort n f).narrow = s.narrow := rfl
@[simp] theorem State.onPort_debugLog (s : State) (n : Nat) (f : Port → Port) : (s.onPort n f).debugLog = s.debugLog := rfl
@[simp] theorem State.onPort_gatedWays (s : State) (n : Nat) (f : Port → Port) : (s.onPort n f).gatedWays = s.gatedWays := rfl
@[simp] theorem State.onPort_groups (s : State) (n : Nat) (f : Port → Port) : (s.onPort n f).groups = s.groups := rfl
@[simp] theorem State.onPort_ops (s : State) (n : Nat) (f : Port → Port) : (s.onPort n f).ops = s.ops := rfl
@[simp] theorem State.onPort_nextOp (s : State) (n : Nat) (f : Port → Port) : (s.onPort n f).nextOp = s.nextOp := rfl
@[simp] theorem State.onPort_trackers (s : State) (n : Nat) (f : Port → Port) : (s.onPort n f).trackers = s.trackers := rfl
@[simp] theorem State.onPort_lateFaults (s : State) (n : Nat) (f : Port → Port) : (s.onPort n f).lateFaults = s.lateFaults := rfl
@[simp] theorem State.onPort_parkings (s : State) (n : Nat) (f : Port → Port) : (s.onPort n f).parkings = s.parkings := rfl
@[simp] theorem State.onPort_cores (s : State) (n : Nat) (f : Port → Port) : (s.onPort n f).cores = s.cores := rfl
@[simp] theorem State.onPort_teams (s : State) (n : Nat) (f : Port → Port) : (s.onPort n f).teams = s.teams := rfl
@[simp] theorem State.onPort_grids (s : State) (n : Nat) (f : Port → Port) : (s.onPort n f).grids = s.grids := rfl
@[simp] theorem State.onPort_parts (s : State) (n : Nat) (f : Port → Port) : (s.onPort n f).parts = s.parts := rfl
@[simp] theorem State.onPort_keys (s : State) (n : Nat) (f : Port → Port) : (s.onPort n f).keys = s.keys := rfl
@[simp] theorem State.onPort_queues (s : State) (n : Nat) (f : Port → Port) : (s.onPort n f).queues = s.queues := rfl
@[simp] theorem State.onPort_monitors (s : State) (n : Nat) (f : Port → Port) : (s.onPort n f).monitors = s.monitors := rfl
@[simp] theorem State.onPort_insts (s : State) (n : Nat) (f : Port → Port) : (s.onPort n f).insts = s.insts := rfl
@[simp] theorem State.onPort_launches (s : State) (n : Nat) (f : Port → Port) : (s.onPort n f).launches = s.launches := rfl
@[simp] theorem State.onPort_rounds (s : State) (n : Nat) (f : Port → Port) : (s.onPort n f).rounds = s.rounds := rfl
@[simp] theorem State.onPort_scheds (s : State) (n : Nat) (f : Port → Port) : (s.onPort n f).scheds = s.scheds := rfl
@[simp] theorem State.onPort_cmdLinks (s : State) (n : Nat) (f : Port → Port) : (s.onPort n f).cmdLinks = s.cmdLinks := rfl
@[simp] theorem State.onPort_preempts (s : State) (n : Nat) (f : Port → Port) : (s.onPort n f).preempts = s.preempts := rfl
@[simp] theorem State.onPort_hostLog (s : State) (n : Nat) (f : Port → Port) : (s.onPort n f).hostLog = s.hostLog := rfl
@[simp] theorem State.onPort_peerOut (s : State) (n : Nat) (f : Port → Port) : (s.onPort n f).peerOut = s.peerOut := rfl
@[simp] theorem State.onPort_marks (s : State) (n : Nat) (f : Port → Port) : (s.onPort n f).marks = s.marks := rfl
@[simp] theorem State.onPort_units (s : State) (n : Nat) (f : Port → Port) : (s.onPort n f).units = s.units := rfl
@[simp] theorem State.onPort_devWrites (s : State) (n : Nat) (f : Port → Port) : (s.onPort n f).devWrites = s.devWrites := rfl
@[simp] theorem State.onPort_retry (s : State) (n : Nat) (f : Port → Port) : (s.onPort n f).retry = s.retry := rfl
@[simp] theorem State.onPort_served (s : State) (n : Nat) (f : Port → Port) : (s.onPort n f).served = s.served := rfl
@[simp] theorem State.onPort_posted (s : State) (n : Nat) (f : Port → Port) : (s.onPort n f).posted = s.posted := rfl
@[simp] theorem State.onPort_past (s : State) (n : Nat) (f : Port → Port) : (s.onPort n f).past = s.past := rfl
@[simp] theorem State.onPort_acquires (s : State) (n : Nat) (f : Port → Port) : (s.onPort n f).acquires = s.acquires := rfl

/-! ## answer -/

@[simp] theorem State.answer_agenda (s : State) (tag : Nat) (r : Option (List Byte)) : (s.answer tag r).agenda = s.agenda := rfl
@[simp] theorem State.answer_issueQ (s : State) (tag : Nat) (r : Option (List Byte)) : (s.answer tag r).issueQ = s.issueQ := rfl
@[simp] theorem State.answer_turn (s : State) (tag : Nat) (r : Option (List Byte)) : (s.answer tag r).turn = s.turn := rfl
@[simp] theorem State.answer_round (s : State) (tag : Nat) (r : Option (List Byte)) : (s.answer tag r).round = s.round := rfl
@[simp] theorem State.answer_fresh (s : State) (tag : Nat) (r : Option (List Byte)) : (s.answer tag r).fresh = s.fresh := rfl
@[simp] theorem State.answer_nextKey (s : State) (tag : Nat) (r : Option (List Byte)) : (s.answer tag r).nextKey = s.nextKey := rfl
@[simp] theorem State.answer_nextGrid (s : State) (tag : Nat) (r : Option (List Byte)) : (s.answer tag r).nextGrid = s.nextGrid := rfl
@[simp] theorem State.answer_code (s : State) (tag : Nat) (r : Option (List Byte)) : (s.answer tag r).code = s.code := rfl
@[simp] theorem State.answer_fused (s : State) (tag : Nat) (r : Option (List Byte)) : (s.answer tag r).fused = s.fused := rfl
@[simp] theorem State.answer_info (s : State) (tag : Nat) (r : Option (List Byte)) : (s.answer tag r).info = s.info := rfl
@[simp] theorem State.answer_inRom (s : State) (tag : Nat) (r : Option (List Byte)) : (s.answer tag r).inRom = s.inRom := rfl
@[simp] theorem State.answer_links (s : State) (tag : Nat) (r : Option (List Byte)) : (s.answer tag r).links = s.links := rfl
@[simp] theorem State.answer_times (s : State) (tag : Nat) (r : Option (List Byte)) : (s.answer tag r).times = s.times := rfl
@[simp] theorem State.answer_masterSet (s : State) (tag : Nat) (r : Option (List Byte)) : (s.answer tag r).masterSet = s.masterSet := rfl
@[simp] theorem State.answer_fabric (s : State) (tag : Nat) (r : Option (List Byte)) : (s.answer tag r).fabric = s.fabric := rfl
@[simp] theorem State.answer_mem (s : State) (tag : Nat) (r : Option (List Byte)) : (s.answer tag r).mem = s.mem := rfl
@[simp] theorem State.answer_scrambled (s : State) (tag : Nat) (r : Option (List Byte)) : (s.answer tag r).scrambled = s.scrambled := rfl
@[simp] theorem State.answer_l2 (s : State) (tag : Nat) (r : Option (List Byte)) : (s.answer tag r).l2 = s.l2 := rfl
@[simp] theorem State.answer_ownReqs (s : State) (tag : Nat) (r : Option (List Byte)) : (s.answer tag r).ownReqs = s.ownReqs := rfl
@[simp] theorem State.answer_maxLease (s : State) (tag : Nat) (r : Option (List Byte)) : (s.answer tag r).maxLease = s.maxLease := rfl
@[simp] theorem State.answer_lost (s : State) (tag : Nat) (r : Option (List Byte)) : (s.answer tag r).lost = s.lost := rfl
@[simp] theorem State.answer_narrow (s : State) (tag : Nat) (r : Option (List Byte)) : (s.answer tag r).narrow = s.narrow := rfl
@[simp] theorem State.answer_debugLog (s : State) (tag : Nat) (r : Option (List Byte)) : (s.answer tag r).debugLog = s.debugLog := rfl
@[simp] theorem State.answer_gatedWays (s : State) (tag : Nat) (r : Option (List Byte)) : (s.answer tag r).gatedWays = s.gatedWays := rfl
@[simp] theorem State.answer_groups (s : State) (tag : Nat) (r : Option (List Byte)) : (s.answer tag r).groups = s.groups := rfl
@[simp] theorem State.answer_ops (s : State) (tag : Nat) (r : Option (List Byte)) : (s.answer tag r).ops = s.ops := rfl
@[simp] theorem State.answer_nextOp (s : State) (tag : Nat) (r : Option (List Byte)) : (s.answer tag r).nextOp = s.nextOp := rfl
@[simp] theorem State.answer_trackers (s : State) (tag : Nat) (r : Option (List Byte)) : (s.answer tag r).trackers = s.trackers := rfl
@[simp] theorem State.answer_lateFaults (s : State) (tag : Nat) (r : Option (List Byte)) : (s.answer tag r).lateFaults = s.lateFaults := rfl
@[simp] theorem State.answer_parkings (s : State) (tag : Nat) (r : Option (List Byte)) : (s.answer tag r).parkings = s.parkings := rfl
@[simp] theorem State.answer_cores (s : State) (tag : Nat) (r : Option (List Byte)) : (s.answer tag r).cores = s.cores := rfl
@[simp] theorem State.answer_teams (s : State) (tag : Nat) (r : Option (List Byte)) : (s.answer tag r).teams = s.teams := rfl
@[simp] theorem State.answer_grids (s : State) (tag : Nat) (r : Option (List Byte)) : (s.answer tag r).grids = s.grids := rfl
@[simp] theorem State.answer_parts (s : State) (tag : Nat) (r : Option (List Byte)) : (s.answer tag r).parts = s.parts := rfl
@[simp] theorem State.answer_keys (s : State) (tag : Nat) (r : Option (List Byte)) : (s.answer tag r).keys = s.keys := rfl
@[simp] theorem State.answer_queues (s : State) (tag : Nat) (r : Option (List Byte)) : (s.answer tag r).queues = s.queues := rfl
@[simp] theorem State.answer_monitors (s : State) (tag : Nat) (r : Option (List Byte)) : (s.answer tag r).monitors = s.monitors := rfl
@[simp] theorem State.answer_insts (s : State) (tag : Nat) (r : Option (List Byte)) : (s.answer tag r).insts = s.insts := rfl
@[simp] theorem State.answer_launches (s : State) (tag : Nat) (r : Option (List Byte)) : (s.answer tag r).launches = s.launches := rfl
@[simp] theorem State.answer_rounds (s : State) (tag : Nat) (r : Option (List Byte)) : (s.answer tag r).rounds = s.rounds := rfl
@[simp] theorem State.answer_scheds (s : State) (tag : Nat) (r : Option (List Byte)) : (s.answer tag r).scheds = s.scheds := rfl
@[simp] theorem State.answer_cmdLinks (s : State) (tag : Nat) (r : Option (List Byte)) : (s.answer tag r).cmdLinks = s.cmdLinks := rfl
@[simp] theorem State.answer_preempts (s : State) (tag : Nat) (r : Option (List Byte)) : (s.answer tag r).preempts = s.preempts := rfl
@[simp] theorem State.answer_ports (s : State) (tag : Nat) (r : Option (List Byte)) : (s.answer tag r).ports = s.ports := rfl
@[simp] theorem State.answer_peerOut (s : State) (tag : Nat) (r : Option (List Byte)) : (s.answer tag r).peerOut = s.peerOut := rfl
@[simp] theorem State.answer_marks (s : State) (tag : Nat) (r : Option (List Byte)) : (s.answer tag r).marks = s.marks := rfl
@[simp] theorem State.answer_units (s : State) (tag : Nat) (r : Option (List Byte)) : (s.answer tag r).units = s.units := rfl
@[simp] theorem State.answer_devWrites (s : State) (tag : Nat) (r : Option (List Byte)) : (s.answer tag r).devWrites = s.devWrites := rfl
@[simp] theorem State.answer_retry (s : State) (tag : Nat) (r : Option (List Byte)) : (s.answer tag r).retry = s.retry := rfl
@[simp] theorem State.answer_served (s : State) (tag : Nat) (r : Option (List Byte)) : (s.answer tag r).served = s.served := rfl
@[simp] theorem State.answer_posted (s : State) (tag : Nat) (r : Option (List Byte)) : (s.answer tag r).posted = s.posted := rfl
@[simp] theorem State.answer_past (s : State) (tag : Nat) (r : Option (List Byte)) : (s.answer tag r).past = s.past := rfl
@[simp] theorem State.answer_acquires (s : State) (tag : Nat) (r : Option (List Byte)) : (s.answer tag r).acquires = s.acquires := rfl

/-! ## onQueue -/

@[simp] theorem State.onQueue_agenda (s : State) (q : Nat) (f : Queue → Queue) : (s.onQueue q f).agenda = s.agenda := rfl
@[simp] theorem State.onQueue_issueQ (s : State) (q : Nat) (f : Queue → Queue) : (s.onQueue q f).issueQ = s.issueQ := rfl
@[simp] theorem State.onQueue_turn (s : State) (q : Nat) (f : Queue → Queue) : (s.onQueue q f).turn = s.turn := rfl
@[simp] theorem State.onQueue_round (s : State) (q : Nat) (f : Queue → Queue) : (s.onQueue q f).round = s.round := rfl
@[simp] theorem State.onQueue_fresh (s : State) (q : Nat) (f : Queue → Queue) : (s.onQueue q f).fresh = s.fresh := rfl
@[simp] theorem State.onQueue_nextKey (s : State) (q : Nat) (f : Queue → Queue) : (s.onQueue q f).nextKey = s.nextKey := rfl
@[simp] theorem State.onQueue_nextGrid (s : State) (q : Nat) (f : Queue → Queue) : (s.onQueue q f).nextGrid = s.nextGrid := rfl
@[simp] theorem State.onQueue_code (s : State) (q : Nat) (f : Queue → Queue) : (s.onQueue q f).code = s.code := rfl
@[simp] theorem State.onQueue_fused (s : State) (q : Nat) (f : Queue → Queue) : (s.onQueue q f).fused = s.fused := rfl
@[simp] theorem State.onQueue_info (s : State) (q : Nat) (f : Queue → Queue) : (s.onQueue q f).info = s.info := rfl
@[simp] theorem State.onQueue_inRom (s : State) (q : Nat) (f : Queue → Queue) : (s.onQueue q f).inRom = s.inRom := rfl
@[simp] theorem State.onQueue_links (s : State) (q : Nat) (f : Queue → Queue) : (s.onQueue q f).links = s.links := rfl
@[simp] theorem State.onQueue_times (s : State) (q : Nat) (f : Queue → Queue) : (s.onQueue q f).times = s.times := rfl
@[simp] theorem State.onQueue_masterSet (s : State) (q : Nat) (f : Queue → Queue) : (s.onQueue q f).masterSet = s.masterSet := rfl
@[simp] theorem State.onQueue_fabric (s : State) (q : Nat) (f : Queue → Queue) : (s.onQueue q f).fabric = s.fabric := rfl
@[simp] theorem State.onQueue_mem (s : State) (q : Nat) (f : Queue → Queue) : (s.onQueue q f).mem = s.mem := rfl
@[simp] theorem State.onQueue_scrambled (s : State) (q : Nat) (f : Queue → Queue) : (s.onQueue q f).scrambled = s.scrambled := rfl
@[simp] theorem State.onQueue_l2 (s : State) (q : Nat) (f : Queue → Queue) : (s.onQueue q f).l2 = s.l2 := rfl
@[simp] theorem State.onQueue_ownReqs (s : State) (q : Nat) (f : Queue → Queue) : (s.onQueue q f).ownReqs = s.ownReqs := rfl
@[simp] theorem State.onQueue_maxLease (s : State) (q : Nat) (f : Queue → Queue) : (s.onQueue q f).maxLease = s.maxLease := rfl
@[simp] theorem State.onQueue_lost (s : State) (q : Nat) (f : Queue → Queue) : (s.onQueue q f).lost = s.lost := rfl
@[simp] theorem State.onQueue_narrow (s : State) (q : Nat) (f : Queue → Queue) : (s.onQueue q f).narrow = s.narrow := rfl
@[simp] theorem State.onQueue_debugLog (s : State) (q : Nat) (f : Queue → Queue) : (s.onQueue q f).debugLog = s.debugLog := rfl
@[simp] theorem State.onQueue_gatedWays (s : State) (q : Nat) (f : Queue → Queue) : (s.onQueue q f).gatedWays = s.gatedWays := rfl
@[simp] theorem State.onQueue_groups (s : State) (q : Nat) (f : Queue → Queue) : (s.onQueue q f).groups = s.groups := rfl
@[simp] theorem State.onQueue_ops (s : State) (q : Nat) (f : Queue → Queue) : (s.onQueue q f).ops = s.ops := rfl
@[simp] theorem State.onQueue_nextOp (s : State) (q : Nat) (f : Queue → Queue) : (s.onQueue q f).nextOp = s.nextOp := rfl
@[simp] theorem State.onQueue_trackers (s : State) (q : Nat) (f : Queue → Queue) : (s.onQueue q f).trackers = s.trackers := rfl
@[simp] theorem State.onQueue_lateFaults (s : State) (q : Nat) (f : Queue → Queue) : (s.onQueue q f).lateFaults = s.lateFaults := rfl
@[simp] theorem State.onQueue_parkings (s : State) (q : Nat) (f : Queue → Queue) : (s.onQueue q f).parkings = s.parkings := rfl
@[simp] theorem State.onQueue_cores (s : State) (q : Nat) (f : Queue → Queue) : (s.onQueue q f).cores = s.cores := rfl
@[simp] theorem State.onQueue_teams (s : State) (q : Nat) (f : Queue → Queue) : (s.onQueue q f).teams = s.teams := rfl
@[simp] theorem State.onQueue_grids (s : State) (q : Nat) (f : Queue → Queue) : (s.onQueue q f).grids = s.grids := rfl
@[simp] theorem State.onQueue_parts (s : State) (q : Nat) (f : Queue → Queue) : (s.onQueue q f).parts = s.parts := rfl
@[simp] theorem State.onQueue_keys (s : State) (q : Nat) (f : Queue → Queue) : (s.onQueue q f).keys = s.keys := rfl
@[simp] theorem State.onQueue_monitors (s : State) (q : Nat) (f : Queue → Queue) : (s.onQueue q f).monitors = s.monitors := rfl
@[simp] theorem State.onQueue_insts (s : State) (q : Nat) (f : Queue → Queue) : (s.onQueue q f).insts = s.insts := rfl
@[simp] theorem State.onQueue_launches (s : State) (q : Nat) (f : Queue → Queue) : (s.onQueue q f).launches = s.launches := rfl
@[simp] theorem State.onQueue_rounds (s : State) (q : Nat) (f : Queue → Queue) : (s.onQueue q f).rounds = s.rounds := rfl
@[simp] theorem State.onQueue_scheds (s : State) (q : Nat) (f : Queue → Queue) : (s.onQueue q f).scheds = s.scheds := rfl
@[simp] theorem State.onQueue_cmdLinks (s : State) (q : Nat) (f : Queue → Queue) : (s.onQueue q f).cmdLinks = s.cmdLinks := rfl
@[simp] theorem State.onQueue_preempts (s : State) (q : Nat) (f : Queue → Queue) : (s.onQueue q f).preempts = s.preempts := rfl
@[simp] theorem State.onQueue_ports (s : State) (q : Nat) (f : Queue → Queue) : (s.onQueue q f).ports = s.ports := rfl
@[simp] theorem State.onQueue_hostLog (s : State) (q : Nat) (f : Queue → Queue) : (s.onQueue q f).hostLog = s.hostLog := rfl
@[simp] theorem State.onQueue_peerOut (s : State) (q : Nat) (f : Queue → Queue) : (s.onQueue q f).peerOut = s.peerOut := rfl
@[simp] theorem State.onQueue_marks (s : State) (q : Nat) (f : Queue → Queue) : (s.onQueue q f).marks = s.marks := rfl
@[simp] theorem State.onQueue_units (s : State) (q : Nat) (f : Queue → Queue) : (s.onQueue q f).units = s.units := rfl
@[simp] theorem State.onQueue_devWrites (s : State) (q : Nat) (f : Queue → Queue) : (s.onQueue q f).devWrites = s.devWrites := rfl
@[simp] theorem State.onQueue_retry (s : State) (q : Nat) (f : Queue → Queue) : (s.onQueue q f).retry = s.retry := rfl
@[simp] theorem State.onQueue_served (s : State) (q : Nat) (f : Queue → Queue) : (s.onQueue q f).served = s.served := rfl
@[simp] theorem State.onQueue_posted (s : State) (q : Nat) (f : Queue → Queue) : (s.onQueue q f).posted = s.posted := rfl
@[simp] theorem State.onQueue_past (s : State) (q : Nat) (f : Queue → Queue) : (s.onQueue q f).past = s.past := rfl
@[simp] theorem State.onQueue_acquires (s : State) (q : Nat) (f : Queue → Queue) : (s.onQueue q f).acquires = s.acquires := rfl

/-! ## mark -/

@[simp] theorem State.mark_agenda (s : State) (l : Loc) : (s.mark l).agenda = s.agenda := by
  unfold State.mark; split <;> rfl
@[simp] theorem State.mark_issueQ (s : State) (l : Loc) : (s.mark l).issueQ = s.issueQ := by
  unfold State.mark; split <;> rfl
@[simp] theorem State.mark_turn (s : State) (l : Loc) : (s.mark l).turn = s.turn := by
  unfold State.mark; split <;> rfl
@[simp] theorem State.mark_round (s : State) (l : Loc) : (s.mark l).round = s.round := by
  unfold State.mark; split <;> rfl
@[simp] theorem State.mark_fresh (s : State) (l : Loc) : (s.mark l).fresh = s.fresh := by
  unfold State.mark; split <;> rfl
@[simp] theorem State.mark_nextKey (s : State) (l : Loc) : (s.mark l).nextKey = s.nextKey := by
  unfold State.mark; split <;> rfl
@[simp] theorem State.mark_nextGrid (s : State) (l : Loc) : (s.mark l).nextGrid = s.nextGrid := by
  unfold State.mark; split <;> rfl
@[simp] theorem State.mark_code (s : State) (l : Loc) : (s.mark l).code = s.code := by
  unfold State.mark; split <;> rfl
@[simp] theorem State.mark_fused (s : State) (l : Loc) : (s.mark l).fused = s.fused := by
  unfold State.mark; split <;> rfl
@[simp] theorem State.mark_info (s : State) (l : Loc) : (s.mark l).info = s.info := by
  unfold State.mark; split <;> rfl
@[simp] theorem State.mark_inRom (s : State) (l : Loc) : (s.mark l).inRom = s.inRom := by
  unfold State.mark; split <;> rfl
@[simp] theorem State.mark_links (s : State) (l : Loc) : (s.mark l).links = s.links := by
  unfold State.mark; split <;> rfl
@[simp] theorem State.mark_times (s : State) (l : Loc) : (s.mark l).times = s.times := by
  unfold State.mark; split <;> rfl
@[simp] theorem State.mark_masterSet (s : State) (l : Loc) : (s.mark l).masterSet = s.masterSet := by
  unfold State.mark; split <;> rfl
@[simp] theorem State.mark_fabric (s : State) (l : Loc) : (s.mark l).fabric = s.fabric := by
  unfold State.mark; split <;> rfl
@[simp] theorem State.mark_mem (s : State) (l : Loc) : (s.mark l).mem = s.mem := by
  unfold State.mark; split <;> rfl
@[simp] theorem State.mark_scrambled (s : State) (l : Loc) : (s.mark l).scrambled = s.scrambled := by
  unfold State.mark; split <;> rfl
@[simp] theorem State.mark_l2 (s : State) (l : Loc) : (s.mark l).l2 = s.l2 := by
  unfold State.mark; split <;> rfl
@[simp] theorem State.mark_ownReqs (s : State) (l : Loc) : (s.mark l).ownReqs = s.ownReqs := by
  unfold State.mark; split <;> rfl
@[simp] theorem State.mark_maxLease (s : State) (l : Loc) : (s.mark l).maxLease = s.maxLease := by
  unfold State.mark; split <;> rfl
@[simp] theorem State.mark_lost (s : State) (l : Loc) : (s.mark l).lost = s.lost := by
  unfold State.mark; split <;> rfl
@[simp] theorem State.mark_narrow (s : State) (l : Loc) : (s.mark l).narrow = s.narrow := by
  unfold State.mark; split <;> rfl
@[simp] theorem State.mark_debugLog (s : State) (l : Loc) : (s.mark l).debugLog = s.debugLog := by
  unfold State.mark; split <;> rfl
@[simp] theorem State.mark_gatedWays (s : State) (l : Loc) : (s.mark l).gatedWays = s.gatedWays := by
  unfold State.mark; split <;> rfl
@[simp] theorem State.mark_groups (s : State) (l : Loc) : (s.mark l).groups = s.groups := by
  unfold State.mark; split <;> rfl
@[simp] theorem State.mark_ops (s : State) (l : Loc) : (s.mark l).ops = s.ops := by
  unfold State.mark; split <;> rfl
@[simp] theorem State.mark_nextOp (s : State) (l : Loc) : (s.mark l).nextOp = s.nextOp := by
  unfold State.mark; split <;> rfl
@[simp] theorem State.mark_trackers (s : State) (l : Loc) : (s.mark l).trackers = s.trackers := by
  unfold State.mark; split <;> rfl
@[simp] theorem State.mark_lateFaults (s : State) (l : Loc) : (s.mark l).lateFaults = s.lateFaults := by
  unfold State.mark; split <;> rfl
@[simp] theorem State.mark_parkings (s : State) (l : Loc) : (s.mark l).parkings = s.parkings := by
  unfold State.mark; split <;> rfl
@[simp] theorem State.mark_cores (s : State) (l : Loc) : (s.mark l).cores = s.cores := by
  unfold State.mark; split <;> rfl
@[simp] theorem State.mark_teams (s : State) (l : Loc) : (s.mark l).teams = s.teams := by
  unfold State.mark; split <;> rfl
@[simp] theorem State.mark_grids (s : State) (l : Loc) : (s.mark l).grids = s.grids := by
  unfold State.mark; split <;> rfl
@[simp] theorem State.mark_parts (s : State) (l : Loc) : (s.mark l).parts = s.parts := by
  unfold State.mark; split <;> rfl
@[simp] theorem State.mark_keys (s : State) (l : Loc) : (s.mark l).keys = s.keys := by
  unfold State.mark; split <;> rfl
@[simp] theorem State.mark_queues (s : State) (l : Loc) : (s.mark l).queues = s.queues := by
  unfold State.mark; split <;> rfl
@[simp] theorem State.mark_monitors (s : State) (l : Loc) : (s.mark l).monitors = s.monitors := by
  unfold State.mark; split <;> rfl
@[simp] theorem State.mark_insts (s : State) (l : Loc) : (s.mark l).insts = s.insts := by
  unfold State.mark; split <;> rfl
@[simp] theorem State.mark_launches (s : State) (l : Loc) : (s.mark l).launches = s.launches := by
  unfold State.mark; split <;> rfl
@[simp] theorem State.mark_rounds (s : State) (l : Loc) : (s.mark l).rounds = s.rounds := by
  unfold State.mark; split <;> rfl
@[simp] theorem State.mark_scheds (s : State) (l : Loc) : (s.mark l).scheds = s.scheds := by
  unfold State.mark; split <;> rfl
@[simp] theorem State.mark_cmdLinks (s : State) (l : Loc) : (s.mark l).cmdLinks = s.cmdLinks := by
  unfold State.mark; split <;> rfl
@[simp] theorem State.mark_preempts (s : State) (l : Loc) : (s.mark l).preempts = s.preempts := by
  unfold State.mark; split <;> rfl
@[simp] theorem State.mark_ports (s : State) (l : Loc) : (s.mark l).ports = s.ports := by
  unfold State.mark; split <;> rfl
@[simp] theorem State.mark_hostLog (s : State) (l : Loc) : (s.mark l).hostLog = s.hostLog := by
  unfold State.mark; split <;> rfl
@[simp] theorem State.mark_peerOut (s : State) (l : Loc) : (s.mark l).peerOut = s.peerOut := by
  unfold State.mark; split <;> rfl
@[simp] theorem State.mark_units (s : State) (l : Loc) : (s.mark l).units = s.units := by
  unfold State.mark; split <;> rfl
@[simp] theorem State.mark_devWrites (s : State) (l : Loc) : (s.mark l).devWrites = s.devWrites := by
  unfold State.mark; split <;> rfl
@[simp] theorem State.mark_retry (s : State) (l : Loc) : (s.mark l).retry = s.retry := by
  unfold State.mark; split <;> rfl
@[simp] theorem State.mark_served (s : State) (l : Loc) : (s.mark l).served = s.served := by
  unfold State.mark; split <;> rfl
@[simp] theorem State.mark_posted (s : State) (l : Loc) : (s.mark l).posted = s.posted := by
  unfold State.mark; split <;> rfl
@[simp] theorem State.mark_past (s : State) (l : Loc) : (s.mark l).past = s.past := by
  unfold State.mark; split <;> rfl
@[simp] theorem State.mark_acquires (s : State) (l : Loc) : (s.mark l).acquires = s.acquires := by
  unfold State.mark; split <;> rfl

/-! ## onOp -/

@[simp] theorem State.onOp_agenda (s : State) (id : Nat) (f : Op → Op) : (s.onOp id f).agenda = s.agenda := rfl
@[simp] theorem State.onOp_issueQ (s : State) (id : Nat) (f : Op → Op) : (s.onOp id f).issueQ = s.issueQ := rfl
@[simp] theorem State.onOp_turn (s : State) (id : Nat) (f : Op → Op) : (s.onOp id f).turn = s.turn := rfl
@[simp] theorem State.onOp_round (s : State) (id : Nat) (f : Op → Op) : (s.onOp id f).round = s.round := rfl
@[simp] theorem State.onOp_fresh (s : State) (id : Nat) (f : Op → Op) : (s.onOp id f).fresh = s.fresh := rfl
@[simp] theorem State.onOp_nextKey (s : State) (id : Nat) (f : Op → Op) : (s.onOp id f).nextKey = s.nextKey := rfl
@[simp] theorem State.onOp_nextGrid (s : State) (id : Nat) (f : Op → Op) : (s.onOp id f).nextGrid = s.nextGrid := rfl
@[simp] theorem State.onOp_code (s : State) (id : Nat) (f : Op → Op) : (s.onOp id f).code = s.code := rfl
@[simp] theorem State.onOp_fused (s : State) (id : Nat) (f : Op → Op) : (s.onOp id f).fused = s.fused := rfl
@[simp] theorem State.onOp_info (s : State) (id : Nat) (f : Op → Op) : (s.onOp id f).info = s.info := rfl
@[simp] theorem State.onOp_inRom (s : State) (id : Nat) (f : Op → Op) : (s.onOp id f).inRom = s.inRom := rfl
@[simp] theorem State.onOp_links (s : State) (id : Nat) (f : Op → Op) : (s.onOp id f).links = s.links := rfl
@[simp] theorem State.onOp_times (s : State) (id : Nat) (f : Op → Op) : (s.onOp id f).times = s.times := rfl
@[simp] theorem State.onOp_masterSet (s : State) (id : Nat) (f : Op → Op) : (s.onOp id f).masterSet = s.masterSet := rfl
@[simp] theorem State.onOp_fabric (s : State) (id : Nat) (f : Op → Op) : (s.onOp id f).fabric = s.fabric := rfl
@[simp] theorem State.onOp_mem (s : State) (id : Nat) (f : Op → Op) : (s.onOp id f).mem = s.mem := rfl
@[simp] theorem State.onOp_scrambled (s : State) (id : Nat) (f : Op → Op) : (s.onOp id f).scrambled = s.scrambled := rfl
@[simp] theorem State.onOp_l2 (s : State) (id : Nat) (f : Op → Op) : (s.onOp id f).l2 = s.l2 := rfl
@[simp] theorem State.onOp_ownReqs (s : State) (id : Nat) (f : Op → Op) : (s.onOp id f).ownReqs = s.ownReqs := rfl
@[simp] theorem State.onOp_maxLease (s : State) (id : Nat) (f : Op → Op) : (s.onOp id f).maxLease = s.maxLease := rfl
@[simp] theorem State.onOp_lost (s : State) (id : Nat) (f : Op → Op) : (s.onOp id f).lost = s.lost := rfl
@[simp] theorem State.onOp_narrow (s : State) (id : Nat) (f : Op → Op) : (s.onOp id f).narrow = s.narrow := rfl
@[simp] theorem State.onOp_debugLog (s : State) (id : Nat) (f : Op → Op) : (s.onOp id f).debugLog = s.debugLog := rfl
@[simp] theorem State.onOp_gatedWays (s : State) (id : Nat) (f : Op → Op) : (s.onOp id f).gatedWays = s.gatedWays := rfl
@[simp] theorem State.onOp_groups (s : State) (id : Nat) (f : Op → Op) : (s.onOp id f).groups = s.groups := rfl
@[simp] theorem State.onOp_nextOp (s : State) (id : Nat) (f : Op → Op) : (s.onOp id f).nextOp = s.nextOp := rfl
@[simp] theorem State.onOp_trackers (s : State) (id : Nat) (f : Op → Op) : (s.onOp id f).trackers = s.trackers := rfl
@[simp] theorem State.onOp_lateFaults (s : State) (id : Nat) (f : Op → Op) : (s.onOp id f).lateFaults = s.lateFaults := rfl
@[simp] theorem State.onOp_parkings (s : State) (id : Nat) (f : Op → Op) : (s.onOp id f).parkings = s.parkings := rfl
@[simp] theorem State.onOp_cores (s : State) (id : Nat) (f : Op → Op) : (s.onOp id f).cores = s.cores := rfl
@[simp] theorem State.onOp_teams (s : State) (id : Nat) (f : Op → Op) : (s.onOp id f).teams = s.teams := rfl
@[simp] theorem State.onOp_grids (s : State) (id : Nat) (f : Op → Op) : (s.onOp id f).grids = s.grids := rfl
@[simp] theorem State.onOp_parts (s : State) (id : Nat) (f : Op → Op) : (s.onOp id f).parts = s.parts := rfl
@[simp] theorem State.onOp_keys (s : State) (id : Nat) (f : Op → Op) : (s.onOp id f).keys = s.keys := rfl
@[simp] theorem State.onOp_queues (s : State) (id : Nat) (f : Op → Op) : (s.onOp id f).queues = s.queues := rfl
@[simp] theorem State.onOp_monitors (s : State) (id : Nat) (f : Op → Op) : (s.onOp id f).monitors = s.monitors := rfl
@[simp] theorem State.onOp_insts (s : State) (id : Nat) (f : Op → Op) : (s.onOp id f).insts = s.insts := rfl
@[simp] theorem State.onOp_launches (s : State) (id : Nat) (f : Op → Op) : (s.onOp id f).launches = s.launches := rfl
@[simp] theorem State.onOp_rounds (s : State) (id : Nat) (f : Op → Op) : (s.onOp id f).rounds = s.rounds := rfl
@[simp] theorem State.onOp_scheds (s : State) (id : Nat) (f : Op → Op) : (s.onOp id f).scheds = s.scheds := rfl
@[simp] theorem State.onOp_cmdLinks (s : State) (id : Nat) (f : Op → Op) : (s.onOp id f).cmdLinks = s.cmdLinks := rfl
@[simp] theorem State.onOp_preempts (s : State) (id : Nat) (f : Op → Op) : (s.onOp id f).preempts = s.preempts := rfl
@[simp] theorem State.onOp_ports (s : State) (id : Nat) (f : Op → Op) : (s.onOp id f).ports = s.ports := rfl
@[simp] theorem State.onOp_hostLog (s : State) (id : Nat) (f : Op → Op) : (s.onOp id f).hostLog = s.hostLog := rfl
@[simp] theorem State.onOp_peerOut (s : State) (id : Nat) (f : Op → Op) : (s.onOp id f).peerOut = s.peerOut := rfl
@[simp] theorem State.onOp_marks (s : State) (id : Nat) (f : Op → Op) : (s.onOp id f).marks = s.marks := rfl
@[simp] theorem State.onOp_units (s : State) (id : Nat) (f : Op → Op) : (s.onOp id f).units = s.units := rfl
@[simp] theorem State.onOp_devWrites (s : State) (id : Nat) (f : Op → Op) : (s.onOp id f).devWrites = s.devWrites := rfl
@[simp] theorem State.onOp_retry (s : State) (id : Nat) (f : Op → Op) : (s.onOp id f).retry = s.retry := rfl
@[simp] theorem State.onOp_served (s : State) (id : Nat) (f : Op → Op) : (s.onOp id f).served = s.served := rfl
@[simp] theorem State.onOp_posted (s : State) (id : Nat) (f : Op → Op) : (s.onOp id f).posted = s.posted := rfl
@[simp] theorem State.onOp_past (s : State) (id : Nat) (f : Op → Op) : (s.onOp id f).past = s.past := rfl
@[simp] theorem State.onOp_acquires (s : State) (id : Nat) (f : Op → Op) : (s.onOp id f).acquires = s.acquires := rfl

/-! ## notePast -/

@[simp] theorem State.notePast_agenda (s : State) (m : Maker) (key n : Nat) : (s.notePast m key n).agenda = s.agenda := rfl
@[simp] theorem State.notePast_issueQ (s : State) (m : Maker) (key n : Nat) : (s.notePast m key n).issueQ = s.issueQ := rfl
@[simp] theorem State.notePast_turn (s : State) (m : Maker) (key n : Nat) : (s.notePast m key n).turn = s.turn := rfl
@[simp] theorem State.notePast_round (s : State) (m : Maker) (key n : Nat) : (s.notePast m key n).round = s.round := rfl
@[simp] theorem State.notePast_fresh (s : State) (m : Maker) (key n : Nat) : (s.notePast m key n).fresh = s.fresh := rfl
@[simp] theorem State.notePast_nextKey (s : State) (m : Maker) (key n : Nat) : (s.notePast m key n).nextKey = s.nextKey := rfl
@[simp] theorem State.notePast_nextGrid (s : State) (m : Maker) (key n : Nat) : (s.notePast m key n).nextGrid = s.nextGrid := rfl
@[simp] theorem State.notePast_code (s : State) (m : Maker) (key n : Nat) : (s.notePast m key n).code = s.code := rfl
@[simp] theorem State.notePast_fused (s : State) (m : Maker) (key n : Nat) : (s.notePast m key n).fused = s.fused := rfl
@[simp] theorem State.notePast_info (s : State) (m : Maker) (key n : Nat) : (s.notePast m key n).info = s.info := rfl
@[simp] theorem State.notePast_inRom (s : State) (m : Maker) (key n : Nat) : (s.notePast m key n).inRom = s.inRom := rfl
@[simp] theorem State.notePast_links (s : State) (m : Maker) (key n : Nat) : (s.notePast m key n).links = s.links := rfl
@[simp] theorem State.notePast_times (s : State) (m : Maker) (key n : Nat) : (s.notePast m key n).times = s.times := rfl
@[simp] theorem State.notePast_masterSet (s : State) (m : Maker) (key n : Nat) : (s.notePast m key n).masterSet = s.masterSet := rfl
@[simp] theorem State.notePast_fabric (s : State) (m : Maker) (key n : Nat) : (s.notePast m key n).fabric = s.fabric := rfl
@[simp] theorem State.notePast_mem (s : State) (m : Maker) (key n : Nat) : (s.notePast m key n).mem = s.mem := rfl
@[simp] theorem State.notePast_scrambled (s : State) (m : Maker) (key n : Nat) : (s.notePast m key n).scrambled = s.scrambled := rfl
@[simp] theorem State.notePast_l2 (s : State) (m : Maker) (key n : Nat) : (s.notePast m key n).l2 = s.l2 := rfl
@[simp] theorem State.notePast_ownReqs (s : State) (m : Maker) (key n : Nat) : (s.notePast m key n).ownReqs = s.ownReqs := rfl
@[simp] theorem State.notePast_maxLease (s : State) (m : Maker) (key n : Nat) : (s.notePast m key n).maxLease = s.maxLease := rfl
@[simp] theorem State.notePast_lost (s : State) (m : Maker) (key n : Nat) : (s.notePast m key n).lost = s.lost := rfl
@[simp] theorem State.notePast_narrow (s : State) (m : Maker) (key n : Nat) : (s.notePast m key n).narrow = s.narrow := rfl
@[simp] theorem State.notePast_debugLog (s : State) (m : Maker) (key n : Nat) : (s.notePast m key n).debugLog = s.debugLog := rfl
@[simp] theorem State.notePast_gatedWays (s : State) (m : Maker) (key n : Nat) : (s.notePast m key n).gatedWays = s.gatedWays := rfl
@[simp] theorem State.notePast_groups (s : State) (m : Maker) (key n : Nat) : (s.notePast m key n).groups = s.groups := rfl
@[simp] theorem State.notePast_ops (s : State) (m : Maker) (key n : Nat) : (s.notePast m key n).ops = s.ops := rfl
@[simp] theorem State.notePast_nextOp (s : State) (m : Maker) (key n : Nat) : (s.notePast m key n).nextOp = s.nextOp := rfl
@[simp] theorem State.notePast_trackers (s : State) (m : Maker) (key n : Nat) : (s.notePast m key n).trackers = s.trackers := rfl
@[simp] theorem State.notePast_lateFaults (s : State) (m : Maker) (key n : Nat) : (s.notePast m key n).lateFaults = s.lateFaults := rfl
@[simp] theorem State.notePast_parkings (s : State) (m : Maker) (key n : Nat) : (s.notePast m key n).parkings = s.parkings := rfl
@[simp] theorem State.notePast_cores (s : State) (m : Maker) (key n : Nat) : (s.notePast m key n).cores = s.cores := rfl
@[simp] theorem State.notePast_teams (s : State) (m : Maker) (key n : Nat) : (s.notePast m key n).teams = s.teams := rfl
@[simp] theorem State.notePast_grids (s : State) (m : Maker) (key n : Nat) : (s.notePast m key n).grids = s.grids := rfl
@[simp] theorem State.notePast_parts (s : State) (m : Maker) (key n : Nat) : (s.notePast m key n).parts = s.parts := rfl
@[simp] theorem State.notePast_keys (s : State) (m : Maker) (key n : Nat) : (s.notePast m key n).keys = s.keys := rfl
@[simp] theorem State.notePast_queues (s : State) (m : Maker) (key n : Nat) : (s.notePast m key n).queues = s.queues := rfl
@[simp] theorem State.notePast_monitors (s : State) (m : Maker) (key n : Nat) : (s.notePast m key n).monitors = s.monitors := rfl
@[simp] theorem State.notePast_insts (s : State) (m : Maker) (key n : Nat) : (s.notePast m key n).insts = s.insts := rfl
@[simp] theorem State.notePast_launches (s : State) (m : Maker) (key n : Nat) : (s.notePast m key n).launches = s.launches := rfl
@[simp] theorem State.notePast_rounds (s : State) (m : Maker) (key n : Nat) : (s.notePast m key n).rounds = s.rounds := rfl
@[simp] theorem State.notePast_scheds (s : State) (m : Maker) (key n : Nat) : (s.notePast m key n).scheds = s.scheds := rfl
@[simp] theorem State.notePast_cmdLinks (s : State) (m : Maker) (key n : Nat) : (s.notePast m key n).cmdLinks = s.cmdLinks := rfl
@[simp] theorem State.notePast_preempts (s : State) (m : Maker) (key n : Nat) : (s.notePast m key n).preempts = s.preempts := rfl
@[simp] theorem State.notePast_ports (s : State) (m : Maker) (key n : Nat) : (s.notePast m key n).ports = s.ports := rfl
@[simp] theorem State.notePast_hostLog (s : State) (m : Maker) (key n : Nat) : (s.notePast m key n).hostLog = s.hostLog := rfl
@[simp] theorem State.notePast_peerOut (s : State) (m : Maker) (key n : Nat) : (s.notePast m key n).peerOut = s.peerOut := rfl
@[simp] theorem State.notePast_marks (s : State) (m : Maker) (key n : Nat) : (s.notePast m key n).marks = s.marks := rfl
@[simp] theorem State.notePast_units (s : State) (m : Maker) (key n : Nat) : (s.notePast m key n).units = s.units := rfl
@[simp] theorem State.notePast_devWrites (s : State) (m : Maker) (key n : Nat) : (s.notePast m key n).devWrites = s.devWrites := rfl
@[simp] theorem State.notePast_retry (s : State) (m : Maker) (key n : Nat) : (s.notePast m key n).retry = s.retry := rfl
@[simp] theorem State.notePast_served (s : State) (m : Maker) (key n : Nat) : (s.notePast m key n).served = s.served := rfl
@[simp] theorem State.notePast_posted (s : State) (m : Maker) (key n : Nat) : (s.notePast m key n).posted = s.posted := rfl
@[simp] theorem State.notePast_acquires (s : State) (m : Maker) (key n : Nat) : (s.notePast m key n).acquires = s.acquires := rfl

/-! ## noteUnit -/

@[simp] theorem State.noteUnit_agenda (s : State) (root : Bool) (unit lo n : Nat) : (s.noteUnit root unit lo n).agenda = s.agenda := rfl
@[simp] theorem State.noteUnit_issueQ (s : State) (root : Bool) (unit lo n : Nat) : (s.noteUnit root unit lo n).issueQ = s.issueQ := rfl
@[simp] theorem State.noteUnit_turn (s : State) (root : Bool) (unit lo n : Nat) : (s.noteUnit root unit lo n).turn = s.turn := rfl
@[simp] theorem State.noteUnit_round (s : State) (root : Bool) (unit lo n : Nat) : (s.noteUnit root unit lo n).round = s.round := rfl
@[simp] theorem State.noteUnit_fresh (s : State) (root : Bool) (unit lo n : Nat) : (s.noteUnit root unit lo n).fresh = s.fresh := rfl
@[simp] theorem State.noteUnit_nextKey (s : State) (root : Bool) (unit lo n : Nat) : (s.noteUnit root unit lo n).nextKey = s.nextKey := rfl
@[simp] theorem State.noteUnit_nextGrid (s : State) (root : Bool) (unit lo n : Nat) : (s.noteUnit root unit lo n).nextGrid = s.nextGrid := rfl
@[simp] theorem State.noteUnit_code (s : State) (root : Bool) (unit lo n : Nat) : (s.noteUnit root unit lo n).code = s.code := rfl
@[simp] theorem State.noteUnit_fused (s : State) (root : Bool) (unit lo n : Nat) : (s.noteUnit root unit lo n).fused = s.fused := rfl
@[simp] theorem State.noteUnit_info (s : State) (root : Bool) (unit lo n : Nat) : (s.noteUnit root unit lo n).info = s.info := rfl
@[simp] theorem State.noteUnit_inRom (s : State) (root : Bool) (unit lo n : Nat) : (s.noteUnit root unit lo n).inRom = s.inRom := rfl
@[simp] theorem State.noteUnit_links (s : State) (root : Bool) (unit lo n : Nat) : (s.noteUnit root unit lo n).links = s.links := rfl
@[simp] theorem State.noteUnit_times (s : State) (root : Bool) (unit lo n : Nat) : (s.noteUnit root unit lo n).times = s.times := rfl
@[simp] theorem State.noteUnit_masterSet (s : State) (root : Bool) (unit lo n : Nat) : (s.noteUnit root unit lo n).masterSet = s.masterSet := rfl
@[simp] theorem State.noteUnit_fabric (s : State) (root : Bool) (unit lo n : Nat) : (s.noteUnit root unit lo n).fabric = s.fabric := rfl
@[simp] theorem State.noteUnit_mem (s : State) (root : Bool) (unit lo n : Nat) : (s.noteUnit root unit lo n).mem = s.mem := rfl
@[simp] theorem State.noteUnit_scrambled (s : State) (root : Bool) (unit lo n : Nat) : (s.noteUnit root unit lo n).scrambled = s.scrambled := rfl
@[simp] theorem State.noteUnit_l2 (s : State) (root : Bool) (unit lo n : Nat) : (s.noteUnit root unit lo n).l2 = s.l2 := rfl
@[simp] theorem State.noteUnit_ownReqs (s : State) (root : Bool) (unit lo n : Nat) : (s.noteUnit root unit lo n).ownReqs = s.ownReqs := rfl
@[simp] theorem State.noteUnit_maxLease (s : State) (root : Bool) (unit lo n : Nat) : (s.noteUnit root unit lo n).maxLease = s.maxLease := rfl
@[simp] theorem State.noteUnit_lost (s : State) (root : Bool) (unit lo n : Nat) : (s.noteUnit root unit lo n).lost = s.lost := rfl
@[simp] theorem State.noteUnit_narrow (s : State) (root : Bool) (unit lo n : Nat) : (s.noteUnit root unit lo n).narrow = s.narrow := rfl
@[simp] theorem State.noteUnit_debugLog (s : State) (root : Bool) (unit lo n : Nat) : (s.noteUnit root unit lo n).debugLog = s.debugLog := rfl
@[simp] theorem State.noteUnit_gatedWays (s : State) (root : Bool) (unit lo n : Nat) : (s.noteUnit root unit lo n).gatedWays = s.gatedWays := rfl
@[simp] theorem State.noteUnit_groups (s : State) (root : Bool) (unit lo n : Nat) : (s.noteUnit root unit lo n).groups = s.groups := rfl
@[simp] theorem State.noteUnit_ops (s : State) (root : Bool) (unit lo n : Nat) : (s.noteUnit root unit lo n).ops = s.ops := rfl
@[simp] theorem State.noteUnit_nextOp (s : State) (root : Bool) (unit lo n : Nat) : (s.noteUnit root unit lo n).nextOp = s.nextOp := rfl
@[simp] theorem State.noteUnit_trackers (s : State) (root : Bool) (unit lo n : Nat) : (s.noteUnit root unit lo n).trackers = s.trackers := rfl
@[simp] theorem State.noteUnit_lateFaults (s : State) (root : Bool) (unit lo n : Nat) : (s.noteUnit root unit lo n).lateFaults = s.lateFaults := rfl
@[simp] theorem State.noteUnit_parkings (s : State) (root : Bool) (unit lo n : Nat) : (s.noteUnit root unit lo n).parkings = s.parkings := rfl
@[simp] theorem State.noteUnit_cores (s : State) (root : Bool) (unit lo n : Nat) : (s.noteUnit root unit lo n).cores = s.cores := rfl
@[simp] theorem State.noteUnit_teams (s : State) (root : Bool) (unit lo n : Nat) : (s.noteUnit root unit lo n).teams = s.teams := rfl
@[simp] theorem State.noteUnit_grids (s : State) (root : Bool) (unit lo n : Nat) : (s.noteUnit root unit lo n).grids = s.grids := rfl
@[simp] theorem State.noteUnit_parts (s : State) (root : Bool) (unit lo n : Nat) : (s.noteUnit root unit lo n).parts = s.parts := rfl
@[simp] theorem State.noteUnit_keys (s : State) (root : Bool) (unit lo n : Nat) : (s.noteUnit root unit lo n).keys = s.keys := rfl
@[simp] theorem State.noteUnit_queues (s : State) (root : Bool) (unit lo n : Nat) : (s.noteUnit root unit lo n).queues = s.queues := rfl
@[simp] theorem State.noteUnit_monitors (s : State) (root : Bool) (unit lo n : Nat) : (s.noteUnit root unit lo n).monitors = s.monitors := rfl
@[simp] theorem State.noteUnit_insts (s : State) (root : Bool) (unit lo n : Nat) : (s.noteUnit root unit lo n).insts = s.insts := rfl
@[simp] theorem State.noteUnit_launches (s : State) (root : Bool) (unit lo n : Nat) : (s.noteUnit root unit lo n).launches = s.launches := rfl
@[simp] theorem State.noteUnit_rounds (s : State) (root : Bool) (unit lo n : Nat) : (s.noteUnit root unit lo n).rounds = s.rounds := rfl
@[simp] theorem State.noteUnit_scheds (s : State) (root : Bool) (unit lo n : Nat) : (s.noteUnit root unit lo n).scheds = s.scheds := rfl
@[simp] theorem State.noteUnit_cmdLinks (s : State) (root : Bool) (unit lo n : Nat) : (s.noteUnit root unit lo n).cmdLinks = s.cmdLinks := rfl
@[simp] theorem State.noteUnit_preempts (s : State) (root : Bool) (unit lo n : Nat) : (s.noteUnit root unit lo n).preempts = s.preempts := rfl
@[simp] theorem State.noteUnit_ports (s : State) (root : Bool) (unit lo n : Nat) : (s.noteUnit root unit lo n).ports = s.ports := rfl
@[simp] theorem State.noteUnit_hostLog (s : State) (root : Bool) (unit lo n : Nat) : (s.noteUnit root unit lo n).hostLog = s.hostLog := rfl
@[simp] theorem State.noteUnit_peerOut (s : State) (root : Bool) (unit lo n : Nat) : (s.noteUnit root unit lo n).peerOut = s.peerOut := rfl
@[simp] theorem State.noteUnit_marks (s : State) (root : Bool) (unit lo n : Nat) : (s.noteUnit root unit lo n).marks = s.marks := rfl
@[simp] theorem State.noteUnit_devWrites (s : State) (root : Bool) (unit lo n : Nat) : (s.noteUnit root unit lo n).devWrites = s.devWrites := rfl
@[simp] theorem State.noteUnit_retry (s : State) (root : Bool) (unit lo n : Nat) : (s.noteUnit root unit lo n).retry = s.retry := rfl
@[simp] theorem State.noteUnit_served (s : State) (root : Bool) (unit lo n : Nat) : (s.noteUnit root unit lo n).served = s.served := rfl
@[simp] theorem State.noteUnit_posted (s : State) (root : Bool) (unit lo n : Nat) : (s.noteUnit root unit lo n).posted = s.posted := rfl
@[simp] theorem State.noteUnit_past (s : State) (root : Bool) (unit lo n : Nat) : (s.noteUnit root unit lo n).past = s.past := rfl
@[simp] theorem State.noteUnit_acquires (s : State) (root : Bool) (unit lo n : Nat) : (s.noteUnit root unit lo n).acquires = s.acquires := rfl

/-! ## onPreempt -/

@[simp] theorem State.onPreempt_agenda (s : State) (n : Nat) (f : Preempt → Preempt) : (s.onPreempt n f).agenda = s.agenda := rfl
@[simp] theorem State.onPreempt_issueQ (s : State) (n : Nat) (f : Preempt → Preempt) : (s.onPreempt n f).issueQ = s.issueQ := rfl
@[simp] theorem State.onPreempt_turn (s : State) (n : Nat) (f : Preempt → Preempt) : (s.onPreempt n f).turn = s.turn := rfl
@[simp] theorem State.onPreempt_round (s : State) (n : Nat) (f : Preempt → Preempt) : (s.onPreempt n f).round = s.round := rfl
@[simp] theorem State.onPreempt_fresh (s : State) (n : Nat) (f : Preempt → Preempt) : (s.onPreempt n f).fresh = s.fresh := rfl
@[simp] theorem State.onPreempt_nextKey (s : State) (n : Nat) (f : Preempt → Preempt) : (s.onPreempt n f).nextKey = s.nextKey := rfl
@[simp] theorem State.onPreempt_nextGrid (s : State) (n : Nat) (f : Preempt → Preempt) : (s.onPreempt n f).nextGrid = s.nextGrid := rfl
@[simp] theorem State.onPreempt_code (s : State) (n : Nat) (f : Preempt → Preempt) : (s.onPreempt n f).code = s.code := rfl
@[simp] theorem State.onPreempt_fused (s : State) (n : Nat) (f : Preempt → Preempt) : (s.onPreempt n f).fused = s.fused := rfl
@[simp] theorem State.onPreempt_info (s : State) (n : Nat) (f : Preempt → Preempt) : (s.onPreempt n f).info = s.info := rfl
@[simp] theorem State.onPreempt_inRom (s : State) (n : Nat) (f : Preempt → Preempt) : (s.onPreempt n f).inRom = s.inRom := rfl
@[simp] theorem State.onPreempt_links (s : State) (n : Nat) (f : Preempt → Preempt) : (s.onPreempt n f).links = s.links := rfl
@[simp] theorem State.onPreempt_times (s : State) (n : Nat) (f : Preempt → Preempt) : (s.onPreempt n f).times = s.times := rfl
@[simp] theorem State.onPreempt_masterSet (s : State) (n : Nat) (f : Preempt → Preempt) : (s.onPreempt n f).masterSet = s.masterSet := rfl
@[simp] theorem State.onPreempt_fabric (s : State) (n : Nat) (f : Preempt → Preempt) : (s.onPreempt n f).fabric = s.fabric := rfl
@[simp] theorem State.onPreempt_mem (s : State) (n : Nat) (f : Preempt → Preempt) : (s.onPreempt n f).mem = s.mem := rfl
@[simp] theorem State.onPreempt_scrambled (s : State) (n : Nat) (f : Preempt → Preempt) : (s.onPreempt n f).scrambled = s.scrambled := rfl
@[simp] theorem State.onPreempt_l2 (s : State) (n : Nat) (f : Preempt → Preempt) : (s.onPreempt n f).l2 = s.l2 := rfl
@[simp] theorem State.onPreempt_ownReqs (s : State) (n : Nat) (f : Preempt → Preempt) : (s.onPreempt n f).ownReqs = s.ownReqs := rfl
@[simp] theorem State.onPreempt_maxLease (s : State) (n : Nat) (f : Preempt → Preempt) : (s.onPreempt n f).maxLease = s.maxLease := rfl
@[simp] theorem State.onPreempt_lost (s : State) (n : Nat) (f : Preempt → Preempt) : (s.onPreempt n f).lost = s.lost := rfl
@[simp] theorem State.onPreempt_narrow (s : State) (n : Nat) (f : Preempt → Preempt) : (s.onPreempt n f).narrow = s.narrow := rfl
@[simp] theorem State.onPreempt_debugLog (s : State) (n : Nat) (f : Preempt → Preempt) : (s.onPreempt n f).debugLog = s.debugLog := rfl
@[simp] theorem State.onPreempt_gatedWays (s : State) (n : Nat) (f : Preempt → Preempt) : (s.onPreempt n f).gatedWays = s.gatedWays := rfl
@[simp] theorem State.onPreempt_groups (s : State) (n : Nat) (f : Preempt → Preempt) : (s.onPreempt n f).groups = s.groups := rfl
@[simp] theorem State.onPreempt_ops (s : State) (n : Nat) (f : Preempt → Preempt) : (s.onPreempt n f).ops = s.ops := rfl
@[simp] theorem State.onPreempt_nextOp (s : State) (n : Nat) (f : Preempt → Preempt) : (s.onPreempt n f).nextOp = s.nextOp := rfl
@[simp] theorem State.onPreempt_trackers (s : State) (n : Nat) (f : Preempt → Preempt) : (s.onPreempt n f).trackers = s.trackers := rfl
@[simp] theorem State.onPreempt_lateFaults (s : State) (n : Nat) (f : Preempt → Preempt) : (s.onPreempt n f).lateFaults = s.lateFaults := rfl
@[simp] theorem State.onPreempt_parkings (s : State) (n : Nat) (f : Preempt → Preempt) : (s.onPreempt n f).parkings = s.parkings := rfl
@[simp] theorem State.onPreempt_cores (s : State) (n : Nat) (f : Preempt → Preempt) : (s.onPreempt n f).cores = s.cores := rfl
@[simp] theorem State.onPreempt_teams (s : State) (n : Nat) (f : Preempt → Preempt) : (s.onPreempt n f).teams = s.teams := rfl
@[simp] theorem State.onPreempt_grids (s : State) (n : Nat) (f : Preempt → Preempt) : (s.onPreempt n f).grids = s.grids := rfl
@[simp] theorem State.onPreempt_parts (s : State) (n : Nat) (f : Preempt → Preempt) : (s.onPreempt n f).parts = s.parts := rfl
@[simp] theorem State.onPreempt_keys (s : State) (n : Nat) (f : Preempt → Preempt) : (s.onPreempt n f).keys = s.keys := rfl
@[simp] theorem State.onPreempt_queues (s : State) (n : Nat) (f : Preempt → Preempt) : (s.onPreempt n f).queues = s.queues := rfl
@[simp] theorem State.onPreempt_monitors (s : State) (n : Nat) (f : Preempt → Preempt) : (s.onPreempt n f).monitors = s.monitors := rfl
@[simp] theorem State.onPreempt_insts (s : State) (n : Nat) (f : Preempt → Preempt) : (s.onPreempt n f).insts = s.insts := rfl
@[simp] theorem State.onPreempt_launches (s : State) (n : Nat) (f : Preempt → Preempt) : (s.onPreempt n f).launches = s.launches := rfl
@[simp] theorem State.onPreempt_rounds (s : State) (n : Nat) (f : Preempt → Preempt) : (s.onPreempt n f).rounds = s.rounds := rfl
@[simp] theorem State.onPreempt_scheds (s : State) (n : Nat) (f : Preempt → Preempt) : (s.onPreempt n f).scheds = s.scheds := rfl
@[simp] theorem State.onPreempt_cmdLinks (s : State) (n : Nat) (f : Preempt → Preempt) : (s.onPreempt n f).cmdLinks = s.cmdLinks := rfl
@[simp] theorem State.onPreempt_ports (s : State) (n : Nat) (f : Preempt → Preempt) : (s.onPreempt n f).ports = s.ports := rfl
@[simp] theorem State.onPreempt_hostLog (s : State) (n : Nat) (f : Preempt → Preempt) : (s.onPreempt n f).hostLog = s.hostLog := rfl
@[simp] theorem State.onPreempt_peerOut (s : State) (n : Nat) (f : Preempt → Preempt) : (s.onPreempt n f).peerOut = s.peerOut := rfl
@[simp] theorem State.onPreempt_marks (s : State) (n : Nat) (f : Preempt → Preempt) : (s.onPreempt n f).marks = s.marks := rfl
@[simp] theorem State.onPreempt_units (s : State) (n : Nat) (f : Preempt → Preempt) : (s.onPreempt n f).units = s.units := rfl
@[simp] theorem State.onPreempt_devWrites (s : State) (n : Nat) (f : Preempt → Preempt) : (s.onPreempt n f).devWrites = s.devWrites := rfl
@[simp] theorem State.onPreempt_retry (s : State) (n : Nat) (f : Preempt → Preempt) : (s.onPreempt n f).retry = s.retry := rfl
@[simp] theorem State.onPreempt_served (s : State) (n : Nat) (f : Preempt → Preempt) : (s.onPreempt n f).served = s.served := rfl
@[simp] theorem State.onPreempt_posted (s : State) (n : Nat) (f : Preempt → Preempt) : (s.onPreempt n f).posted = s.posted := rfl
@[simp] theorem State.onPreempt_past (s : State) (n : Nat) (f : Preempt → Preempt) : (s.onPreempt n f).past = s.past := rfl
@[simp] theorem State.onPreempt_acquires (s : State) (n : Nat) (f : Preempt → Preempt) : (s.onPreempt n f).acquires = s.acquires := rfl

/-! ## retireOp -/

@[simp] theorem State.retireOp_agenda (s : State) (o : Op) : (s.retireOp o).agenda = s.agenda := rfl
@[simp] theorem State.retireOp_issueQ (s : State) (o : Op) : (s.retireOp o).issueQ = s.issueQ := rfl
@[simp] theorem State.retireOp_turn (s : State) (o : Op) : (s.retireOp o).turn = s.turn := rfl
@[simp] theorem State.retireOp_round (s : State) (o : Op) : (s.retireOp o).round = s.round := rfl
@[simp] theorem State.retireOp_fresh (s : State) (o : Op) : (s.retireOp o).fresh = s.fresh := rfl
@[simp] theorem State.retireOp_nextKey (s : State) (o : Op) : (s.retireOp o).nextKey = s.nextKey := rfl
@[simp] theorem State.retireOp_nextGrid (s : State) (o : Op) : (s.retireOp o).nextGrid = s.nextGrid := rfl
@[simp] theorem State.retireOp_code (s : State) (o : Op) : (s.retireOp o).code = s.code := rfl
@[simp] theorem State.retireOp_fused (s : State) (o : Op) : (s.retireOp o).fused = s.fused := rfl
@[simp] theorem State.retireOp_info (s : State) (o : Op) : (s.retireOp o).info = s.info := rfl
@[simp] theorem State.retireOp_inRom (s : State) (o : Op) : (s.retireOp o).inRom = s.inRom := rfl
@[simp] theorem State.retireOp_links (s : State) (o : Op) : (s.retireOp o).links = s.links := rfl
@[simp] theorem State.retireOp_times (s : State) (o : Op) : (s.retireOp o).times = s.times := rfl
@[simp] theorem State.retireOp_masterSet (s : State) (o : Op) : (s.retireOp o).masterSet = s.masterSet := rfl
@[simp] theorem State.retireOp_fabric (s : State) (o : Op) : (s.retireOp o).fabric = s.fabric := rfl
@[simp] theorem State.retireOp_mem (s : State) (o : Op) : (s.retireOp o).mem = s.mem := rfl
@[simp] theorem State.retireOp_scrambled (s : State) (o : Op) : (s.retireOp o).scrambled = s.scrambled := rfl
@[simp] theorem State.retireOp_l2 (s : State) (o : Op) : (s.retireOp o).l2 = s.l2 := rfl
@[simp] theorem State.retireOp_ownReqs (s : State) (o : Op) : (s.retireOp o).ownReqs = s.ownReqs := rfl
@[simp] theorem State.retireOp_maxLease (s : State) (o : Op) : (s.retireOp o).maxLease = s.maxLease := rfl
@[simp] theorem State.retireOp_lost (s : State) (o : Op) : (s.retireOp o).lost = s.lost := rfl
@[simp] theorem State.retireOp_narrow (s : State) (o : Op) : (s.retireOp o).narrow = s.narrow := rfl
@[simp] theorem State.retireOp_debugLog (s : State) (o : Op) : (s.retireOp o).debugLog = s.debugLog := rfl
@[simp] theorem State.retireOp_gatedWays (s : State) (o : Op) : (s.retireOp o).gatedWays = s.gatedWays := rfl
@[simp] theorem State.retireOp_nextOp (s : State) (o : Op) : (s.retireOp o).nextOp = s.nextOp := rfl
@[simp] theorem State.retireOp_lateFaults (s : State) (o : Op) : (s.retireOp o).lateFaults = s.lateFaults := rfl
@[simp] theorem State.retireOp_parkings (s : State) (o : Op) : (s.retireOp o).parkings = s.parkings := rfl
@[simp] theorem State.retireOp_cores (s : State) (o : Op) : (s.retireOp o).cores = s.cores := rfl
@[simp] theorem State.retireOp_teams (s : State) (o : Op) : (s.retireOp o).teams = s.teams := rfl
@[simp] theorem State.retireOp_grids (s : State) (o : Op) : (s.retireOp o).grids = s.grids := rfl
@[simp] theorem State.retireOp_parts (s : State) (o : Op) : (s.retireOp o).parts = s.parts := rfl
@[simp] theorem State.retireOp_keys (s : State) (o : Op) : (s.retireOp o).keys = s.keys := rfl
@[simp] theorem State.retireOp_queues (s : State) (o : Op) : (s.retireOp o).queues = s.queues := rfl
@[simp] theorem State.retireOp_monitors (s : State) (o : Op) : (s.retireOp o).monitors = s.monitors := rfl
@[simp] theorem State.retireOp_insts (s : State) (o : Op) : (s.retireOp o).insts = s.insts := rfl
@[simp] theorem State.retireOp_launches (s : State) (o : Op) : (s.retireOp o).launches = s.launches := rfl
@[simp] theorem State.retireOp_rounds (s : State) (o : Op) : (s.retireOp o).rounds = s.rounds := rfl
@[simp] theorem State.retireOp_scheds (s : State) (o : Op) : (s.retireOp o).scheds = s.scheds := rfl
@[simp] theorem State.retireOp_cmdLinks (s : State) (o : Op) : (s.retireOp o).cmdLinks = s.cmdLinks := rfl
@[simp] theorem State.retireOp_preempts (s : State) (o : Op) : (s.retireOp o).preempts = s.preempts := rfl
@[simp] theorem State.retireOp_ports (s : State) (o : Op) : (s.retireOp o).ports = s.ports := rfl
@[simp] theorem State.retireOp_hostLog (s : State) (o : Op) : (s.retireOp o).hostLog = s.hostLog := rfl
@[simp] theorem State.retireOp_peerOut (s : State) (o : Op) : (s.retireOp o).peerOut = s.peerOut := rfl
@[simp] theorem State.retireOp_marks (s : State) (o : Op) : (s.retireOp o).marks = s.marks := rfl
@[simp] theorem State.retireOp_units (s : State) (o : Op) : (s.retireOp o).units = s.units := rfl
@[simp] theorem State.retireOp_devWrites (s : State) (o : Op) : (s.retireOp o).devWrites = s.devWrites := rfl
@[simp] theorem State.retireOp_retry (s : State) (o : Op) : (s.retireOp o).retry = s.retry := rfl
@[simp] theorem State.retireOp_served (s : State) (o : Op) : (s.retireOp o).served = s.served := rfl
@[simp] theorem State.retireOp_posted (s : State) (o : Op) : (s.retireOp o).posted = s.posted := rfl
@[simp] theorem State.retireOp_past (s : State) (o : Op) : (s.retireOp o).past = s.past := rfl
@[simp] theorem State.retireOp_acquires (s : State) (o : Op) : (s.retireOp o).acquires = s.acquires := rfl

/-! ## lower -/

@[simp] theorem State.lower_agenda (s : State) (group : Nat) (k : Ctr) : (s.lower group k).agenda = s.agenda := rfl
@[simp] theorem State.lower_issueQ (s : State) (group : Nat) (k : Ctr) : (s.lower group k).issueQ = s.issueQ := rfl
@[simp] theorem State.lower_turn (s : State) (group : Nat) (k : Ctr) : (s.lower group k).turn = s.turn := rfl
@[simp] theorem State.lower_round (s : State) (group : Nat) (k : Ctr) : (s.lower group k).round = s.round := rfl
@[simp] theorem State.lower_fresh (s : State) (group : Nat) (k : Ctr) : (s.lower group k).fresh = s.fresh := rfl
@[simp] theorem State.lower_nextKey (s : State) (group : Nat) (k : Ctr) : (s.lower group k).nextKey = s.nextKey := rfl
@[simp] theorem State.lower_nextGrid (s : State) (group : Nat) (k : Ctr) : (s.lower group k).nextGrid = s.nextGrid := rfl
@[simp] theorem State.lower_code (s : State) (group : Nat) (k : Ctr) : (s.lower group k).code = s.code := rfl
@[simp] theorem State.lower_fused (s : State) (group : Nat) (k : Ctr) : (s.lower group k).fused = s.fused := rfl
@[simp] theorem State.lower_info (s : State) (group : Nat) (k : Ctr) : (s.lower group k).info = s.info := rfl
@[simp] theorem State.lower_inRom (s : State) (group : Nat) (k : Ctr) : (s.lower group k).inRom = s.inRom := rfl
@[simp] theorem State.lower_links (s : State) (group : Nat) (k : Ctr) : (s.lower group k).links = s.links := rfl
@[simp] theorem State.lower_times (s : State) (group : Nat) (k : Ctr) : (s.lower group k).times = s.times := rfl
@[simp] theorem State.lower_masterSet (s : State) (group : Nat) (k : Ctr) : (s.lower group k).masterSet = s.masterSet := rfl
@[simp] theorem State.lower_fabric (s : State) (group : Nat) (k : Ctr) : (s.lower group k).fabric = s.fabric := rfl
@[simp] theorem State.lower_mem (s : State) (group : Nat) (k : Ctr) : (s.lower group k).mem = s.mem := rfl
@[simp] theorem State.lower_scrambled (s : State) (group : Nat) (k : Ctr) : (s.lower group k).scrambled = s.scrambled := rfl
@[simp] theorem State.lower_l2 (s : State) (group : Nat) (k : Ctr) : (s.lower group k).l2 = s.l2 := rfl
@[simp] theorem State.lower_ownReqs (s : State) (group : Nat) (k : Ctr) : (s.lower group k).ownReqs = s.ownReqs := rfl
@[simp] theorem State.lower_maxLease (s : State) (group : Nat) (k : Ctr) : (s.lower group k).maxLease = s.maxLease := rfl
@[simp] theorem State.lower_lost (s : State) (group : Nat) (k : Ctr) : (s.lower group k).lost = s.lost := rfl
@[simp] theorem State.lower_narrow (s : State) (group : Nat) (k : Ctr) : (s.lower group k).narrow = s.narrow := rfl
@[simp] theorem State.lower_debugLog (s : State) (group : Nat) (k : Ctr) : (s.lower group k).debugLog = s.debugLog := rfl
@[simp] theorem State.lower_gatedWays (s : State) (group : Nat) (k : Ctr) : (s.lower group k).gatedWays = s.gatedWays := rfl
@[simp] theorem State.lower_ops (s : State) (group : Nat) (k : Ctr) : (s.lower group k).ops = s.ops := rfl
@[simp] theorem State.lower_nextOp (s : State) (group : Nat) (k : Ctr) : (s.lower group k).nextOp = s.nextOp := rfl
@[simp] theorem State.lower_lateFaults (s : State) (group : Nat) (k : Ctr) : (s.lower group k).lateFaults = s.lateFaults := rfl
@[simp] theorem State.lower_parkings (s : State) (group : Nat) (k : Ctr) : (s.lower group k).parkings = s.parkings := rfl
@[simp] theorem State.lower_cores (s : State) (group : Nat) (k : Ctr) : (s.lower group k).cores = s.cores := rfl
@[simp] theorem State.lower_teams (s : State) (group : Nat) (k : Ctr) : (s.lower group k).teams = s.teams := rfl
@[simp] theorem State.lower_grids (s : State) (group : Nat) (k : Ctr) : (s.lower group k).grids = s.grids := rfl
@[simp] theorem State.lower_parts (s : State) (group : Nat) (k : Ctr) : (s.lower group k).parts = s.parts := rfl
@[simp] theorem State.lower_keys (s : State) (group : Nat) (k : Ctr) : (s.lower group k).keys = s.keys := rfl
@[simp] theorem State.lower_queues (s : State) (group : Nat) (k : Ctr) : (s.lower group k).queues = s.queues := rfl
@[simp] theorem State.lower_monitors (s : State) (group : Nat) (k : Ctr) : (s.lower group k).monitors = s.monitors := rfl
@[simp] theorem State.lower_insts (s : State) (group : Nat) (k : Ctr) : (s.lower group k).insts = s.insts := rfl
@[simp] theorem State.lower_launches (s : State) (group : Nat) (k : Ctr) : (s.lower group k).launches = s.launches := rfl
@[simp] theorem State.lower_rounds (s : State) (group : Nat) (k : Ctr) : (s.lower group k).rounds = s.rounds := rfl
@[simp] theorem State.lower_scheds (s : State) (group : Nat) (k : Ctr) : (s.lower group k).scheds = s.scheds := rfl
@[simp] theorem State.lower_cmdLinks (s : State) (group : Nat) (k : Ctr) : (s.lower group k).cmdLinks = s.cmdLinks := rfl
@[simp] theorem State.lower_preempts (s : State) (group : Nat) (k : Ctr) : (s.lower group k).preempts = s.preempts := rfl
@[simp] theorem State.lower_ports (s : State) (group : Nat) (k : Ctr) : (s.lower group k).ports = s.ports := rfl
@[simp] theorem State.lower_hostLog (s : State) (group : Nat) (k : Ctr) : (s.lower group k).hostLog = s.hostLog := rfl
@[simp] theorem State.lower_peerOut (s : State) (group : Nat) (k : Ctr) : (s.lower group k).peerOut = s.peerOut := rfl
@[simp] theorem State.lower_marks (s : State) (group : Nat) (k : Ctr) : (s.lower group k).marks = s.marks := rfl
@[simp] theorem State.lower_units (s : State) (group : Nat) (k : Ctr) : (s.lower group k).units = s.units := rfl
@[simp] theorem State.lower_devWrites (s : State) (group : Nat) (k : Ctr) : (s.lower group k).devWrites = s.devWrites := rfl
@[simp] theorem State.lower_retry (s : State) (group : Nat) (k : Ctr) : (s.lower group k).retry = s.retry := rfl
@[simp] theorem State.lower_served (s : State) (group : Nat) (k : Ctr) : (s.lower group k).served = s.served := rfl
@[simp] theorem State.lower_posted (s : State) (group : Nat) (k : Ctr) : (s.lower group k).posted = s.posted := rfl
@[simp] theorem State.lower_past (s : State) (group : Nat) (k : Ctr) : (s.lower group k).past = s.past := rfl
@[simp] theorem State.lower_acquires (s : State) (group : Nat) (k : Ctr) : (s.lower group k).acquires = s.acquires := rfl

/-! ## markLost -/

@[simp] theorem State.markLost_agenda (s : State) (line cause : Nat) : (s.markLost line cause).agenda = s.agenda := rfl
@[simp] theorem State.markLost_issueQ (s : State) (line cause : Nat) : (s.markLost line cause).issueQ = s.issueQ := rfl
@[simp] theorem State.markLost_turn (s : State) (line cause : Nat) : (s.markLost line cause).turn = s.turn := rfl
@[simp] theorem State.markLost_round (s : State) (line cause : Nat) : (s.markLost line cause).round = s.round := rfl
@[simp] theorem State.markLost_fresh (s : State) (line cause : Nat) : (s.markLost line cause).fresh = s.fresh := rfl
@[simp] theorem State.markLost_nextKey (s : State) (line cause : Nat) : (s.markLost line cause).nextKey = s.nextKey := rfl
@[simp] theorem State.markLost_nextGrid (s : State) (line cause : Nat) : (s.markLost line cause).nextGrid = s.nextGrid := rfl
@[simp] theorem State.markLost_code (s : State) (line cause : Nat) : (s.markLost line cause).code = s.code := rfl
@[simp] theorem State.markLost_fused (s : State) (line cause : Nat) : (s.markLost line cause).fused = s.fused := rfl
@[simp] theorem State.markLost_info (s : State) (line cause : Nat) : (s.markLost line cause).info = s.info := rfl
@[simp] theorem State.markLost_inRom (s : State) (line cause : Nat) : (s.markLost line cause).inRom = s.inRom := rfl
@[simp] theorem State.markLost_links (s : State) (line cause : Nat) : (s.markLost line cause).links = s.links := rfl
@[simp] theorem State.markLost_times (s : State) (line cause : Nat) : (s.markLost line cause).times = s.times := rfl
@[simp] theorem State.markLost_masterSet (s : State) (line cause : Nat) : (s.markLost line cause).masterSet = s.masterSet := rfl
@[simp] theorem State.markLost_fabric (s : State) (line cause : Nat) : (s.markLost line cause).fabric = s.fabric := rfl
@[simp] theorem State.markLost_mem (s : State) (line cause : Nat) : (s.markLost line cause).mem = s.mem := rfl
@[simp] theorem State.markLost_scrambled (s : State) (line cause : Nat) : (s.markLost line cause).scrambled = s.scrambled := rfl
@[simp] theorem State.markLost_l2 (s : State) (line cause : Nat) : (s.markLost line cause).l2 = s.l2 := rfl
@[simp] theorem State.markLost_ownReqs (s : State) (line cause : Nat) : (s.markLost line cause).ownReqs = s.ownReqs := rfl
@[simp] theorem State.markLost_maxLease (s : State) (line cause : Nat) : (s.markLost line cause).maxLease = s.maxLease := rfl
@[simp] theorem State.markLost_narrow (s : State) (line cause : Nat) : (s.markLost line cause).narrow = s.narrow := rfl
@[simp] theorem State.markLost_debugLog (s : State) (line cause : Nat) : (s.markLost line cause).debugLog = s.debugLog := rfl
@[simp] theorem State.markLost_gatedWays (s : State) (line cause : Nat) : (s.markLost line cause).gatedWays = s.gatedWays := rfl
@[simp] theorem State.markLost_groups (s : State) (line cause : Nat) : (s.markLost line cause).groups = s.groups := rfl
@[simp] theorem State.markLost_ops (s : State) (line cause : Nat) : (s.markLost line cause).ops = s.ops := rfl
@[simp] theorem State.markLost_nextOp (s : State) (line cause : Nat) : (s.markLost line cause).nextOp = s.nextOp := rfl
@[simp] theorem State.markLost_trackers (s : State) (line cause : Nat) : (s.markLost line cause).trackers = s.trackers := rfl
@[simp] theorem State.markLost_lateFaults (s : State) (line cause : Nat) : (s.markLost line cause).lateFaults = s.lateFaults := rfl
@[simp] theorem State.markLost_parkings (s : State) (line cause : Nat) : (s.markLost line cause).parkings = s.parkings := rfl
@[simp] theorem State.markLost_cores (s : State) (line cause : Nat) : (s.markLost line cause).cores = s.cores := rfl
@[simp] theorem State.markLost_teams (s : State) (line cause : Nat) : (s.markLost line cause).teams = s.teams := rfl
@[simp] theorem State.markLost_grids (s : State) (line cause : Nat) : (s.markLost line cause).grids = s.grids := rfl
@[simp] theorem State.markLost_parts (s : State) (line cause : Nat) : (s.markLost line cause).parts = s.parts := rfl
@[simp] theorem State.markLost_keys (s : State) (line cause : Nat) : (s.markLost line cause).keys = s.keys := rfl
@[simp] theorem State.markLost_queues (s : State) (line cause : Nat) : (s.markLost line cause).queues = s.queues := rfl
@[simp] theorem State.markLost_monitors (s : State) (line cause : Nat) : (s.markLost line cause).monitors = s.monitors := rfl
@[simp] theorem State.markLost_insts (s : State) (line cause : Nat) : (s.markLost line cause).insts = s.insts := rfl
@[simp] theorem State.markLost_launches (s : State) (line cause : Nat) : (s.markLost line cause).launches = s.launches := rfl
@[simp] theorem State.markLost_rounds (s : State) (line cause : Nat) : (s.markLost line cause).rounds = s.rounds := rfl
@[simp] theorem State.markLost_scheds (s : State) (line cause : Nat) : (s.markLost line cause).scheds = s.scheds := rfl
@[simp] theorem State.markLost_cmdLinks (s : State) (line cause : Nat) : (s.markLost line cause).cmdLinks = s.cmdLinks := rfl
@[simp] theorem State.markLost_preempts (s : State) (line cause : Nat) : (s.markLost line cause).preempts = s.preempts := rfl
@[simp] theorem State.markLost_ports (s : State) (line cause : Nat) : (s.markLost line cause).ports = s.ports := rfl
@[simp] theorem State.markLost_hostLog (s : State) (line cause : Nat) : (s.markLost line cause).hostLog = s.hostLog := rfl
@[simp] theorem State.markLost_peerOut (s : State) (line cause : Nat) : (s.markLost line cause).peerOut = s.peerOut := rfl
@[simp] theorem State.markLost_marks (s : State) (line cause : Nat) : (s.markLost line cause).marks = s.marks := rfl
@[simp] theorem State.markLost_units (s : State) (line cause : Nat) : (s.markLost line cause).units = s.units := rfl
@[simp] theorem State.markLost_devWrites (s : State) (line cause : Nat) : (s.markLost line cause).devWrites = s.devWrites := rfl
@[simp] theorem State.markLost_retry (s : State) (line cause : Nat) : (s.markLost line cause).retry = s.retry := rfl
@[simp] theorem State.markLost_served (s : State) (line cause : Nat) : (s.markLost line cause).served = s.served := rfl
@[simp] theorem State.markLost_posted (s : State) (line cause : Nat) : (s.markLost line cause).posted = s.posted := rfl
@[simp] theorem State.markLost_past (s : State) (line cause : Nat) : (s.markLost line cause).past = s.past := rfl
@[simp] theorem State.markLost_acquires (s : State) (line cause : Nat) : (s.markLost line cause).acquires = s.acquires := rfl

/-! ## fail -/

@[simp] theorem State.fail_agenda (s : State) : (s.fail).agenda = s.agenda := rfl
@[simp] theorem State.fail_issueQ (s : State) : (s.fail).issueQ = s.issueQ := rfl
@[simp] theorem State.fail_turn (s : State) : (s.fail).turn = s.turn := rfl
@[simp] theorem State.fail_round (s : State) : (s.fail).round = s.round := rfl
@[simp] theorem State.fail_fresh (s : State) : (s.fail).fresh = s.fresh := rfl
@[simp] theorem State.fail_nextKey (s : State) : (s.fail).nextKey = s.nextKey := rfl
@[simp] theorem State.fail_nextGrid (s : State) : (s.fail).nextGrid = s.nextGrid := rfl
@[simp] theorem State.fail_code (s : State) : (s.fail).code = s.code := rfl
@[simp] theorem State.fail_fused (s : State) : (s.fail).fused = s.fused := rfl
@[simp] theorem State.fail_inRom (s : State) : (s.fail).inRom = s.inRom := rfl
@[simp] theorem State.fail_links (s : State) : (s.fail).links = s.links := rfl
@[simp] theorem State.fail_times (s : State) : (s.fail).times = s.times := rfl
@[simp] theorem State.fail_masterSet (s : State) : (s.fail).masterSet = s.masterSet := rfl
@[simp] theorem State.fail_fabric (s : State) : (s.fail).fabric = s.fabric := rfl
@[simp] theorem State.fail_mem (s : State) : (s.fail).mem = s.mem := rfl
@[simp] theorem State.fail_scrambled (s : State) : (s.fail).scrambled = s.scrambled := rfl
@[simp] theorem State.fail_l2 (s : State) : (s.fail).l2 = s.l2 := rfl
@[simp] theorem State.fail_ownReqs (s : State) : (s.fail).ownReqs = s.ownReqs := rfl
@[simp] theorem State.fail_maxLease (s : State) : (s.fail).maxLease = s.maxLease := rfl
@[simp] theorem State.fail_lost (s : State) : (s.fail).lost = s.lost := rfl
@[simp] theorem State.fail_narrow (s : State) : (s.fail).narrow = s.narrow := rfl
@[simp] theorem State.fail_debugLog (s : State) : (s.fail).debugLog = s.debugLog := rfl
@[simp] theorem State.fail_gatedWays (s : State) : (s.fail).gatedWays = s.gatedWays := rfl
@[simp] theorem State.fail_groups (s : State) : (s.fail).groups = s.groups := rfl
@[simp] theorem State.fail_ops (s : State) : (s.fail).ops = s.ops := rfl
@[simp] theorem State.fail_nextOp (s : State) : (s.fail).nextOp = s.nextOp := rfl
@[simp] theorem State.fail_trackers (s : State) : (s.fail).trackers = s.trackers := rfl
@[simp] theorem State.fail_lateFaults (s : State) : (s.fail).lateFaults = s.lateFaults := rfl
@[simp] theorem State.fail_parkings (s : State) : (s.fail).parkings = s.parkings := rfl
@[simp] theorem State.fail_cores (s : State) : (s.fail).cores = s.cores := rfl
@[simp] theorem State.fail_teams (s : State) : (s.fail).teams = s.teams := rfl
@[simp] theorem State.fail_grids (s : State) : (s.fail).grids = s.grids := rfl
@[simp] theorem State.fail_parts (s : State) : (s.fail).parts = s.parts := rfl
@[simp] theorem State.fail_keys (s : State) : (s.fail).keys = s.keys := rfl
@[simp] theorem State.fail_queues (s : State) : (s.fail).queues = s.queues := rfl
@[simp] theorem State.fail_monitors (s : State) : (s.fail).monitors = s.monitors := rfl
@[simp] theorem State.fail_insts (s : State) : (s.fail).insts = s.insts := rfl
@[simp] theorem State.fail_launches (s : State) : (s.fail).launches = s.launches := rfl
@[simp] theorem State.fail_rounds (s : State) : (s.fail).rounds = s.rounds := rfl
@[simp] theorem State.fail_scheds (s : State) : (s.fail).scheds = s.scheds := rfl
@[simp] theorem State.fail_cmdLinks (s : State) : (s.fail).cmdLinks = s.cmdLinks := rfl
@[simp] theorem State.fail_preempts (s : State) : (s.fail).preempts = s.preempts := rfl
@[simp] theorem State.fail_ports (s : State) : (s.fail).ports = s.ports := rfl
@[simp] theorem State.fail_hostLog (s : State) : (s.fail).hostLog = s.hostLog := rfl
@[simp] theorem State.fail_peerOut (s : State) : (s.fail).peerOut = s.peerOut := rfl
@[simp] theorem State.fail_marks (s : State) : (s.fail).marks = s.marks := rfl
@[simp] theorem State.fail_units (s : State) : (s.fail).units = s.units := rfl
@[simp] theorem State.fail_devWrites (s : State) : (s.fail).devWrites = s.devWrites := rfl
@[simp] theorem State.fail_retry (s : State) : (s.fail).retry = s.retry := rfl
@[simp] theorem State.fail_served (s : State) : (s.fail).served = s.served := rfl
@[simp] theorem State.fail_posted (s : State) : (s.fail).posted = s.posted := rfl
@[simp] theorem State.fail_past (s : State) : (s.fail).past = s.past := rfl
@[simp] theorem State.fail_acquires (s : State) : (s.fail).acquires = s.acquires := rfl

end Sys2Proof.Machine
end

