-- ==== Sys2Proof/Laws/Ops.lean ====
section
/-! SUPPORT. What the shared operations do: masks, lanes, registers, groups, and the course of a word. -/

namespace Sys2Proof.Machine

/-! ## Masks -/

theorem maskN_lt (n : Nat) (f : Nat → Bool) : maskN n f < 2 ^ n := by
  induction n with
  | zero => simp [maskN]
  | succ n ih =>
    simp only [maskN, Nat.pow_succ]
    split <;> omega

theorem testBit_maskN (n : Nat) (f : Nat → Bool) (i : Nat) : (maskN n f).testBit i = (decide (i < n) && f i) := by
  induction n with
  | zero => simp [maskN]
  | succ n ih =>
    have hlt := maskN_lt n f
    unfold maskN
    by_cases hf : f n = true
    · simp only [hf, if_true]
      rw [Nat.add_comm]
      rcases Nat.lt_trichotomy i n with h | h | h
      · rw [Nat.testBit_two_pow_add_gt h, ih]
        simp [h, Nat.lt_succ_of_lt h]
      · subst h
        rw [Nat.testBit_two_pow_add_eq, Nat.testBit_lt_two_pow hlt]
        simp [hf]
      · have h2 : 2 ^ n + maskN n f < 2 ^ i := by
          have : 2 ^ (n + 1) ≤ 2 ^ i := Nat.pow_le_pow_right (by decide) h
          omega
        rw [Nat.testBit_lt_two_pow h2]
        have : ¬ i < n + 1 := by omega
        simp [this]
    · have hf' : f n = false := by simpa using hf
      simp only [hf', Bool.false_eq_true, if_false, Nat.add_zero, ih]
      by_cases h : i = n
      · subst h; simp [hf']
      · have : (i < n + 1) ↔ i < n := by omega
        simp [this]

/-- A lane is in the mask of `f` when it is one of the 64 and `f` accepts it. -/
theorem getLsbD_maskOf (f : Nat → Bool) (i : Nat) : (maskOf f).getLsbD i = (decide (i < 64) && f i) := by
  simp [maskOf, BitVec.getLsbD_ofNat, testBit_maskN]

theorem mem_lanesOf (m : Mask) (i : Nat) : i ∈ lanesOf m ↔ m.getLsbD i = true := by
  simp only [lanesOf, List.mem_filter, List.mem_range]
  constructor
  · exact fun h => h.2
  · intro h
    refine ⟨?_, h⟩
    by_contra hge
    rw [BitVec.getLsbD_of_ge _ _ (by omega)] at h
    cases h

/-! ## Registers (R111, R120, R127) -/

@[simp] theorem Thread.get_put (t : Thread) (d : Nat) (x : W32) (r : Nat) :
    (t.put d x).get r = if r = d then x else t.get r := sget_sput ..

@[simp] theorem Thread.put_rest (t : Thread) (d : Nat) (x : W32) : { t.put d x with v := t.v, bad := t.bad } = t := rfl

theorem getLsbD_pairOf (lo hi : W32) (i : Nat) :
    (pairOf lo hi).getLsbD i = if i < 32 then lo.getLsbD i else hi.getLsbD (i - 32) :=
  (BitVec.getLsbD_append (x := hi) (y := lo) (i := i)).trans (by by_cases h : i < 32 <;> simp [h])

@[simp] theorem lowHalf_pair (a b : W32) : lowHalf (pairOf a b) = a := by
  apply BitVec.eq_of_getLsbD_eq
  intro i hi
  simp [lowHalf, getLsbD_pairOf, hi]

@[simp] theorem highHalf_pair (a b : W32) : highHalf (pairOf a b) = b := by
  apply BitVec.eq_of_getLsbD_eq
  intro i hi
  simp [highHalf, getLsbD_pairOf, hi]

@[simp] theorem pair_halves (x : W64) : pairOf (lowHalf x) (highHalf x) = x := by
  apply BitVec.eq_of_getLsbD_eq
  intro i hi
  rw [getLsbD_pairOf]
  by_cases h : i < 32
  · simp [lowHalf, h]
  · have h1 : i - 32 < 32 := by omega
    have h2 : 32 + (i - 32) = i := by omega
    simp [highHalf, h, h1, h2]

@[simp] theorem Thread.get64_put64 (t : Thread) (d : Nat) (x : W64) : (t.put64 d x).get64 d = x := by
  simp [Thread.get64, Thread.put64]

theorem Thread.get_put64_other (t : Thread) (d : Nat) (x : W64) (r : Nat) (h0 : r ≠ d) (h1 : r ≠ d + 1) :
    (t.put64 d x).get r = t.get r := by
  simp [Thread.put64, h0, h1]

/-! ## Lanes and groups -/

@[simp] theorem Group.thread?_onLanes (g : Group) (A : Mask) (f : Nat → Thread → Thread) (i : Nat) :
    (g.onLanes A f).thread? i = if A.getLsbD i then (g.thread? i).map (f i) else g.thread? i := by
  unfold Group.onLanes Group.thread?
  simp only [List.getElem?_mapIdx]
  cases h : g.lanes[i]? with
  | none => simp
  | some o => cases o <;> by_cases hA : A.getLsbD i = true <;> simp [hA]

@[simp] theorem Group.key_onLanes (g : Group) (A : Mask) (f : Nat → Thread → Thread) :
    (g.onLanes A f).key = g.key := rfl

theorem State.key_of_group? {s : State} {k : Nat} {g : Group} (h : s.group? k = some g) : g.key = k := by
  have := List.find?_some h
  simpa using this

theorem findKey_replace (l : List Group) (g' : Group) (k : Nat) :
    ((l.map fun h => if h.key == g'.key then g' else h).find? fun h => h.key == k) =
      if k = g'.key then (l.find? fun h => h.key == k).map fun _ => g' else l.find? fun h => h.key == k := by
  induction l with
  | nil => simp
  | cons a l ih =>
    rw [List.map_cons, List.find?_cons, List.find?_cons, ih]
    by_cases ha : a.key = g'.key
    · by_cases hk : k = g'.key
      · simp [ha, hk]
      · have h1 : (g'.key == k) = false := by simpa using fun e => hk e.symm
        simp [ha, hk, h1]
    · by_cases hk : k = g'.key
      · have h1 : (a.key == g'.key) = false := by simpa using ha
        simp [h1, hk]
      · by_cases hak : a.key = k <;> simp [ha, hk, hak]

/-- A group written back is what its key finds. -/
theorem State.group?_setGroup {s : State} {g g' : Group} (h : s.group? g.key = some g) (hk : g'.key = g.key) :
    (s.setGroup g').group? g.key = some g' := by
  have h' : (s.groups.find? fun x => x.key == g.key) = some g := h
  show ((s.groups.map fun h => if h.key == g'.key then g' else h).find? fun h => h.key == g.key) = _
  rw [findKey_replace, hk, h']
  simp

/-- Another group is found as before. -/
theorem State.group?_setGroup_other (s : State) (g' : Group) (k : Nat) (h : k ≠ g'.key) :
    (s.setGroup g').group? k = s.group? k := by
  show ((s.groups.map fun h => if h.key == g'.key then g' else h).find? fun h => h.key == k) = _
  rw [findKey_replace]
  simp [h, State.group?]

theorem State.issuing?_group? {s : State} {g : Group} (h : s.issuing? = some g) : s.group? g.key = some g := by
  unfold State.issuing? at h
  split at h
  · cases h
  · have := State.key_of_group? h
    rw [this]; exact h

end Sys2Proof.Machine
end

