-- ==== Sys2Proof/Laws/Words.lean ====
section
/-! SUPPORT. The course of a word: what `issueWord` and `advance` do, and what a word that writes lanes or uniform
registers leaves alone. -/

namespace Sys2Proof.Machine

open Sys2Proof.Safety

/-! ## Going on (R43, R44) -/

theorem State.walkFrom_groups (s : State) (x : List Group) (c : CoreId) (p va : Nat) (l : List (Nat × Nat × Nat)) :
    ∀ (top : Bool) (mt port base : Nat),
      ({ s with groups := x } : State).walkFrom c p va top mt port base l = s.walkFrom c p va top mt port base l := by
  induction l with
  | nil => intros; rfl
  | cons a l ih =>
    intro top mt port base
    obtain ⟨lo, n, align⟩ := a
    unfold State.walkFrom
    simp only [ih]
    rfl

/-- What a partition's reader sees of memory does not depend on the groups. -/
theorem State.seenBy_groups (s : State) (x : List Group) (p key n : Nat) :
    (({ s with groups := x } : State).seenBy p).readBytes key n = (s.seenBy p).readBytes key n := by
  unfold State.seenBy
  split <;> rfl

/-- Fetching a word does not look at the groups. -/
theorem State.fetchWord_groups (s : State) (x : List Group) (w : Who) (a : W64) :
    ({ s with groups := x } : State).fetchWord w a = s.fetchWord w a := by
  unfold State.fetchWord State.xlate State.lookup State.walk
  simp only [walkFrom_groups, seenBy_groups]
  rfl

theorem State.joinTargets_cons (s : State) (w : Who) (keep : Option Nat) (a : W64) (m : Mask) (l : List (W64 × Mask))
    (f : List Entry) : s.joinTargets w keep ((a, m) :: l) f =
      if f.any fun e => e.addr == a then
        s.joinTargets w keep l (f.map fun e => if e.addr == a then { e with mask := e.mask ||| m } else e)
      else
        match s.fetchWord w a with
        | .word h => s.joinTargets w keep l (insertEntry ⟨prioOf h, a, m, 0⟩ f)
        | .wait ds => .wait ds
        | .fault c =>
          match keep with
          | some p => s.joinTargets w keep l (insertEntry ⟨p, a, m, 0⟩ f)
          | none => .fault c a m
        | .lost c =>
          match keep with
          | some p => s.joinTargets w keep l (insertEntry ⟨p, a, m, 0⟩ f)
          | none => .lost c := rfl

/-- The frontier that lanes make depends on the machine through the words that it fetches alone. -/
theorem State.joinTargets_congr {s t : State} {w : Who} (h : ∀ a, t.fetchWord w a = s.fetchWord w a) (keep : Option Nat)
    (l : List (W64 × Mask)) : ∀ f, t.joinTargets w keep l f = s.joinTargets w keep l f := by
  induction l with
  | nil => intro f; rfl
  | cons a l ih =>
    intro f
    obtain ⟨a, m⟩ := a
    rw [joinTargets_cons, joinTargets_cons, h]
    simp only [ih]

/-- Rebuilding a frontier does not look at the other groups. -/
theorem State.rebuild_groups (s : State) (x : List Group) (g : Group) (e : Entry) (keep : Option Nat)
    (dest : Nat → Option W64) :
    ({ s with groups := x } : State).rebuild g e keep dest = s.rebuild g e keep dest :=
  joinTargets_congr (fetchWord_groups s x _) ..

/-- What falling through makes of a group: only its place in its program changes, as the rebuilt frontier says. -/
theorem State.fallThrough_eq (s : State) (g : Group) (c : Clause) :
    ∃ (fr : List Entry) (pr : List W64) (cl : Option Clause) (en : Bool),
      s.fallThrough g c = s.setGroup { g with frontier := fr, promo := pr, clause := cl, ended := en } ∧
      ∀ e, g.entry? = some e →
        (∀ f, s.rebuild g e (some e.prio) (fun _ => some c.next) = .ok f →
          cl = none ∧ fr = f ∧ (pr = g.promo.filter fun a => f.any fun x => x.addr == a) ∧ en = (g.ended || f.isEmpty)) ∧
        ∀ ds, s.rebuild g e (some e.prio) (fun _ => some c.next) = .wait ds → cl = g.clause ∧ fr = g.frontier := by
  unfold State.fallThrough
  split
  · rename_i h
    exact ⟨_, _, _, _, rfl, fun e he => by rw [h] at he; cases he⟩
  · rename_i e he
    have hu : ∀ x, g.entry? = some x → x = e := fun x hx => by rw [he] at hx; exact (Option.some.inj hx).symm
    split
    · rename_i f hf
      refine ⟨_, _, _, _, rfl, fun x hx => ?_⟩
      rw [hu x hx, hf]
      exact ⟨fun f' h => by cases h; exact ⟨rfl, rfl, rfl, rfl⟩, fun ds h => by cases h⟩
    · rename_i hf
      refine ⟨_, _, _, _, rfl, fun x hx => ?_⟩
      rw [hu x hx, hf]
      exact ⟨fun f' h => (by cases h), fun _ _ => ⟨rfl, rfl⟩⟩
    · rename_i h1 h2
      refine ⟨_, _, _, _, rfl, fun x hx => ?_⟩
      rw [hu x hx]
      exact ⟨fun f' h => absurd h (h1 f'), fun ds h => absurd h (h2 ds)⟩

/-- Going on `n` words changes the group's place in its program and nothing else of it. -/
theorem State.advance_eq (s : State) (g : Group) (n : Nat) :
    ∃ g' : Group, s.advance g n = s.setGroup g' ∧ g'.key = g.key ∧ g'.lanes = g.lanes ∧ g'.s = g.s ∧ KeptGroup g g' ∧
      StandsAfter (s.advance g n) g g' n := by
  unfold State.advance
  split
  · rename_i hc
    exact ⟨g, rfl, rfl, rfl, rfl, rfl, fun c h => by rw [hc] at h; cases h⟩
  · rename_i c hc
    have hcl : ∀ c', g.clause = some c' → c' = c := fun c' h => by rw [hc] at h; exact (Option.some.inj h).symm
    dsimp only
    split
    · rename_i hp
      obtain ⟨fr, pr, cl, en, he, hr⟩ := s.fallThrough_eq { g.countWord with clause := some (onward c n) } (onward c n)
      refine ⟨_, he, rfl, rfl, rfl, rfl, fun c' h => ⟨rfl, fun h' => ?_, fun _ e hE => ?_⟩⟩
      · rw [hcl c' h] at h'; exact absurd (h'.symm.trans hp) Bool.false_ne_true
      · rw [hcl c' h]
        have hb : (s.fallThrough { g.countWord with clause := some (onward c n) } (onward c n)).rebuild g e (some e.prio)
            (fun _ => some (nextOf c)) = s.rebuild g e (some e.prio) (fun _ => some (nextOf c)) := by
          rw [he]; exact State.rebuild_groups ..
        have hE' : ({ g.countWord with clause := some (onward c n) } : Group).entry? = some e := by
          unfold Group.entry? at hE ⊢
          rw [hc] at hE
          exact hE
        exact ⟨fun f hf => (hr e hE').1 f (hb.symm.trans hf), fun ds hf => (hr e hE').2 ds (hb.symm.trans hf)⟩
    · rename_i hp
      refine ⟨_, rfl, rfl, rfl, rfl, rfl, fun c' h => ⟨rfl, fun _ => ?_, fun h' => ?_⟩⟩
      · rw [hcl c' h]; exact ⟨rfl, rfl, rfl, rfl⟩
      · rw [hcl c' h] at h'; exact absurd h' hp

/-! ## The course of a word (R46, R53) -/

/-- A word that runs has its effect. -/
theorem issueWord_runs {s : State} {g : Group} {p : Pred} {named reads : List Nat} (h : Runs s g p named reads)
    (len : Nat) (body : Group → Mask → State → State) :
    issueWord p len named reads s body = .next (body g (g.active p) s.popIssue) := by
  have hc : (named.any fun r => decide (g.cap ≤ r)) = false := by
    rw [List.any_eq_false]
    intro r hr
    have := h.capped r hr
    simp only [decide_eq_true_eq]; omega
  unfold issueWord
  rw [h.issues]
  simp only [if_neg h.active, hc, h.sound, Bool.false_eq_true, if_false]

/-- A word whose positions are all inactive has no effect: its group goes on. -/
theorem issueWord_idle {s : State} {g : Group} {p : Pred} {named reads : List Nat} (hi : s.issuing? = some g)
    (ha : g.active p = 0) (len : Nat) (body : Group → Mask → State → State) :
    issueWord p len named reads s body = .next (s.popIssue.advance g len) := by
  unfold issueWord
  rw [hi]
  simp only [ha, if_true]

/-- A word that names a register at or above the cap takes the trap. -/
theorem issueWord_capped {s : State} {g : Group} {p : Pred} {named reads : List Nat} (hi : s.issuing? = some g)
    (ha : g.active p ≠ 0) {r : Nat} (hr : r ∈ named) (hc : g.cap ≤ r) (len : Nat) (body : Group → Mask → State → State) :
    issueWord p len named reads s body =
      .next (s.popIssue.trap g (g.active p) Cause.illegalInstruction (g.active p) 0) := by
  have : (named.any fun r => decide (g.cap ≤ r)) = true := List.any_eq_true.mpr ⟨r, hr, by simpa using hc⟩
  unfold issueWord
  rw [hi]
  simp only [if_neg ha, this, if_true]

/-- A group that only moved on from one that differs in registers alone is kept. -/
theorem keptGroup_of {g g1 g' : Group} (h : KeptGroup g1 g') (h1 : { g1 with lanes := g.lanes, s := g.s } = g) :
    KeptGroup g g' := by
  cases g; cases g1; cases g'
  simp only [KeptGroup, Group.mk.injEq] at *
  simp_all

/-- What an issued word answers when it does no more than change the issuing group and go on. -/
theorem onlyGroup_advance {s : State} {g g1 : Group} (hi : s.issuing? = some g) (hk : g1.key = g.key) (n : Nat) :
    ∃ g' : Group, OnlyGroup s (s.popIssue.advance g1 n) g g' ∧ g'.lanes = g1.lanes ∧ g'.s = g1.s ∧ KeptGroup g1 g' ∧
      StandsAfter (s.popIssue.advance g1 n) g1 g' n := by
  obtain ⟨g', he, hk', hl, hs, hr, ha⟩ := s.popIssue.advance_eq g1 n
  have hf : s.popIssue.group? g.key = some g := State.issuing?_group? (s := s) hi
  refine ⟨g', ⟨?_, ⟨?_, ?_⟩, ?_⟩, hl, hs, hr, ha⟩
  · rw [he]; rfl
  · rw [he]; exact State.group?_setGroup hf (hk'.trans hk)
  · intro k hne
    rw [he]
    exact State.group?_setGroup_other _ _ _ (by rw [hk', hk]; exact hne)
  · intro a
    rw [he]; rfl

/-- A word that changes the threads of its active positions and goes on. -/
theorem laneResult_of {i : Instr} {s : State} {g : Group} {p : Pred} {n : Nat} {f : Nat → Thread → Thread}
    {R : Nat → Thread → Thread → Prop} (hi : s.issuing? = some g)
    (he : exec i s = .next (s.popIssue.advance (g.onLanes (g.active p) f) n))
    (hR : ∀ k th, (g.active p).getLsbD k = true → g.thread? k = some th → R k th (f k th)) : LaneResult i s g p n R := by
  obtain ⟨g', ho, hl, hs, hr, ha⟩ := onlyGroup_advance (g1 := g.onLanes (g.active p) f) hi rfl n
  have ht : ∀ k, g'.thread? k = (g.onLanes (g.active p) f).thread? k := fun k => by simp only [Group.thread?, hl]
  refine ⟨_, g', he, ho, ?_, ha, hs, fun k hk th hth => ⟨f k th, ?_, hR k th hk hth⟩, fun k hk => ?_⟩
  · exact keptGroup_of hr rfl
  · rw [ht]; simp [hk, hth]
  · rw [ht]; simp [hk]

/-- A word that writes uniform registers and goes on. -/
theorem uniformResult_of {i : Instr} {s : State} {g : Group} {u : Words} {n : Nat} {R : Group → Group → Prop}
    (hi : s.issuing? = some g) (he : exec i s = .next (s.popIssue.advance { g with s := u } n))
    (hR : ∀ g' : Group, g'.s = u → R g g') : UniformResult i s g n R := by
  obtain ⟨g', ho, hl, hs, hr, ha⟩ := onlyGroup_advance (g1 := { g with s := u }) hi rfl n
  exact ⟨_, g', he, ho, keptGroup_of hr rfl, ha, hl, hR g' hs⟩

theorem Group.sPut_eq (g : Group) (r : Nat) (x : W32) :
    g.sPut r x = { g with s := if r < 62 then sput 0 g.s r x else g.s } := by
  unfold Group.sPut
  split <;> rfl

theorem Group.sPut64_eq (g : Group) (r : Nat) (x : W64) :
    g.sPut64 r x = { g with s := ((g.sPut64 r x).s) } := by
  unfold Group.sPut64
  split
  · rw [Group.sPut_eq, Group.sPut_eq]
  · rfl

/-! ## Writes of a thread and of a group -/

theorem onlyRegs_put (t : Thread) (d : Nat) (x : W32) : OnlyRegs [d] t (t.put d x) :=
  ⟨fun r hr => by simp only [List.mem_singleton] at hr; simp [hr], fun r => by simp [Thread.put, List.mem_filter], rfl⟩

/-- Writes one after the other write the registers of both. -/
theorem onlyRegs_trans {a b : List Nat} {t u v : Thread} (h : OnlyRegs a t u) (k : OnlyRegs b u v) :
    OnlyRegs (a ++ b) t v := by
  refine ⟨fun r hr => ?_, fun r => ?_, ?_⟩
  · simp only [List.mem_append, not_or] at hr
    rw [k.regs r hr.2, h.regs r hr.1]
  · rw [k.bad, h.bad, List.mem_append, not_or, and_assoc]
  · have h1 := h.rest
    have h2 := k.rest
    cases t; cases u; cases v
    simp only [Thread.mk.injEq] at *
    simp_all

theorem wrote_put (t : Thread) (d : Nat) (x : W32) : Wrote d x t (t.put d x) :=
  ⟨by simp, onlyRegs_put ..⟩

theorem wrote64_put64 (t : Thread) (d : Nat) (x : W64) : Wrote64 d x t (t.put64 d x) :=
  ⟨by simp, onlyRegs_trans (onlyRegs_put t d _) (onlyRegs_put _ (d + 1) _)⟩

theorem bit_shift (k q : BitVec 3) (hq : q ≠ 7) :
    (1 <<< k.toNat : BitVec 7).getLsbD q.toNat = decide (q = k) := by
  revert k q
  decide

theorem toNat_lt_seven {q : BitVec 3} (hq : q ≠ 7) : q.toNat < 7 := by
  have h2 : q.toNat ≠ 7 := fun h => hq (by apply BitVec.eq_of_toNat_eq; simpa using h)
  omega

theorem predBit (w : BitVec 7) (k q : BitVec 3) (hq : q ≠ 7) (x : Bool) :
    (if x then w ||| (1 <<< k.toNat) else w &&& ~~~(1 <<< k.toNat : BitVec 7)).getLsbD q.toNat =
      if q = k then x else w.getLsbD q.toNat := by
  have hb := bit_shift k q hq
  have h7 := toNat_lt_seven hq
  cases x
  · simp only [Bool.false_eq_true, if_false, BitVec.getLsbD_and, BitVec.getLsbD_not, hb, h7]
    by_cases h : q = k <;> simp [h]
  · simp only [if_true, BitVec.getLsbD_or, hb]
    by_cases h : q = k <;> simp [h]

theorem wroteP_setPred (t : Thread) (k : BitVec 3) (x : Bool) : WroteP k x t (t.setPred k x) := by
  unfold Thread.setPred
  refine ⟨fun hk => ?_, fun q hq => ?_, ?_⟩
  · have h := predBit t.p k k hk x
    rw [if_pos rfl] at h
    rw [if_neg hk]
    simp only [Thread.pred]
    rw [h, beq_eq_false_iff_ne.mpr hk, Bool.false_or]
  · split
    · rfl
    · rename_i hk
      by_cases h7 : q = 7
      · simp [Thread.pred, h7]
      · have h := predBit t.p k q h7 x
        rw [if_neg (hq.resolve_right h7)] at h
        simp only [Thread.pred]
        rw [h]
  · split <;> rfl

theorem Group.sGet_sPut (g : Group) (d r : Nat) (x : W32) :
    (g.sPut d x).sGet r = if r = d ∧ d < 62 then x else g.sGet r := by
  unfold Group.sPut Group.sGet
  by_cases hd : d < 62
  · by_cases hr : r = d
    · subst hr; simp [hd]
    · simp [hd, hr, sget_sput]
  · simp [hd]

theorem Group.sGet_congr {g g' : Group} (h : g'.s = g.s) (r : Nat) : g'.sGet r = g.sGet r := by
  unfold Group.sGet; rw [h]

theorem wroteS_sPut (g : Group) (d : Nat) (x : W32) {g' : Group} (h : g'.s = (g.sPut d x).s) : WroteS d x g g' :=
  fun r => (Group.sGet_congr h r).trans (Group.sGet_sPut g d r x)

theorem wroteS64_sPut64 (g : Group) (d : Nat) (x : W64) {g' : Group} (h : g'.s = (g.sPut64 d x).s) :
    WroteS64 d x g g' := by
  intro r
  rw [Group.sGet_congr h]
  unfold Group.sPut64
  by_cases hd : d < 62
  · simp only [hd, if_true, Group.sGet_sPut, and_true]
    by_cases h0 : r = d
    · subst h0; simp
    · simp [h0]
  · have : ¬ d + 1 < 62 := by omega
    simp [hd, this]

end Sys2Proof.Machine
end

