-- ==== Sys2Proof/Laws/Alu.lean ====
section
/-! SUPPORT. What each shape of arithmetic word does, once for all words of that shape: the meaning of a word that is an
`alu…` of `f` writes the value of `f` and nothing else. -/

namespace Sys2Proof.Machine

open Sys2Proof.Safety

/-- A word that is `laneWord` of `f` does `f` to each active lane. -/
theorem laneResult_laneWord {i : Instr} {s : State} {g : Group} {p : Pred} {n : Nat} {named reads : List Nat}
    {f : Group → Thread → Thread} {R : Nat → Thread → Thread → Prop}
    (he : exec i s = laneWord p n named reads f s) (hr : Runs s g p named reads)
    (hR : ∀ k th, (g.active p).getLsbD k = true → g.thread? k = some th → R k th (f g th)) : LaneResult i s g p n R :=
  laneResult_of hr.issues (he.trans (issueWord_runs hr n _)) hR

theorem alu1_shape {mk : Pred → RegNum → RegNum → Instr} {f : W32 → W32} {h : W32 → W32}
    (he : ∀ p d a s, exec (mk p d a) s = alu1 p d a h s) (hf : ∀ x, h x = f x) : Alu1 mk f := fun p d a s g hr =>
  laneResult_laneWord (he p d a s) hr fun _ th _ _ => by rw [← hf]; exact wrote_put th _ _

theorem alu2_shape {mk : Pred → RegNum → RegNum → OpB → Instr} {f : W32 → W32 → W32} {h : W32 → W32 → W32}
    (he : ∀ p d a b s, exec (mk p d a b) s = alu2 p d a b h s) (hf : ∀ x y, h x y = f x y) : Alu2 mk f :=
  fun p d a b s g hr =>
    laneResult_laneWord (he p d a b s) hr fun _ th _ _ => by rw [← hf]; exact wrote_put th _ _

theorem alu3_shape {mk : Pred → RegNum → RegNum → OpB → Instr} {f : W32 → W32 → W32 → W32} {h : W32 → W32 → W32 → W32}
    (he : ∀ p d a b s, exec (mk p d a b) s = alu3 p d a b h s) (hf : ∀ x y z, h x y z = f x y z) : Alu3 mk f :=
  fun p d a b s g hr =>
    laneResult_laneWord (he p d a b s) hr fun _ th _ _ => by rw [← hf]; exact wrote_put th _ _

theorem aluPair_shape {mk : Pred → RegNum → RegNum → OpB → Instr} {f : W64 → W64 → W64} {h : W64 → W64 → W64}
    (he : ∀ p d a b s, exec (mk p d a b) s = alu64 p d a b h s) (hf : ∀ x y, h x y = f x y) : AluPair mk f :=
  fun p d a b s g hr =>
    laneResult_laneWord (he p d a b s) hr fun _ th _ _ => by rw [← hf]; exact wrote64_put64 th _ _

theorem aluShift_shape {mk : Pred → RegNum → RegNum → OpB → Instr} {f : W64 → Nat → W64} {h : W64 → Nat → W64}
    (he : ∀ p d a b s, exec (mk p d a b) s = aluShift64 p d a b h s) (hf : ∀ x n, h x n = f x n) : AluShift mk f :=
  fun p d a b s g hr =>
    laneResult_laneWord (he p d a b s) hr fun _ th _ _ => by rw [← hf]; exact wrote64_put64 th _ _

theorem compare_shape {mk : Pred → Cond → BitVec 3 → RegNum → OpB → Instr} {f : Cond → W32 → W32 → Bool} {h : Cond → W32 → W32 → Bool}
    (he : ∀ p cc pd a b s, exec (mk p cc pd a b) s = aluCmp p pd a b (h cc) s) (hf : ∀ cc x y, h cc x y = f cc x y) :
    Compare mk f := fun p cc pd a b s g hr =>
  laneResult_laneWord (he p cc pd a b s) hr fun _ th _ _ => by rw [← hf]; exact wroteP_setPred th _ _

theorem comparePair_shape {mk : Pred → Cond → BitVec 3 → RegNum → OpB → Instr} {f : Cond → W64 → W64 → Bool} {h : Cond → W64 → W64 → Bool}
    (he : ∀ p cc pd a b s, exec (mk p cc pd a b) s = aluCmp64 p pd a b (h cc) s)
    (hf : ∀ cc x y, h cc x y = f cc x y) : ComparePair mk f := fun p cc pd a b s g hr =>
  laneResult_laneWord (he p cc pd a b s) hr fun _ th _ _ => by rw [← hf]; exact wroteP_setPred th _ _

theorem predLogic_shape {mk : Pred → BitVec 3 → BitVec 3 → BitVec 3 → Instr} {f : Bool → Bool → Bool}
    (he : ∀ p pd pa pb s, exec (mk p pd pa pb) s = predWord p pd (fun t => f (t.pred pa) (t.pred pb)) s) :
    PredLogic mk f := fun p pd pa pb s _ hr =>
  laneResult_laneWord (he p pd pa pb s) hr fun _ th _ _ => wroteP_setPred th _ _

theorem wroteDraw_put (t : Thread) (d : Nat) (x : W32) (m : RMode) (n : Nat) :
    WroteDraw d x (drawsOf m n) t ((t.put d x).afterDraws m n) := by
  unfold Thread.afterDraws drawsOf
  split
  · exact ⟨rfl, by simp [Thread.get, Thread.put], fun r hr => by simp_all [Thread.get, Thread.put, sget_sput],
      fun r => by simp [Thread.put, List.mem_filter], rfl⟩
  · exact ⟨(BitVec.add_zero _).symm, wrote_put ..⟩

theorem convert_shape {mk : Pred → RMode → RegNum → RegNum → Instr} {n : Nat}
    {f : RMode → (Nat → Nat) → (Nat → W32) → W32} {h : RMode → RegNum → (Nat → Nat) → Thread → W32}
    (he : ∀ p m d a s, exec (mk p m d a) s = cvtWord p m d a n (h m a) s)
    (hf : ∀ m a w th, h m a w th = f m w fun e => th.get (a.toNat + e)) : Convert mk n n f := by
  intro p m d a s g hr
  refine laneResult_of hr.issues ((he p m d a s).trans (issueWord_runs hr 1 _)) fun k th _ _ => ?_
  rw [← hf]
  exact wroteDraw_put th _ _ _ _

end Sys2Proof.Machine
end

