-- ==== Sys2Proof/Laws/Canonical.lean ====
section
/-! SUPPORT. Memory: every memory operation keeps the canonical form, and a read gives what was last written. -/

namespace Sys2Proof.Machine

/-! ## The canonical form -/

@[simp] theorem State.mem_writeByte (s : State) (k : Nat) (b : Byte) : (s.writeByte k b).mem = sput 0 s.mem k b := rfl

theorem State.memWf_writeByte {s : State} (k : Nat) (b : Byte) (h : s.memWf = true) : (s.writeByte k b).memWf = true :=
  swf_sput 0 b s.mem k h

theorem State.memWf_writeBytes {s : State} (k : Nat) (l : List Byte) (h : s.memWf = true) :
    (s.writeBytes k l).memWf = true := by
  induction l generalizing s k with
  | nil => exact h
  | cons b l ih => exact ih (k + 1) (State.memWf_writeByte k b h)

theorem State.memWf_restoreOld {s : State} (l : L2Line) (h : s.memWf = true) : (s.restoreOld l).memWf = true := by
  unfold State.restoreOld
  generalize l.old = cs
  induction cs generalizing s with
  | nil => exact h
  | cons c cs ih => exact ih (s := { s with mem := sput 0 s.mem c.1 c.2 }) (swf_sput 0 c.2 s.mem c.1 h)

theorem State.memWf_reset : State.reset.memWf = true := rfl

/-- Only `mem` counts for the canonical form. -/
theorem State.memWf_congr {s t : State} (h : t.mem = s.mem) : t.memWf = s.memWf := by simp only [State.memWf, h]

/-! ## Reading what was written -/

@[simp] theorem Scrambled.base_write (r : Scrambled) (k : Nat) : (r.write k).base = r.base := by
  unfold Scrambled.write; split <;> rfl

@[simp] theorem Scrambled.size_write (r : Scrambled) (k : Nat) : (r.write k).size = r.size := by
  unfold Scrambled.write; split <;> rfl

@[simp] theorem Scrambled.epoch_write (r : Scrambled) (k : Nat) : (r.write k).epoch = r.epoch := by
  unfold Scrambled.write; split <;> rfl

theorem Scrambled.contains_write (r : Scrambled) (k a : Nat) (h : r.base ≤ a ∧ a < r.base + r.size) :
    (r.write k).fresh.contains a = (decide (a = k) || r.fresh.contains a) := by
  unfold Scrambled.write
  split
  · rfl
  · rename_i hn
    rcases eq_or_ne a k with rfl | hk
    · have hc : a ∈ r.fresh := by
        by_contra hc
        exact hn ⟨h.1, h.2, by simpa using hc⟩
      simp [hc]
    · simp [hk]

theorem find_write (l : List Scrambled) (k a : Nat) :
    ((l.map fun r => r.write k).find? fun r => decide (r.base ≤ a) && decide (a < r.base + r.size)) =
      (l.find? fun r => decide (r.base ≤ a) && decide (a < r.base + r.size)).map fun r => r.write k := by
  induction l with
  | nil => rfl
  | cons r l ih =>
    simp only [List.map_cons, List.find?_cons, Scrambled.base_write, Scrambled.size_write]
    split <;> simp [ih]

/-- The byte `k` of memory is readable: its unit was never written, or it was written under the key of today (R323). -/
def State.ClearAt (s : State) (k : Nat) : Prop :=
  ∀ u, (s.units.find? fun u => u.unit == k / 128) = some u → u.key = s.serialAt k ∧ u.written.testBit (k % 128) = true

theorem State.deciphered_of_clear {s : State} {k : Nat} (h : s.ClearAt k) : s.deciphered k = sget 0 s.mem k := by
  unfold State.deciphered
  split
  · rfl
  · rename_i u hu
    rw [if_pos (h u hu)]

theorem State.clearAt_writeByte (s : State) (k : Nat) (b : Byte) (a : Nat) : (s.writeByte k b).ClearAt a ↔ s.ClearAt a :=
  Iff.rfl

theorem State.deciphered_writeByte {s : State} {k : Nat} (h : s.ClearAt k) (b : Byte) (a : Nat) :
    (s.writeByte k b).deciphered a = if a = k then b else s.deciphered a := by
  split
  · rename_i e
    subst e
    rw [State.deciphered_of_clear ((s.clearAt_writeByte a b a).mpr h), State.mem_writeByte, sget_sput, if_pos rfl]
  · rename_i e
    have hg : sget 0 (s.writeByte k b).mem a = sget 0 s.mem a := by rw [State.mem_writeByte, sget_sput, if_neg e]
    unfold State.deciphered
    rw [hg]
    rfl

/-- A readable byte that has been written reads as it was written; every other byte reads as before. -/
theorem State.readByte_writeByte {s : State} {k : Nat} (h : s.ClearAt k) (b : Byte) (a : Nat) :
    (s.writeByte k b).readByte a = if a = k then b else s.readByte a := by
  unfold State.readByte
  have hs : (s.writeByte k b).scrambled = s.scrambled.map fun r => r.write k := rfl
  rw [hs, find_write, State.deciphered_writeByte h]
  cases hf : s.scrambled.find? fun r => decide (r.base ≤ a) && decide (a < r.base + r.size) with
  | none => rfl
  | some r =>
    have hr : r.base ≤ a ∧ a < r.base + r.size := by
      have := List.find?_some hf
      simpa using this
    simp only [Option.map_some, Scrambled.contains_write r k a hr, Scrambled.epoch_write]
    by_cases hk : a = k <;> simp [hk]

theorem State.readByte_writeBytes {s : State} (k : Nat) (l : List Byte) (h : ∀ i < l.length, s.ClearAt (k + i)) (a : Nat) :
    (s.writeBytes k l).readByte a = if k ≤ a then (l[a - k]?).getD (s.readByte a) else s.readByte a := by
  induction l generalizing s k with
  | nil => simp [State.writeBytes]
  | cons b l ih =>
    have h0 : s.ClearAt k := h 0 (by simp)
    have hn : ∀ i < l.length, (s.writeByte k b).ClearAt (k + 1 + i) := fun i hi => by
      have := h (i + 1) (by simpa using hi)
      rwa [show k + (i + 1) = k + 1 + i by omega] at this
    rw [State.writeBytes, ih (k + 1) hn, State.readByte_writeByte h0]
    rcases Nat.lt_trichotomy a k with h | h | h
    · have h1 : ¬ k + 1 ≤ a := by omega
      have h2 : ¬ k ≤ a := by omega
      have h3 : a ≠ k := by omega
      simp [h1, h2, h3]
    · subst h
      have h1 : ¬ a + 1 ≤ a := by omega
      simp [h1]
    · have h1 : k + 1 ≤ a := by omega
      have h2 : k ≤ a := by omega
      have h3 : a ≠ k := by omega
      have h4 : a - k = (a - (k + 1)) + 1 := by omega
      simp only [h1, h2, h3, if_true, if_false]
      rw [h4, List.getElem?_cons_succ]

/-- Writing readable bytes stores them, and nothing else. -/
theorem stored_writeBytes {s : State} (root : Bool) (k : Nat) (l : List Byte) (h : ∀ i < l.length, s.ClearAt (k + i)) :
    Safety.Stored s (s.writeBytes k l) root k l :=
  fun _ a => State.readByte_writeBytes k l h a

/-! ## What memory reads as depends on -/

/-- A partition's state, key and ranges settle the keys of memory; the rest of it does not count. -/
theorem State.serialAt_map {s t : State} {f : Part → Part} (h : t.parts = s.parts.map f)
    (hf : ∀ x, (f x).status = x.status ∧ (f x).num = x.num ∧ (f x).desc = x.desc ∧ (f x).keySer = x.keySer) (a : Nat) :
    t.serialAt a = s.serialAt a := by
  have hp : (fun x : Part => x.status != 0 && decide (x.num < 72) && x.desc.holds a 1) ∘ f =
      fun x => x.status != 0 && decide (x.num < 72) && x.desc.holds a 1 := by
    funext x; simp only [Function.comp, hf]
  have hq : (fun x : Part => decide (8 ≤ x.num)) ∘ f = fun x => decide (8 ≤ x.num) := by
    funext x; simp only [Function.comp, hf]
  unfold State.serialAt
  simp only [h, List.filter_map, List.find?_map, List.head?_map, hp, hq]
  cases (s.parts.filter fun x => x.status != 0 && decide (x.num < 72) && x.desc.holds a 1).find? fun x => decide (8 ≤ x.num) with
  | none => simp [Option.map_map, Function.comp_def, hf]
  | some x => simp [hf]

/-- Only the bytes, the keys and the discarded ranges count for what memory reads as. -/
theorem State.readByte_congr {s t : State} (h1 : t.mem = s.mem) (h2 : t.scrambled = s.scrambled) (h3 : t.units = s.units)
    (h4 : ∀ a, t.serialAt a = s.serialAt a) (a : Nat) : t.readByte a = s.readByte a := by
  simp only [State.readByte, State.deciphered, h1, h2, h3, h4]

/-- Memory reads as before where partitions change in what does not settle keys, and memory in nothing. -/
theorem memorySame_map {s t : State} {f : Part → Part} (h1 : t.mem = s.mem) (h2 : t.scrambled = s.scrambled)
    (h3 : t.units = s.units) (h : t.parts = s.parts.map f)
    (hf : ∀ x, (f x).status = x.status ∧ (f x).num = x.num ∧ (f x).desc = x.desc ∧ (f x).keySer = x.keySer) :
    Safety.MemorySame s t :=
  fun a => State.readByte_congr h1 h2 h3 (State.serialAt_map h hf) a

/-! ## The units of a write -/

theorem State.mem_noteUnits (s : State) (root : Bool) (a n : Nat) : (s.noteUnits root a n).mem = s.mem := by
  unfold State.noteUnits
  split
  · rfl
  · generalize List.range ((a + n - 1) / 128 - a / 128 + 1) = l
    induction l generalizing s with
    | nil => rfl
    | cons i l ih => rw [List.foldl_cons, ih]; rfl

/-- Noting what a write enciphers keeps memory's form. -/
theorem State.memWf_noteUnits {s : State} (root : Bool) (a n : Nat) (h : s.memWf = true) :
    (s.noteUnits root a n).memWf = true :=
  (State.memWf_congr (s.mem_noteUnits root a n)).trans h

end Sys2Proof.Machine
end

