-- ==== Sys2Proof/Laws/Codec.lean ====
section
/-! SUPPORT. Words and fields (R46, R47, R41): the fields of a word that is made of fields are those, and which of the
encoder's words a literal follows. -/

namespace Sys2Proof

theorem getLsbD_wordOf (f : Fields) (k : Nat) :
    (wordOf f).getLsbD k =
      if k < 6 then f.b.getLsbD k else if k < 12 then f.a.getLsbD (k - 6) else if k < 18 then f.d.getLsbD (k - 12)
      else if k < 22 then f.minor.getLsbD (k - 18) else if k < 23 then f.inv else if k < 26 then f.pred.getLsbD (k - 23)
      else if k < 27 then f.u else f.cls.getLsbD (k - 27) := by
  change BitVec.getLsbD (w := 5 + 1 + 3 + 1 + 4 + 6 + 6 + 6)
    (f.cls ++ BitVec.ofBool f.u ++ f.pred ++ BitVec.ofBool f.inv ++ f.minor ++ f.d ++ f.a ++ f.b) k = _
  simp only [BitVec.getLsbD_append, BitVec.getLsbD_ofBool, Nat.sub_sub]
  split_ifs <;> first | rfl | omega | skip
  all_goals simp_all

@[simp] theorem fieldsOf_wordOf (f : Fields) : fieldsOf (wordOf f) = f := by
  obtain ⟨c, u, p, i, m, d, a, b⟩ := f
  simp only [fieldsOf, Fields.mk.injEq]
  refine ⟨?_, by simp only [getLsbD_wordOf]; rfl, ?_, by simp only [getLsbD_wordOf]; rfl, ?_, ?_, ?_, ?_⟩
  all_goals
    apply BitVec.eq_of_getLsbD_eq
    intro k hk
    simp only [BitVec.getLsbD_extractLsb', getLsbD_wordOf, hk, decide_true, Bool.true_and]
    interval_cases k <;> rfl


/-! ## Literals (R41) -/

/-- The words of an instruction are its word, and its literal where the word says that one follows. -/
def OwnWords (l : List W32) : Prop :=
  (∃ w, l = [w] ∧ litFollows w = false) ∨ ∃ w x, l = [w, x] ∧ litFollows w = true

theorem ownWords_fields {c m : Nat} {u : Bool} {p : Pred} {d a b : RegNum}
    (h : litFollows (encFields c m u p d a b) = false) : OwnWords [encFields c m u p d a b] := .inl ⟨_, rfl, h⟩

theorem ownWords_encR (c m : Nat) (p : Pred) (d a b : RegNum) : OwnWords (encR c m p d a b) := by
  refine .inl ⟨_, rfl, ?_⟩
  simp [litFollows, encFields]

theorem opBOk_of_pairB {b : OpB} (h : pairB b = true) : opBOk b = true := by
  cases b with
  | v r => rfl
  | s r =>
    by_contra hc
    have : r = 63#6 := by simpa [opBOk] using hc
    subst this
    exact absurd h (by decide)
  | lit w => rfl

theorem right_of_and {a b : Bool} (h : (a && b) = true) : b = true := (Bool.and_eq_true_iff.mp h).2

theorem ownWords_encB {c : Nat} {m : Nat} {p : Pred} {d a : RegNum} {b : OpB} (hb : opBOk b = true)
    (hc : (BitVec.ofNat 5 c == 3#5 || BitVec.ofNat 5 c == 10#5 || (BitVec.ofNat 5 c == 12#5 || BitVec.ofNat 5 c == 13#5)) = false) :
    OwnWords (encB c m p d a b) := by
  simp only [Bool.or_eq_false_iff] at hc
  obtain ⟨⟨h3, h10⟩, h12, h13⟩ := hc
  cases b with
  | v r => exact .inl ⟨_, rfl, by simp [litFollows, encFields, h3, h10, h12, h13]⟩
  | s r =>
    have hr : (r == 63#6) = false := by simpa [opBOk] using hb
    exact .inl ⟨_, rfl, by simp [litFollows, encFields, h3, h10, h12, h13, hr]⟩
  | lit w => exact .inr ⟨_, _, rfl, by simp [litFollows, encFields, h3, h10, h12, h13]⟩

theorem ownWords_encRaw {c : Nat} {m : BitVec 4} {p : Pred} {d a : RegNum} {b : OpB} (hb : opBOk b = true)
    (hc : (BitVec.ofNat 5 c == 3#5 || BitVec.ofNat 5 c == 10#5 || (BitVec.ofNat 5 c == 12#5 || BitVec.ofNat 5 c == 13#5)) = false) :
    OwnWords (encRaw c m p d a b) := ownWords_encB hb hc

theorem ownWords_encS {c : Nat} {m : Nat} {p : Pred} {d a : RegNum} {b : OpS} (hb : opSOk b = true)
    (hc : (BitVec.ofNat 5 c == 3#5 || BitVec.ofNat 5 c == 10#5 || (BitVec.ofNat 5 c == 12#5 || BitVec.ofNat 5 c == 13#5)) = false) :
    OwnWords (encS c m p d a b) := by
  simp only [Bool.or_eq_false_iff] at hc
  obtain ⟨⟨h3, h10⟩, h12, h13⟩ := hc
  cases b with
  | s r =>
    have hr : (r == 63#6) = false := by simpa [opSOk] using hb
    exact .inl ⟨_, rfl, by simp [litFollows, encFields, h3, h10, h12, h13, hr]⟩
  | lit w => exact .inr ⟨_, _, rfl, by simp [litFollows, encFields, h3, h10, h12, h13]⟩

theorem ownWords_encMem {c : Nat} (m : Nat) (p : Pred) (d : RegNum) (x : MemOp) (hc : c = 12 ∨ c = 13) :
    OwnWords (encMem c m p d x) := by
  unfold encMem
  rcases hc with rfl | rfl <;> cases x.off
  all_goals first
    | exact .inl ⟨_, rfl, by simp [litFollows, encFields]⟩
    | exact .inr ⟨_, _, rfl, by simp [litFollows, encFields]⟩

theorem ownWords_encAtom (m : Nat) (p : Pred) (x : AtomArgs) : OwnWords (encAtom 14 m p x) := by
  refine .inl ⟨_, rfl, ?_⟩
  have hb : (ordCode x.ord ++ scopeCode x.scope ++ BitVec.ofBool x.b64 == (63 : RegNum)) = false := by
    cases x.ord <;> cases x.scope <;> cases x.b64 <;> rfl
  simp only [litFollows, encFields, fieldsOf_wordOf]
  rw [hb]
  simp

theorem ownWords_encCpy {c : Nat} (m : Nat) (p : Pred) (x : CpyArgs) (hc : c = 18 ∨ c = 19) : OwnWords (encCpy c m p x) := by
  refine .inl ⟨_, rfl, ?_⟩
  have hb : (spaceCode x.dsp ++ spaceCode x.ssp == (63 : RegNum)) = false := by cases x.dsp <;> cases x.ssp <;> rfl
  simp only [litFollows, encFields, fieldsOf_wordOf]
  rw [hb]
  rcases hc with rfl | rfl <;> simp

theorem ownWords_class {w : W32} (h : w.extractLsb' 27 5 = 3#5 ∨ w.extractLsb' 27 5 = 10#5) : OwnWords [w] := by
  refine .inl ⟨w, rfl, ?_⟩
  rcases h with h | h <;> simp [litFollows, fieldsOf, h]

/-- The class field of a word whose top bits are the class. -/
theorem class_of_bits {c : BitVec 5} {v : W32} (hv : ∀ k, 27 ≤ k → v.getLsbD k = c.getLsbD (k - 27)) :
    v.extractLsb' 27 5 = c := by
  apply BitVec.eq_of_getLsbD_eq
  intro k hk
  have h2 : 27 + k - 27 = k := by omega
  simp only [BitVec.getLsbD_extractLsb', hk, decide_true, Bool.true_and]
  rw [hv (27 + k) (by omega), h2]

theorem class_ldi (c : BitVec 5) (u : Bool) (p : BitVec 3) (i : Bool) (d : RegNum) (x : BitVec 16) :
    (c ++ BitVec.ofBool u ++ p ++ BitVec.ofBool i ++ d ++ x : BitVec 32).extractLsb' 27 5 = c := by
  apply class_of_bits
  intro k hk
  change BitVec.getLsbD (w := 5 + 1 + 3 + 1 + 6 + 16) (c ++ BitVec.ofBool u ++ p ++ BitVec.ofBool i ++ d ++ x) k = _
  simp only [BitVec.getLsbD_append, Nat.sub_sub]
  split_ifs <;> first | omega | rfl

theorem class_branch (c : BitVec 5) (u : BitVec 1) (p : BitVec 3) (i : Bool) (x : BitVec 22) :
    (c ++ u ++ p ++ BitVec.ofBool i ++ x : BitVec 32).extractLsb' 27 5 = c := by
  apply class_of_bits
  intro k hk
  change BitVec.getLsbD (w := 5 + 1 + 3 + 1 + 22) (c ++ u ++ p ++ BitVec.ofBool i ++ x) k = _
  simp only [BitVec.getLsbD_append, Nat.sub_sub]
  split_ifs <;> first | omega | rfl

end Sys2Proof
end

