-- ==== Sys2Proof/Laws/Traps.lean ====
section
/-! SUPPORT. What taking a trap does, once for every instruction that takes one. -/

namespace Sys2Proof.Machine

open Sys2Proof.Safety

/-- The group that issues keeps its lookup when the word leaves the issue queue. -/
theorem State.group?_popIssue (s : State) (k : Nat) : s.popIssue.group? k = s.group? k := rfl

theorem State.whoOf_popIssue (s : State) (g : Group) : s.popIssue.whoOf g = s.whoOf g := rfl

/-- A record is due for one partition. -/
theorem State.parts_addPost (s : State) (p : Nat) (r : Post) :
    (s.addPost p r).parts = s.parts.map fun x => if x.num = p then { x with posts := x.posts ++ [r] } else x := by
  simp only [State.addPost, State.onPart, beq_iff_eq]

/-- Parking the group `g` of the key `g.key`, the machine being `s`. -/
theorem parks_parkGroup {s : State} {g : Group} (h : s.group? g.key = some g) (cause : Nat) (A fm : Mask) (fa : W64) :
    Parks s (s.popIssue.parkGroup g 2 cause A fm fa 0 0 []) g 2 A 0 (Records s g 2 cause A fm fa) id := by
  refine ⟨?_, rfl, ⟨_, ?_, State.parts_addPost _ _ _⟩,
    memorySame_map rfl rfl rfl (f := fun x => if x.num = (s.whoOf g).part then _ else x) (State.parts_addPost _ _ _)
      fun x => by split <;> exact ⟨rfl, rfl, rfl, rfl⟩⟩
  · exact State.group?_setGroup (s := s.popIssue) (g' := parkedAs g s.nextKey) h rfl
  · exact ⟨rfl, rfl, rfl, rfl, rfl, rfl, fun c hc => by simp [State.parkPost, hc]; rfl,
      fun c hc => by simp [State.parkPost, hc]; rfl, fun c hc => by simp [State.parkPost, hc]; rfl, rfl, rfl⟩

theorem trapsOnVent {s : State} {g : Group} (h : s.group? g.key = some g) (cause : Nat) (A fm : Mask) (fa : W64) :
    TrapsOnVent s (s.popIssue.parkGroup g 2 cause A fm fa 0 0 []) g cause A fm fa :=
  ⟨parks_parkGroup h cause A fm fa, fun k hk => State.group?_setGroup_other s.popIssue (parkedAs g s.nextKey) k hk, rfl⟩

/-- The groups that a halt of service core `k` takes. -/
theorem mem_halted {l : List Group} {k n : Nat} :
    n ∈ ((l.filter fun g => g.core == .service k).filter fun g => g.parking.isNone).map (·.key) ↔
      ∃ x ∈ l, x.core = .service k ∧ x.parking = none ∧ x.key = n := by
  simp only [List.mem_map, List.mem_filter, beq_iff_eq, Option.isNone_iff_eq_none]
  exact ⟨fun ⟨x, ⟨⟨h1, h2⟩, h3⟩, h4⟩ => ⟨x, h1, h2, h3, h4⟩, fun ⟨x, h1, h2, h3, h4⟩ => ⟨x, ⟨⟨h1, h2⟩, h3⟩, h4⟩⟩

theorem haltsService {s : State} (k : Nat) : HaltsService s (s.popIssue.haltService k) k := by
  have hp : (s.popIssue.haltService k).parts = s.parts.map fun x => if x.num = k then { x with halted := true } else x := by
    simp [State.haltService, State.popIssue]
  refine ⟨fun h => ?_, fun o => ?_, rfl, hp, memorySame_map rfl rfl rfl hp fun x => by split <;> exact ⟨rfl, rfl, rfl, rfl⟩⟩
  all_goals
    simp only [State.haltService, State.popIssue, List.mem_filter, Bool.not_eq_true', List.contains_eq_mem,
      decide_eq_false_iff_not, mem_halted, not_exists, not_and]

theorem find_append {l : List Group} {k : Nat} {h : Group} (hk : h.key ≠ k) :
    (l ++ [h]).find? (fun g => g.key == k) = l.find? fun g => g.key == k := by
  rw [List.find?_append]
  simp [hk]

theorem part_find (l : List Part) (k : Nat) (f : Part → Part) (hf : ∀ x, (f x).num = x.num) :
    (l.map fun x => if x.num = k then f x else x).find? (fun x => x.num == k) =
      (l.find? fun x => x.num == k).map f := by
  induction l with
  | nil => rfl
  | cons x l ih =>
    by_cases h : x.num = k
    · simp [h, hf]
    · simp [h]
      simpa using ih

theorem trapsToSupervisor {s : State} {g : Group} {k : Nat} (h : s.group? g.key = some g) (hc : g.core = .service k)
    (hp : ∃ x ∈ s.parts, x.num = k) (hn : s.group? (s.nextKey + 1) = none) (cause : Nat) (A fm : Mask) (fa : W64) :
    TrapsToSupervisor s ((s.popIssue.parkGroup g 2 cause A fm fa 0 0 []).superEntry k cause) g k cause A fm fa := by
  have hw : (s.whoOf g).part = k := by simp [State.whoOf, hc]
  have hne : g.key ≠ s.nextKey + 1 := fun e => by rw [e] at h; rw [h] at hn; cases hn
  have hk := parks_parkGroup h cause A fm fa
  set p := s.popIssue.parkGroup g 2 cause A fm fa 0 0 [] with hpdef
  have hps : p.parts.find? (fun x => x.num == k) =
      (s.parts.find? fun x => x.num == k).map fun x => { x with posts := x.posts ++ [s.popIssue.parkPost g 2 cause A fm fa 0 [] s.nextKey] } := by
    have : p.parts = s.parts.map fun x => if x.num = k then
        { x with posts := x.posts ++ [s.popIssue.parkPost g 2 cause A fm fa 0 [] s.nextKey] } else x := by
      rw [← hw]; exact State.parts_addPost _ _ _
    rw [this]
    exact part_find _ _ _ fun x => rfl
  obtain ⟨x, hx, hxk⟩ := hp
  obtain ⟨y, hy⟩ : ∃ y, s.parts.find? (fun x => x.num == k) = some y := by
    cases hf : s.parts.find? fun x => x.num == k with
    | none => simp only [List.find?_eq_none] at hf; exact absurd (by simp [hxk]) (hf x hx)
    | some y => exact ⟨y, rfl⟩
  have hyk : y.num = k := by simpa using List.find?_some hy
  have hm : MemorySame p (p.superEntry k cause) :=
    memorySame_map rfl rfl rfl (f := fun x => if x.num == k then { x with scause := BitVec.ofNat 64 cause } else x) rfl
      fun x => by split <;> exact ⟨rfl, rfl, rfl, rfl⟩
  refine ⟨⟨?_, rfl, ?_, fun a => (hm a).trans (hk.memory a)⟩, fun n h1 h2 => ?_, ?_, rfl⟩
  · exact (find_append (l := p.groups) hne.symm).trans hk.group
  · obtain ⟨r, hr, hrp⟩ := hk.record
    refine ⟨r, hr, ?_⟩
    change (p.parts.map fun x => if x.num == k then { x with scause := BitVec.ofNat 64 cause } else x) = _
    rw [hrp, List.map_map, hw]
    refine List.map_congr_left fun x _ => ?_
    by_cases hxk : x.num = k <;> simp [hxk]
  · exact (find_append (l := p.groups) (Ne.symm h2)).trans
      (State.group?_setGroup_other s.popIssue (parkedAs g s.nextKey) n h1)
  · refine ⟨_, List.mem_append_right _ (List.mem_singleton.mpr rfl), rfl, rfl, rfl, rfl, rfl, rfl, by rfl, y,
      List.mem_of_find?_eq_some hy, hyk, ?_⟩
    have ha : (((p.onPart k fun x => { x with scause := BitVec.ofNat 64 cause }).part? k).map fun x => x.cb + x.svec).getD 0 =
        y.cb + y.svec := by
      have : (p.onPart k fun x => { x with scause := BitVec.ofNat 64 cause }).part? k =
          (p.parts.find? fun x => x.num == k).map fun x => { x with scause := BitVec.ofNat 64 cause } := by
        simpa only [State.part?, State.onPart, beq_iff_eq] using
          part_find p.parts k (fun x => { x with scause := BitVec.ofNat 64 cause }) fun x => rfl
      rw [this, hps, hy]
      rfl
    exact ⟨_, congrArg (fun z : W64 => ([⟨_, z, 1, 0⟩] : List Entry)) ha⟩

/-- A word whose effect is to take a trap takes it. -/
theorem traps_of {i : Instr} {s : State} {g : Group} {cause : Nat} {A fm : Mask} {fa : W64}
    (h : s.group? g.key = some g) (he : exec i s = .next (s.popIssue.trap g A cause fm fa)) :
    Traps i s g cause A fm fa := by
  refine ⟨fun hv => ?_, fun k hc hs hp hn => ?_, fun k hc hs => ?_⟩
  · refine ⟨_, he, ?_⟩
    cases hg : g.core with
    | service k => simp [isService, hg] at hv
    | vent a b c =>
      simp only [State.trap, State.trapWith, hg]
      exact trapsOnVent h cause A fm fa
  · refine ⟨_, he, ?_⟩
    simp only [State.trap, State.trapWith, hc, hs]
    exact trapsToSupervisor h hc hp hn cause A fm fa
  · refine ⟨_, he, ?_⟩
    simp only [State.trap, State.trapWith, hc, hs]
    exact haltsService k

end Sys2Proof.Machine
end

