-- ==== Sys2Proof/Laws/Course.lean ====
section
/-! SUPPORT. The course of control words and of words that issue an operation. -/

namespace Sys2Proof.Machine

open Sys2Proof.Safety

/-! ## Control words (R40, R90) -/

/-- A control word that runs has its effect. -/
theorem issueControl_runs {s : State} {g : Group} {p : Pred} {named reads : List Nat} {c : Clause} {e : Entry}
    (h : Steers s g p named reads c e) (body : Group → Entry → W64 → Mask → State → State) :
    issueControl p named reads s body = .next (body g e c.next (g.active p) s.popIssue) := by
  have hc : (named.any fun r => decide (g.cap ≤ r)) = false := by
    rw [List.any_eq_false]
    intro r hr
    have := h.runs.capped r hr
    simp only [decide_eq_true_eq]; omega
  unfold issueControl
  rw [h.runs.issues]
  simp only [h.clause, h.entry, if_neg h.runs.active, hc, h.runs.sound, Bool.false_eq_true, if_false]

/-- Replacing the issuing group, the word being out of the issue queue, changes that group alone. -/
theorem onlyGroup_setGroup {s : State} {g g' : Group} (hi : s.issuing? = some g) (hk : g'.key = g.key) :
    OnlyGroup s (s.popIssue.setGroup g') g g' := by
  have hf : s.popIssue.group? g.key = some g := State.issuing?_group? (s := s) hi
  exact ⟨rfl, ⟨State.group?_setGroup hf hk, fun k hne => State.group?_setGroup_other _ _ _ (by rw [hk]; exact hne)⟩,
    fun a => rfl⟩

/-- A control word that sends its lanes where `dest` says. -/
theorem controlResult_of {i : Instr} {s : State} {g g1 : Group} {e : Entry} {A : Mask} {dest : Nat → Option W64}
    {R : Group → Prop} (hi : s.issuing? = some g) (hk : g1.key = g.key) (hR : R g1)
    (he : exec i s = .next (s.popIssue.control g g1 e A dest)) : ControlResult i s g e dest R := by
  intro f hs hf
  refine ⟨s.popIssue.setGroup (steered g1 f), g1, ?_, hR, onlyGroup_setGroup hi hk⟩
  rw [he]
  unfold State.control State.controlThen
  rw [hf]
  simp only [State.sretCheck, hs]
  rfl

/-! ## Times (R24, R28) -/

/-- Times rise where only the time registers differ, and none of them has gone back. -/
theorem timesRise_trans {s t u : State} (h : TimesRise s t) (k : TimesRise t u) : TimesRise s u := fun d => (h d).trans (k d)

/-- A change of one die's register that does not take it back. -/
theorem State.timesRise_onTime (s : State) (d : DieId) (f : TimeReg → TimeReg) (hd : ∀ t, (f t).die = t.die)
    (hv : ∀ t, t.value ≤ (f t).value) : TimesRise s (s.onTime d f) := by
  intro e
  unfold State.time State.onTime
  dsimp only
  induction s.times with
  | nil =>
    by_cases h : d = e
    · subst h
      have hk : ((f (TimeReg.reset d)).die == d) = true := beq_iff_eq.mpr (hd _)
      simp only [upsert, List.find?_cons, hk, List.find?_nil]
      exact hv _
    · have hk : ((f (TimeReg.reset d)).die == e) = false := beq_eq_false_iff_ne.mpr fun h' => h ((hd _).symm.trans h')
      simp only [upsert, List.find?_cons, hk, List.find?_nil]
      exact Nat.le_refl _
  | cons x l ih =>
    simp only [upsert]
    split
    · simp only [List.find?_cons, hd]
      split
      · exact hv x
      · exact Nat.le_refl _
    · simp only [List.find?_cons]
      split
      · exact Nat.le_refl _
      · exact ih

/-- A change of all registers that takes none back. -/
theorem State.timesRise_map (s : State) (f : TimeReg → TimeReg) (hd : ∀ t, (f t).die = t.die)
    (hv : ∀ t, t.value ≤ (f t).value) : TimesRise s { s with times := s.times.map f } := by
  intro e
  unfold State.time
  dsimp only
  induction s.times with
  | nil => exact Nat.le_refl _
  | cons x l ih =>
    simp only [List.map_cons, List.find?_cons, hd]
    split
    · exact hv x
    · exact ih

@[simp] theorem TimeReg.widen_die (b : Bool) (c t : TimeReg) : (t.widen b c).die = t.die := by
  unfold TimeReg.widen; dsimp only; split <;> split <;> (try split) <;> rfl

@[simp] theorem TimeReg.widen_value (b : Bool) (c t : TimeReg) : (t.widen b c).value = t.value := by
  unfold TimeReg.widen; dsimp only; split <;> split <;> (try split) <;> rfl

@[simp] theorem TimeReg.strayed_die (b : Bool) (n : Nat) (t : TimeReg) : (t.strayed b n).die = t.die := by
  unfold TimeReg.strayed; split <;> rfl

@[simp] theorem TimeReg.strayed_value (b : Bool) (n : Nat) (t : TimeReg) : (t.strayed b n).value = t.value := by
  unfold TimeReg.strayed; split <;> rfl

@[simp] theorem TimeReg.raise_die (t : TimeReg) (v : Nat) : (t.raise v).die = t.die := by
  unfold TimeReg.raise; split <;> rfl

theorem TimeReg.le_raise (t : TimeReg) (v : Nat) : t.value ≤ (t.raise v).value := by
  unfold TimeReg.raise; split
  · exact Nat.le_of_lt ‹_›
  · exact Nat.le_refl _

/-- Raising a register changes only time registers, and takes none back. -/
theorem State.raiseTime_eq (s : State) (d : DieId) (v : Nat) :
    (∃ ts, s.raiseTime d v = { s with times := ts }) ∧ TimesRise s (s.raiseTime d v) := by
  unfold State.raiseTime
  split
  · refine ⟨⟨_, rfl⟩, timesRise_trans (t := s.onTime .caldera fun t =>
        (t.raise v).strayed s.fabric.isSome (apart (t.raise v).value t.value)) ?_ ?_⟩
    · exact s.timesRise_onTime _ _ (by simp) fun t => by simpa using t.le_raise v
    · exact State.timesRise_map _ _ (fun t => by split <;> simp) fun t => by split <;> simp
  · refine ⟨⟨_, rfl⟩, s.timesRise_onTime _ _ (fun t => by split <;> simp) fun t => ?_⟩
    split
    · simpa using t.le_raise v
    · exact Nat.le_refl _

/-- What flits do (R24): only time registers change, and none goes back. -/
theorem State.causal_eq (s : State) (ds : List DieId) :
    (∃ ts, s.causal ds = { s with times := ts }) ∧ TimesRise s (s.causal ds) := by
  unfold State.causal
  dsimp only
  generalize (ds.filter hasTime).foldl (fun m d => max m (s.time d).value) 0 = v
  induction ds.filter hasTime generalizing s with
  | nil => exact ⟨⟨_, rfl⟩, fun _ => Nat.le_refl _⟩
  | cons d l ih =>
    obtain ⟨⟨ts, h1⟩, h2⟩ := s.raiseTime_eq d v
    obtain ⟨⟨us, h3⟩, h4⟩ := ih (s.raiseTime d v)
    exact ⟨⟨us, by rw [List.foldl_cons, h3, h1]⟩, timesRise_trans h2 h4⟩

/-! ## Words that issue an operation (R39) -/

/-- Changing the translation cache of one core changes nothing else of any core. -/
theorem cores_tlb (l : List CoreState) (k : CoreId) (f : CoreState → List Tlb) (c : CoreId) :
    { ((upsert (fun x => x.id == k) (fun x => { x with tlb := f x }) (CoreState.empty k) l).find?
        fun x => x.id == c).getD (CoreState.empty c) with tlb := [] } =
      { (l.find? fun x => x.id == c).getD (CoreState.empty c) with tlb := [] } := by
  induction l with
  | nil =>
    by_cases h : k = c
    · subst h; simp [upsert, CoreState.empty]
    · have hk : ((CoreState.empty k).id == c) = false := by simpa [CoreState.empty] using h
      simp only [upsert, List.find?_cons, List.find?_nil]
      rw [hk]
  | cons x l ih =>
    simp only [upsert]
    split
    · simp only [List.find?_cons]
      split <;> rfl
    · simp only [List.find?_cons]
      split
      · rfl
      · exact ih

theorem tlb_of_same {x y : CoreState} (h : { x with tlb := [] } = { y with tlb := [] }) : { x with tlb := y.tlb } = y := by
  cases x; cases y
  simp only [CoreState.mk.injEq] at h ⊢
  simp_all

/-- Learning a translation changes only a translation cache, and the time registers that its walk's flits raise. -/
theorem State.learn_eq (s : State) (w : Who) (va : Nat) :
    ∃ cs ts, s.learn w va = { s with cores := cs, times := ts } ∧ TimesRise s (s.learn w va) ∧
      ∀ c, { (cs.find? fun x => x.id == c).getD (CoreState.empty c) with tlb := [] } = { s.core c with tlb := [] } := by
  have same : ∃ cs ts, s = { s with cores := cs, times := ts } ∧ TimesRise s s ∧
      ∀ c, { (cs.find? fun x => x.id == c).getD (CoreState.empty c) with tlb := [] } = { s.core c with tlb := [] } :=
    ⟨s.cores, s.times, rfl, fun _ => Nat.le_refl _, fun _ => rfl⟩
  unfold State.learn
  split
  · exact same
  · split
    · exact same
    · split
      · obtain ⟨⟨ts, h⟩, hr⟩ := s.causal_eq (s.walkDies w.core w.part w.ctx va)
        refine ⟨_, ts, by rw [h]; rfl, hr, fun c => ?_⟩
        exact cores_tlb s.cores w.core _ c
      · exact same

theorem State.learnAll_eq (s : State) (w : Who) (l : List (Nat × List Piece)) :
    ∃ cs ts, s.learnAll w l = { s with cores := cs, times := ts } ∧ TimesRise s (s.learnAll w l) ∧
      ∀ c, { (cs.find? fun x => x.id == c).getD (CoreState.empty c) with tlb := [] } = { s.core c with tlb := [] } := by
  unfold State.learnAll
  generalize l.flatMap (fun x => pieceVas x.2) = vs
  induction vs generalizing s with
  | nil => exact ⟨s.cores, s.times, rfl, fun _ => Nat.le_refl _, fun c => rfl⟩
  | cons a vs ih =>
    obtain ⟨cs, ts, h1, hr1, h2⟩ := s.learn_eq w a
    obtain ⟨ds, us, h3, hr2, h4⟩ := ih (s.learn w a)
    refine ⟨ds, us, by rw [List.foldl_cons, h3, h1], timesRise_trans hr1 hr2, fun c => ?_⟩
    rw [h4 c, ← h2 c, h1]
    rfl

/-- Issuing an operation adds it, raises its counter, and goes on. -/
theorem State.issueOp_eq (m : State) (g : Group) (A : Mask) (path : Path) (ctr : Ctr) (kind : OpKind) (accs : List Acc)
    (team n : Nat) :
    ∃ (o : Op) (g' : Group),
      m.issueOp g A path ctr kind accs team n = ({ m with nextOp := m.nextOp + 1, ops := m.ops ++ [o] } : State).setGroup g' ∧
      (o.id = m.nextOp ∧ o.group = g.key ∧ o.core = g.core ∧ o.team = team ∧ o.path = path ∧ o.ctr = ctr ∧ o.kind = kind ∧
        o.accs = accs ∧ o.active = A ∧ o.waddr = m.offsetOf g ((g.clause.map (·.kept)).getD 0)) ∧
      g'.key = g.key ∧ g'.cnt = g.cnt.set ctr (g.cnt.get ctr + 1) ∧ g'.lanes = g.lanes ∧ g'.s = g.s ∧
      KeptGroup (g.raise ctr) g' ∧ StandsAfter (m.issueOp g A path ctr kind accs team n) g g' n := by
  obtain ⟨g', he, hk', hl, hs, hr, ha⟩ := ({ m with nextOp := m.nextOp + 1, ops := m.ops ++ [
    { id := m.nextOp, group := g.key, core := g.core, team := team, path := path, ctr := ctr, kind := kind
      accs := accs, active := A, waddr := m.offsetOf g ((g.clause.map (·.kept)).getD 0)
      stamp := (m.time (dieOf g.core)).value }] } : State).advance_eq (g.raise ctr) n
  have hcnt : g'.cnt = (g.raise ctr).cnt := by
    have h := hr
    unfold KeptGroup at h
    have h2 := congrArg Group.cnt h
    exact h2
  exact ⟨_, g', he, ⟨rfl, rfl, rfl, rfl, rfl, rfl, rfl, rfl, rfl, rfl⟩, hk', hcnt, hl, hs, hr, ha⟩

/-- A word that issues one operation, after translation caches may have learnt. -/
theorem queued_issueOp {s m : State} {g : Group} (hi : s.issuing? = some g) {cs : List CoreState}
    {ts : List TimeReg} (hm : m = { s with issueQ := s.issueQ.tail, cores := cs, times := ts }) (ht : TimesRise s m)
    (hc : ∀ c, { (cs.find? fun x => x.id == c).getD (CoreState.empty c) with tlb := [] } = { s.core c with tlb := [] })
    (A : Mask) (path : Path) (ctr : Ctr) (kind : OpKind) (accs : List Acc) (n : Nat) (O : Op → Prop)
    (hO : ∀ o : Op, o.kind = kind → o.path = path → o.accs = accs → O o) :
    Queued s (m.issueOp g A path ctr kind accs (g.commandTeam A) n) g g A n ctr O := by
  subst hm
  have hf : s.group? g.key = some g := State.issuing?_group? hi
  obtain ⟨o, g', he, ⟨h1, h2, h3, h4, h5, h6, h7, h8, h9, h10⟩, hk', hcnt, hl, hs, hr, ha⟩ :=
    ({ s with issueQ := s.issueQ.tail, cores := cs, times := ts } : State).issueOp_eq g A path ctr kind accs (g.commandTeam A) n
  rw [he] at ha ⊢
  refine ⟨⟨o, rfl, h1, h2, h3, h4, h6, h9, fun c h => ?_, hO o h7 h5 h8⟩,
    ⟨g', ⟨State.group?_setGroup (s := s) hf hk', fun k hne =>
      State.group?_setGroup_other s g' k (by rw [hk']; exact hne)⟩, hcnt, hl, hs, ?_, ha⟩,
    fun c => tlb_of_same (hc c), fun a => rfl, rfl, ht⟩
  · rw [h10, h]; rfl
  · rw [hcnt]; exact hr

/-- A word that runs and issues one operation of an engine, no access of its own being translated. -/
theorem issueResult_of {i : Instr} {s : State} {g : Group} {p : Pred} {n : Nat} {ctr : Ctr} {path : Path} {kind : OpKind}
    {accs : List Acc} {O : Op → Prop} (hi : s.issuing? = some g)
    (he : exec i s = .next (s.popIssue.issueOp g (g.active p) path ctr kind accs (g.commandTeam (g.active p)) n))
    (hO : ∀ o : Op, o.kind = kind → o.path = path → o.accs = accs → O o) : IssueResult i s g p n ctr O :=
  ⟨_, he, queued_issueOp hi rfl (fun _ => Nat.le_refl _) (fun _ => rfl) _ _ _ _ _ _ _ hO⟩

end Sys2Proof.Machine
end

