-- ==== Sys2Proof/Laws/PerInstr.lean ====
section
/-! SUPPORT. The family OwnWord of statements about each instruction as syntax: a well-formed instruction has one word, or a
word and the literal that the word says follows (R41, R47). -/

namespace Sys2Proof.Laws.OwnWord

/-- The words of a well-formed instruction are its word and, where its word says so, its literal. No event is well formed. -/
def Statement (i : Instr) : Prop := i.wf = true → OwnWords (encode i)

theorem of_not_wf {i : Instr} (h : i.wf = false) : Statement i := fun hw => by rw [h] at hw; cases hw

theorem tlbinv_operand {p : Pred} {m : BitVec 2} {sa sb : RegNum} (h : (Instr.tlbinv p m sa sb).wf = true) :
    opSOk (.s sb) = true := by
  have h2 := right_of_and (show (p.wf && m != 3 && srcS sa && (if m == 1 then pairS sb else sb == 62)) = true from h)
  split at h2
  · rcases eq_or_ne sb 63 with rfl | hn
    · exact absurd h2 (by decide)
    · simpa [opSOk] using hn
  · have : sb = 62 := by simpa using h2
    subst this; rfl

theorem iadd (p d a b) : Statement (.iadd p d a b) := fun h => ownWords_encB (right_of_and h) rfl
theorem isub (p d a b) : Statement (.isub p d a b) := fun h => ownWords_encB (right_of_and h) rfl
theorem iaddSatI32 (p d a b) : Statement (.iaddSatI32 p d a b) := fun h => ownWords_encB (right_of_and h) rfl
theorem isubSatI32 (p d a b) : Statement (.isubSatI32 p d a b) := fun h => ownWords_encB (right_of_and h) rfl
theorem imul (p d a b) : Statement (.imul p d a b) := fun h => ownWords_encB (right_of_and h) rfl
theorem imulhI32 (p d a b) : Statement (.imulhI32 p d a b) := fun h => ownWords_encB (right_of_and h) rfl
theorem imulhN32 (p d a b) : Statement (.imulhN32 p d a b) := fun h => ownWords_encB (right_of_and h) rfl
theorem imad (p d a b) : Statement (.imad p d a b) := fun h => ownWords_encB (right_of_and h) rfl
theorem iminI32 (p d a b) : Statement (.iminI32 p d a b) := fun h => ownWords_encB (right_of_and h) rfl
theorem iminN32 (p d a b) : Statement (.iminN32 p d a b) := fun h => ownWords_encB (right_of_and h) rfl
theorem imaxI32 (p d a b) : Statement (.imaxI32 p d a b) := fun h => ownWords_encB (right_of_and h) rfl
theorem imaxN32 (p d a b) : Statement (.imaxN32 p d a b) := fun h => ownWords_encB (right_of_and h) rfl
theorem iabs (p d a) : Statement (.iabs p d a) := fun _ => ownWords_encR _ _ _ _ _ _
theorem ineg (p d a) : Statement (.ineg p d a) := fun _ => ownWords_encR _ _ _ _ _ _
theorem iaddSatN32 (p d a b) : Statement (.iaddSatN32 p d a b) := fun h => ownWords_encB (right_of_and h) rfl
theorem isubSatN32 (p d a b) : Statement (.isubSatN32 p d a b) := fun h => ownWords_encB (right_of_and h) rfl
theorem shlB32 (p d a b) : Statement (.shlB32 p d a b) := fun h => ownWords_encB (right_of_and h) rfl
theorem shrN32 (p d a b) : Statement (.shrN32 p d a b) := fun h => ownWords_encB (right_of_and h) rfl
theorem shrI32 (p d a b) : Statement (.shrI32 p d a b) := fun h => ownWords_encB (right_of_and h) rfl
theorem rolB32 (p d a b) : Statement (.rolB32 p d a b) := fun h => ownWords_encB (right_of_and h) rfl
theorem popc (p d a) : Statement (.popc p d a) := fun _ => ownWords_encR _ _ _ _ _ _
theorem clz (p d a) : Statement (.clz p d a) := fun _ => ownWords_encR _ _ _ _ _ _
theorem brev (p d a) : Statement (.brev p d a) := fun _ => ownWords_encR _ _ _ _ _ _
theorem bfeN32 (p d a b) : Statement (.bfeN32 p d a b) := fun h => ownWords_encB (right_of_and h) rfl
theorem bfeI32 (p d a b) : Statement (.bfeI32 p d a b) := fun h => ownWords_encB (right_of_and h) rfl
theorem bfi (p d a b) : Statement (.bfi p d a b) := fun h => ownWords_encB (right_of_and h) rfl
theorem iaddI64 (p d a b) : Statement (.iaddI64 p d a b) := fun h => ownWords_encB (opBOk_of_pairB (right_of_and h)) rfl
theorem isubI64 (p d a b) : Statement (.isubI64 p d a b) := fun h => ownWords_encB (opBOk_of_pairB (right_of_and h)) rfl
theorem imulI64 (p d a b) : Statement (.imulI64 p d a b) := fun h => ownWords_encB (opBOk_of_pairB (right_of_and h)) rfl
theorem shlB64 (p d a b) : Statement (.shlB64 p d a b) := fun h => ownWords_encB (right_of_and h) rfl
theorem shrN64 (p d a b) : Statement (.shrN64 p d a b) := fun h => ownWords_encB (right_of_and h) rfl
theorem shrI64 (p d a b) : Statement (.shrI64 p d a b) := fun h => ownWords_encB (right_of_and h) rfl
theorem iand (p d a b) : Statement (.iand p d a b) := fun h => ownWords_encB (right_of_and h) rfl
theorem ior (p d a b) : Statement (.ior p d a b) := fun h => ownWords_encB (right_of_and h) rfl
theorem ixor (p d a b) : Statement (.ixor p d a b) := fun h => ownWords_encB (right_of_and h) rfl
theorem iandn (p d a b) : Statement (.iandn p d a b) := fun h => ownWords_encB (right_of_and h) rfl
theorem cmpI32 (p cc pd a b) : Statement (.cmpI32 p cc pd a b) := fun h => ownWords_encB (right_of_and h) rfl
theorem cmpN32 (p cc pd a b) : Statement (.cmpN32 p cc pd a b) := fun h => ownWords_encB (right_of_and h) rfl
theorem cmpI64 (p cc pd a b) : Statement (.cmpI64 p cc pd a b) := fun h => ownWords_encB (opBOk_of_pairB (right_of_and h)) rfl
theorem cmpN64 (p cc pd a b) : Statement (.cmpN64 p cc pd a b) := fun h => ownWords_encB (opBOk_of_pairB (right_of_and h)) rfl
theorem mov (p d b) : Statement (.mov p d b) := fun h => ownWords_encB (right_of_and h) rfl
theorem fmin (p d a b) : Statement (.fmin p d a b) := fun h => ownWords_encB (right_of_and h) rfl
theorem fmax (p d a b) : Statement (.fmax p d a b) := fun h => ownWords_encB (right_of_and h) rfl
theorem fabs (p d a) : Statement (.fabs p d a) := fun _ => ownWords_encR _ _ _ _ _ _
theorem fneg (p d a) : Statement (.fneg p d a) := fun _ => ownWords_encR _ _ _ _ _ _
theorem fcmp (p cc pd a b) : Statement (.fcmp p cc pd a b) := fun h => ownWords_encB (right_of_and h) rfl
theorem fclass (p d a) : Statement (.fclass p d a) := fun _ => ownWords_encR _ _ _ _ _ _
theorem frcp (p d a) : Statement (.frcp p d a) := fun _ => ownWords_encR _ _ _ _ _ _
theorem fsqrt (p d a) : Statement (.fsqrt p d a) := fun _ => ownWords_encR _ _ _ _ _ _
theorem frsq (p d a) : Statement (.frsq p d a) := fun _ => ownWords_encR _ _ _ _ _ _
theorem fexp2 (p d a) : Statement (.fexp2 p d a) := fun _ => ownWords_encR _ _ _ _ _ _
theorem flog2 (p d a) : Statement (.flog2 p d a) := fun _ => ownWords_encR _ _ _ _ _ _
theorem paddBf16 (p d a b) : Statement (.paddBf16 p d a b) := fun h => ownWords_encB (right_of_and h) rfl
theorem psubBf16 (p d a b) : Statement (.psubBf16 p d a b) := fun h => ownWords_encB (right_of_and h) rfl
theorem pmulBf16 (p d a b) : Statement (.pmulBf16 p d a b) := fun h => ownWords_encB (right_of_and h) rfl
theorem pfmaBf16 (p d a b) : Statement (.pfmaBf16 p d a b) := fun h => ownWords_encB (right_of_and h) rfl
theorem pminBf16 (p d a b) : Statement (.pminBf16 p d a b) := fun h => ownWords_encB (right_of_and h) rfl
theorem pmaxBf16 (p d a b) : Statement (.pmaxBf16 p d a b) := fun h => ownWords_encB (right_of_and h) rfl
theorem pdotBf16 (p d a b) : Statement (.pdotBf16 p d a b) := fun h => ownWords_encB (right_of_and h) rfl
theorem pdotE4m3 (p d a b) : Statement (.pdotE4m3 p d a b) := fun h => ownWords_encB (right_of_and h) rfl
theorem pdotE5m2 (p d a b) : Statement (.pdotE5m2 p d a b) := fun h => ownWords_encB (right_of_and h) rfl
theorem pminE4m3 (p d a b) : Statement (.pminE4m3 p d a b) := fun h => ownWords_encB (right_of_and h) rfl
theorem pmaxE4m3 (p d a b) : Statement (.pmaxE4m3 p d a b) := fun h => ownWords_encB (right_of_and h) rfl
theorem pminE5m2 (p d a b) : Statement (.pminE5m2 p d a b) := fun h => ownWords_encB (right_of_and h) rfl
theorem pmaxE5m2 (p d a b) : Statement (.pmaxE5m2 p d a b) := fun h => ownWords_encB (right_of_and h) rfl
theorem cvtBf16F32 (p m d a) : Statement (.cvtBf16F32 p m d a) := fun _ => ownWords_encR _ _ _ _ _ _
theorem cvtE4m3F32 (p m d a) : Statement (.cvtE4m3F32 p m d a) := fun _ => ownWords_encR _ _ _ _ _ _
theorem cvtE5m2F32 (p m d a) : Statement (.cvtE5m2F32 p m d a) := fun _ => ownWords_encR _ _ _ _ _ _
theorem cvtF32Bf16 (p d a) : Statement (.cvtF32Bf16 p d a) := fun _ => ownWords_encR _ _ _ _ _ _
theorem cvtF32E4m3 (p d a) : Statement (.cvtF32E4m3 p d a) := fun _ => ownWords_encR _ _ _ _ _ _
theorem cvtF32E5m2 (p d a) : Statement (.cvtF32E5m2 p d a) := fun _ => ownWords_encR _ _ _ _ _ _
theorem cvtI32F32 (p m d a) : Statement (.cvtI32F32 p m d a) := fun _ => ownWords_encR _ _ _ _ _ _
theorem cvtN32F32 (p m d a) : Statement (.cvtN32F32 p m d a) := fun _ => ownWords_encR _ _ _ _ _ _
theorem cvtF32I32 (p m d a) : Statement (.cvtF32I32 p m d a) := fun _ => ownWords_encR _ _ _ _ _ _
theorem cvtF32N32 (p m d a) : Statement (.cvtF32N32 p m d a) := fun _ => ownWords_encR _ _ _ _ _ _
theorem cvtF32I64 (p m d a) : Statement (.cvtF32I64 p m d a) := fun _ => ownWords_encR _ _ _ _ _ _
theorem packBf16 (p m d a) : Statement (.packBf16 p m d a) := fun _ => ownWords_encR _ _ _ _ _ _
theorem packE4m3 (p m d a) : Statement (.packE4m3 p m d a) := fun _ => ownWords_encR _ _ _ _ _ _
theorem packE5m2 (p m d a) : Statement (.packE5m2 p m d a) := fun _ => ownWords_encR _ _ _ _ _ _
theorem pand (p pd pa pb) : Statement (.pand p pd pa pb) := fun _ => ownWords_encR _ _ _ _ _ _
theorem por (p pd pa pb) : Statement (.por p pd pa pb) := fun _ => ownWords_encR _ _ _ _ _ _
theorem pxor (p pd pa pb) : Statement (.pxor p pd pa pb) := fun _ => ownWords_encR _ _ _ _ _ _
theorem pandn (p pd pa pb) : Statement (.pandn p pd pa pb) := fun _ => ownWords_encR _ _ _ _ _ _
theorem psave (p d) : Statement (.psave p d) := fun _ => ownWords_encR _ _ _ _ _ _
theorem prest (p a) : Statement (.prest p a) := fun _ => ownWords_encR _ _ _ _ _ _
theorem voteAny (p pd pa) : Statement (.voteAny p pd pa) := fun _ => ownWords_encR _ _ _ _ _ _
theorem voteAll (p pd pa) : Statement (.voteAll p pd pa) := fun _ => ownWords_encR _ _ _ _ _ _
theorem voteBallot (p sd pa) : Statement (.voteBallot p sd pa) := fun _ => ownWords_encR _ _ _ _ _ _
theorem voteEq (p pd a) : Statement (.voteEq p pd a) := fun _ => ownWords_encR _ _ _ _ _ _
theorem shflIdx (p d a b) : Statement (.shflIdx p d a b) := fun h => ownWords_encB (right_of_and h) rfl
theorem shflUp (p d a b) : Statement (.shflUp p d a b) := fun h => ownWords_encB (right_of_and h) rfl
theorem shflDown (p d a b) : Statement (.shflDown p d a b) := fun h => ownWords_encB (right_of_and h) rfl
theorem shflXor (p d a b) : Statement (.shflXor p d a b) := fun h => ownWords_encB (right_of_and h) rfl
theorem rdfl (p sd a) : Statement (.rdfl p sd a) := fun _ => ownWords_encR _ _ _ _ _ _
theorem rdln (p sd a b) : Statement (.rdln p sd a b) := fun h => ownWords_encS (right_of_and h) rfl
theorem nop (p) : Statement (.nop p) := fun _ => ownWords_encR _ _ _ _ _ _
theorem tail (p) : Statement (.tail p) := fun _ => ownWords_encR _ _ _ _ _ _
theorem yield (p) : Statement (.yield p) := fun _ => ownWords_encR _ _ _ _ _ _
theorem spawn (p sd ps) : Statement (.spawn p sd ps) := fun _ => ownWords_encR _ _ _ _ _ _
theorem regroup (p l k b) : Statement (.regroup p l k b) := fun h => ownWords_encS (right_of_and h) rfl
theorem regroupFlush (p) : Statement (.regroupFlush p) := fun _ => ownWords_encR _ _ _ _ _ _
theorem ret (p) : Statement (.ret p) := fun _ => ownWords_encR _ _ _ _ _ _
theorem jmp (p sa) : Statement (.jmp p sa) := fun _ => ownWords_encR _ _ _ _ _ _
theorem callUniform (p sa) : Statement (.callUniform p sa) := fun _ => ownWords_encR _ _ _ _ _ _
theorem ldB8 (p d x) : Statement (.ldB8 p d x) := fun _ => ownWords_encMem _ _ _ _ (by decide)
theorem ldB16 (p d x) : Statement (.ldB16 p d x) := fun _ => ownWords_encMem _ _ _ _ (by decide)
theorem ldB32 (p d x) : Statement (.ldB32 p d x) := fun _ => ownWords_encMem _ _ _ _ (by decide)
theorem ldB64 (p d x) : Statement (.ldB64 p d x) := fun _ => ownWords_encMem _ _ _ _ (by decide)
theorem ldB128 (p d x) : Statement (.ldB128 p d x) := fun _ => ownWords_encMem _ _ _ _ (by decide)
theorem ldI8 (p d x) : Statement (.ldI8 p d x) := fun _ => ownWords_encMem _ _ _ _ (by decide)
theorem ldI16 (p d x) : Statement (.ldI16 p d x) := fun _ => ownWords_encMem _ _ _ _ (by decide)
theorem stB8 (p d x) : Statement (.stB8 p d x) := fun _ => ownWords_encMem _ _ _ _ (by decide)
theorem stB16 (p d x) : Statement (.stB16 p d x) := fun _ => ownWords_encMem _ _ _ _ (by decide)
theorem stB32 (p d x) : Statement (.stB32 p d x) := fun _ => ownWords_encMem _ _ _ _ (by decide)
theorem stB64 (p d x) : Statement (.stB64 p d x) := fun _ => ownWords_encMem _ _ _ _ (by decide)
theorem stB128 (p d x) : Statement (.stB128 p d x) := fun _ => ownWords_encMem _ _ _ _ (by decide)
theorem atomLd (p x) : Statement (.atomLd p x) := fun _ => ownWords_encAtom _ _ _
theorem atomSt (p x) : Statement (.atomSt p x) := fun _ => ownWords_encAtom _ _ _
theorem atomAdd (p x) : Statement (.atomAdd p x) := fun _ => ownWords_encAtom _ _ _
theorem atomAnd (p x) : Statement (.atomAnd p x) := fun _ => ownWords_encAtom _ _ _
theorem atomOr (p x) : Statement (.atomOr p x) := fun _ => ownWords_encAtom _ _ _
theorem atomXor (p x) : Statement (.atomXor p x) := fun _ => ownWords_encAtom _ _ _
theorem atomMinI (p x) : Statement (.atomMinI p x) := fun _ => ownWords_encAtom _ _ _
theorem atomMinN (p x) : Statement (.atomMinN p x) := fun _ => ownWords_encAtom _ _ _
theorem atomMaxI (p x) : Statement (.atomMaxI p x) := fun _ => ownWords_encAtom _ _ _
theorem atomMaxN (p x) : Statement (.atomMaxN p x) := fun _ => ownWords_encAtom _ _ _
theorem atomSwap (p x) : Statement (.atomSwap p x) := fun _ => ownWords_encAtom _ _ _
theorem atomCas (p x) : Statement (.atomCas p x) := fun _ => ownWords_encAtom _ _ _
theorem atomLdRemote (p d a b64) : Statement (.atomLdRemote p d a b64) := fun _ => ownWords_encAtom _ _ _
theorem fence (p k sc) : Statement (.fence p k sc) := fun _ => ownWords_encR _ _ _ _ _ _
theorem xfence (p x y) : Statement (.xfence p x y) := fun _ => ownWords_encR _ _ _ _ _ _
theorem cflush (p a) : Statement (.cflush p a) := fun _ => ownWords_encR _ _ _ _ _ _
theorem cinv (p a) : Statement (.cinv p a) := fun _ => ownWords_encR _ _ _ _ _ _
theorem cpref (p a) : Statement (.cpref p a) := fun _ => ownWords_encR _ _ _ _ _ _
theorem czero (p a) : Statement (.czero p a) := fun _ => ownWords_encR _ _ _ _ _ _
theorem iinv (p) : Statement (.iinv p) := fun _ => ownWords_encR _ _ _ _ _ _
theorem hinit (p d a b) : Statement (.hinit p d a b) := fun _ => ownWords_encR _ _ _ _ _ _
theorem help (p a) : Statement (.help p a) := fun _ => ownWords_encR _ _ _ _ _ _
theorem lda (p d a b) : Statement (.lda p d a b) := fun h => ownWords_encB (right_of_and h) rfl
theorem apply (p d a b) : Statement (.apply p d a b) := fun _ => ownWords_encR _ _ _ _ _ _
theorem ares (p d a b) : Statement (.ares p d a b) := fun _ => ownWords_encR _ _ _ _ _ _
theorem arel (p a b) : Statement (.arel p a b) := fun _ => ownWords_encR _ _ _ _ _ _
theorem annAdd (p d a b) : Statement (.annAdd p d a b) := fun _ => ownWords_encR _ _ _ _ _ _
theorem annAnd (p d a b) : Statement (.annAnd p d a b) := fun _ => ownWords_encR _ _ _ _ _ _
theorem annOr (p d a b) : Statement (.annOr p d a b) := fun _ => ownWords_encR _ _ _ _ _ _
theorem annXor (p d a b) : Statement (.annXor p d a b) := fun _ => ownWords_encR _ _ _ _ _ _
theorem annMin (p d a b) : Statement (.annMin p d a b) := fun _ => ownWords_encR _ _ _ _ _ _
theorem annMax (p d a b) : Statement (.annMax p d a b) := fun _ => ownWords_encR _ _ _ _ _ _
theorem annSwap (p d a b) : Statement (.annSwap p d a b) := fun _ => ownWords_encR _ _ _ _ _ _
theorem annCas (p d a b) : Statement (.annCas p d a b) := fun _ => ownWords_encR _ _ _ _ _ _
theorem annCas2 (p d a b) : Statement (.annCas2 p d a b) := fun _ => ownWords_encR _ _ _ _ _ _
theorem annSw (p d a b) : Statement (.annSw p d a b) := fun _ => ownWords_encR _ _ _ _ _ _
theorem barrTeam (p d) : Statement (.barrTeam p d) := fun _ => ownWords_encR _ _ _ _ _ _
theorem barrCluster (p d) : Statement (.barrCluster p d) := fun _ => ownWords_encR _ _ _ _ _ _
theorem barrDie (p d) : Statement (.barrDie p d) := fun _ => ownWords_encR _ _ _ _ _ _
theorem barrGrid (p d) : Statement (.barrGrid p d) := fun _ => ownWords_encR _ _ _ _ _ _
theorem btstTeam (p pd b) : Statement (.btstTeam p pd b) := fun h => ownWords_encB (right_of_and h) rfl
theorem btstCluster (p pd b) : Statement (.btstCluster p pd b) := fun h => ownWords_encB (right_of_and h) rfl
theorem btstDie (p pd b) : Statement (.btstDie p pd b) := fun h => ownWords_encB (right_of_and h) rfl
theorem btstGrid (p pd b) : Statement (.btstGrid p pd b) := fun h => ownWords_encB (right_of_and h) rfl
theorem swset (p a b) : Statement (.swset p a b) := fun h => ownWords_encB (right_of_and h) rfl
theorem swtst (p pd a b) : Statement (.swtst p pd a b) := fun h => ownWords_encB (right_of_and h) rfl
theorem wait (p x y z w) : Statement (.wait p x y z w) := fun _ => ownWords_encR _ _ _ _ _ _
theorem cpyB32 (p x) : Statement (.cpyB32 p x) := fun _ => ownWords_encCpy _ _ _ (by decide)
theorem cpyB64 (p x) : Statement (.cpyB64 p x) := fun _ => ownWords_encCpy _ _ _ (by decide)
theorem cpyB128 (p x) : Statement (.cpyB128 p x) := fun _ => ownWords_encCpy _ _ _ (by decide)
theorem bcpy (p ps) : Statement (.bcpy p ps) := fun _ => ownWords_encR _ _ _ _ _ _
theorem get (p ps) : Statement (.get p ps) := fun _ => ownWords_encR _ _ _ _ _ _
theorem mma (p r ps) : Statement (.mma p r ps) := fun _ => ownWords_encR _ _ _ _ _ _
theorem tld (p ps) : Statement (.tld p ps) := fun _ => ownWords_encR _ _ _ _ _ _
theorem tst (p ps) : Statement (.tst p ps) := fun _ => ownWords_encR _ _ _ _ _ _
theorem tzero (p t) : Statement (.tzero p t) := fun _ => ownWords_encR _ _ _ _ _ _
theorem epi (p ps) : Statement (.epi p ps) := fun _ => ownWords_encR _ _ _ _ _ _
theorem bfly (p ps) : Statement (.bfly p ps) := fun _ => ownWords_encR _ _ _ _ _ _
theorem gather (p ps) : Statement (.gather p ps) := fun _ => ownWords_encR _ _ _ _ _ _
theorem dist (p ps) : Statement (.dist p ps) := fun _ => ownWords_encR _ _ _ _ _ _
theorem topk (p ps) : Statement (.topk p ps) := fun _ => ownWords_encR _ _ _ _ _ _
theorem rdsr (p d n) : Statement (.rdsr p d n) := fun _ => ownWords_encR _ _ _ _ _ _
theorem wrsr (p n b) : Statement (.wrsr p n b) := fun h => ownWords_encB (right_of_and h) rfl
theorem trap (p d a b) : Statement (.trap p d a b) := fun h => ownWords_encS (right_of_and h) rfl
theorem timeNow (p sd) : Statement (.timeNow p sd) := fun _ => ownWords_encR _ _ _ _ _ _
theorem timeErr (p sd) : Statement (.timeErr p sd) := fun _ => ownWords_encR _ _ _ _ _ _
theorem timeAfter (p pd sa) : Statement (.timeAfter p pd sa) := fun _ => ownWords_encR _ _ _ _ _ _
theorem resume (p sd sa b) : Statement (.resume p sd sa b) := fun h => ownWords_encS (right_of_and h) rfl
theorem kill (p sd sa b) : Statement (.kill p sd sa b) := fun h => ownWords_encS (right_of_and h) rfl
theorem srdsr (p sd n b) : Statement (.srdsr p sd n b) := fun h => ownWords_encS (right_of_and h) rfl
theorem swrsr (p n sa b) : Statement (.swrsr p n sa b) := fun h => ownWords_encS (right_of_and h) rfl
theorem sret (p sa) : Statement (.sret p sa) := fun _ => ownWords_encS (b := .s 62) rfl rfl
theorem tlbinv (p m sa sb) : Statement (.tlbinv p m sa sb) := fun h => ownWords_encS (tlbinv_operand h) rfl
theorem keynew (p sd sa) : Statement (.keynew p sd sa) := fun _ => ownWords_encS (b := .s 62) rfl rfl
theorem fadd (p m d a b) : Statement (.fadd p m d a b) := fun h => ownWords_encRaw (right_of_and h) rfl
theorem fsub (p m d a b) : Statement (.fsub p m d a b) := fun h => ownWords_encRaw (right_of_and h) rfl
theorem fmul (p m d a b) : Statement (.fmul p m d a b) := fun h => ownWords_encRaw (right_of_and h) rfl
theorem ffma (p m d a b) : Statement (.ffma p m d a b) := fun h => ownWords_encRaw (right_of_and h) rfl
theorem frint (p m d a) : Statement (.frint p m d a) := fun _ => ownWords_encRaw rfl rfl
theorem sel (p k d a b) : Statement (.sel p k d a b) := fun h => ownWords_encRaw (right_of_and h) rfl
theorem ldi (p u d imm) : Statement (.ldi p u d imm) := fun _ => ownWords_class (.inl (class_ldi 3#5 _ _ _ _ _))
theorem bra (p off) : Statement (.bra p off) := fun _ => ownWords_class (.inr (class_branch 10#5 _ _ _ _))
theorem call (p off) : Statement (.call p off) := fun _ => ownWords_class (.inr (class_branch 10#5 _ _ _ _))
theorem coldReset (x0) : Statement (.coldReset x0) := of_not_wf rfl
theorem firmwareImageReplacement (x0) : Statement (.firmwareImageReplacement x0) := of_not_wf rfl
theorem flitDelivery (x0 x1 x2 x3) : Statement (.flitDelivery x0 x1 x2 x3) := of_not_wf rfl
theorem handshakeToken (x0 x1 x2 x3 x4 x5) : Statement (.handshakeToken x0 x1 x2 x3 x4 x5) :=
  of_not_wf rfl
theorem linkIdleTimeout (x0) : Statement (.linkIdleTimeout x0) := of_not_wf rfl
theorem linkUp (x0) : Statement (.linkUp x0) := of_not_wf rfl
theorem wakeTimeout (x0) : Statement (.wakeTimeout x0) := of_not_wf rfl
theorem trainingAttemptEnd (x0 x1) : Statement (.trainingAttemptEnd x0 x1) := of_not_wf rfl
theorem timeTick (x0) : Statement (.timeTick x0) := of_not_wf rfl
theorem syncInterval : Statement (.syncInterval) := of_not_wf rfl
theorem sync (x0 x1) : Statement (.sync x0 x1) := of_not_wf rfl
theorem followUp (x0 x1) : Statement (.followUp x0 x1) := of_not_wf rfl
theorem pdelayReq (x0 x1) : Statement (.pdelayReq x0 x1) := of_not_wf rfl
theorem pdelayResp (x0 x1) : Statement (.pdelayResp x0 x1) := of_not_wf rfl
theorem pdelayRespFollowUp (x0 x1) : Statement (.pdelayRespFollowUp x0 x1) := of_not_wf rfl
theorem holdover (x0) : Statement (.holdover x0) := of_not_wf rfl
theorem boundSaturation (x0) : Statement (.boundSaturation x0) := of_not_wf rfl
theorem masterTimeWrite (x0) : Statement (.masterTimeWrite x0) := of_not_wf rfl
theorem issueTurn (x0 x1 x2) : Statement (.issueTurn x0 x1 x2) := of_not_wf rfl
theorem starvationPromotion (x0) : Statement (.starvationPromotion x0) := of_not_wf rfl
theorem haltWordLimit (x0) : Statement (.haltWordLimit x0) := of_not_wf rfl
theorem groupHaltComplete (x0) : Statement (.groupHaltComplete x0) := of_not_wf rfl
theorem yieldExpiry (x0) : Statement (.yieldExpiry x0) := of_not_wf rfl
theorem loadCompletion (x0 x1 x2) : Statement (.loadCompletion x0 x1 x2) := of_not_wf rfl
theorem storeCompletion (x0 x1) : Statement (.storeCompletion x0 x1) := of_not_wf rfl
theorem atomicPerform (x0 x1) : Statement (.atomicPerform x0 x1) := of_not_wf rfl
theorem promotionRequest (x0 x1) : Statement (.promotionRequest x0 x1) := of_not_wf rfl
theorem promotionAnswer (x0) : Statement (.promotionAnswer x0) := of_not_wf rfl
theorem hobPerform (x0 x1) : Statement (.hobPerform x0 x1) := of_not_wf rfl
theorem l1LogicalTick (x0) : Statement (.l1LogicalTick x0) := of_not_wf rfl
theorem directoryInvalidation (x0 x1) : Statement (.directoryInvalidation x0 x1) := of_not_wf rfl
theorem invalidationAck (x0 x1) : Statement (.invalidationAck x0 x1) := of_not_wf rfl
theorem pageWalkComplete (x0 x1 x2 x3) : Statement (.pageWalkComplete x0 x1 x2 x3) := of_not_wf rfl
theorem patrolScrub (x0 x1) : Statement (.patrolScrub x0 x1) := of_not_wf rfl
theorem bankGate (x0) : Statement (.bankGate x0) := of_not_wf rfl
theorem bankWake (x0) : Statement (.bankWake x0) := of_not_wf rfl
theorem bankWakeComplete (x0 x1) : Statement (.bankWakeComplete x0 x1) := of_not_wf rfl
theorem tlbinvComplete (x0) : Statement (.tlbinvComplete x0) := of_not_wf rfl
theorem groupFormation (x0) : Statement (.groupFormation x0) := of_not_wf rfl
theorem binAgeFlush (x0) : Statement (.binAgeFlush x0) := of_not_wf rfl
theorem binIdleFlush (x0) : Statement (.binIdleFlush x0) := of_not_wf rfl
theorem binRoomReserve (x0) : Statement (.binRoomReserve x0) := of_not_wf rfl
theorem teamPlacement (x0 x1 x2 x3 x4) : Statement (.teamPlacement x0 x1 x2 x3 x4) := of_not_wf rfl
theorem groupRetirement (x0) : Statement (.groupRetirement x0) := of_not_wf rfl
theorem teamComplete (x0) : Statement (.teamComplete x0) := of_not_wf rfl
theorem chargeReport (x0 x1) : Statement (.chargeReport x0 x1) := of_not_wf rfl
theorem gridComplete (x0) : Statement (.gridComplete x0) := of_not_wf rfl
theorem childLaunch (x0) : Statement (.childLaunch x0) := of_not_wf rfl
theorem matrixCommandComplete (x0 x1) : Statement (.matrixCommandComplete x0 x1) := of_not_wf rfl
theorem copyTransfer (x0 x1 x2) : Statement (.copyTransfer x0 x1 x2) := of_not_wf rfl
theorem copyComplete (x0) : Statement (.copyComplete x0) := of_not_wf rfl
theorem copyFault (x0 x1) : Statement (.copyFault x0 x1) := of_not_wf rfl
theorem getTimeout (x0) : Statement (.getTimeout x0) := of_not_wf rfl
theorem gatherCommandComplete (x0) : Statement (.gatherCommandComplete x0) := of_not_wf rfl
theorem faultAfterIssue (x0) : Statement (.faultAfterIssue x0) := of_not_wf rfl
theorem ringPost (x0) : Statement (.ringPost x0) := of_not_wf rfl
theorem lockstepMismatchServiceCore (x0) : Statement (.lockstepMismatchServiceCore x0) := of_not_wf rfl
theorem lockstepMismatchCommandProcessor : Statement (.lockstepMismatchCommandProcessor) := of_not_wf rfl
theorem lockstepMismatchRootMonitor : Statement (.lockstepMismatchRootMonitor) := of_not_wf rfl
theorem kernelEntry (x0) : Statement (.kernelEntry x0) := of_not_wf rfl
theorem launch (x0 x1 x2 x3) : Statement (.launch x0 x1 x2 x3) := of_not_wf rfl
theorem launchAt (x0 x1 x2 x3 x4 x5 x6 x7) : Statement (.launchAt x0 x1 x2 x3 x4 x5 x6 x7) :=
  of_not_wf rfl
theorem graph (x0 x1 x2 x3) : Statement (.graph x0 x1 x2 x3) := of_not_wf rfl
theorem signal (x0 x1 x2 x3) : Statement (.signal x0 x1 x2 x3) := of_not_wf rfl
theorem after (x0 x1 x2 x3 x4) : Statement (.after x0 x1 x2 x3 x4) := of_not_wf rfl
theorem dispatch : Statement (.dispatch) := of_not_wf rfl
theorem watchedLineRead (x0) : Statement (.watchedLineRead x0) := of_not_wf rfl
theorem afterPoll (x0) : Statement (.afterPoll x0) := of_not_wf rfl
theorem afterTimeout (x0) : Statement (.afterTimeout x0) := of_not_wf rfl
theorem launchAtStart (x0 x1) : Statement (.launchAtStart x0 x1) := of_not_wf rfl
theorem replicatedCopyReceive (x0 x1) : Statement (.replicatedCopyReceive x0 x1) := of_not_wf rfl
theorem graphNodeStart (x0 x1) : Statement (.graphNodeStart x0 x1) := of_not_wf rfl
theorem queueOpen (x0 x1 x2) : Statement (.queueOpen x0 x1 x2) := of_not_wf rfl
theorem queueStop (x0) : Statement (.queueStop x0) := of_not_wf rfl
theorem queueRestart (x0) : Statement (.queueRestart x0) := of_not_wf rfl
theorem queueClose (x0) : Statement (.queueClose x0) := of_not_wf rfl
theorem queueReset (x0 x1 x2) : Statement (.queueReset x0 x1 x2) := of_not_wf rfl
theorem heartbeat (x0 x1) : Statement (.heartbeat x0 x1) := of_not_wf rfl
theorem schedulerHung (x0) : Statement (.schedulerHung x0) := of_not_wf rfl
theorem commandLinkMessage (x0 x1 x2) : Statement (.commandLinkMessage x0 x1 x2) := of_not_wf rfl
theorem preemptRequest (x0) : Statement (.preemptRequest x0) := of_not_wf rfl
theorem placementWaitTimeout (x0) : Statement (.placementWaitTimeout x0) := of_not_wf rfl
theorem preemptHalt (x0) : Statement (.preemptHalt x0) := of_not_wf rfl
theorem preemptKill (x0) : Statement (.preemptKill x0) := of_not_wf rfl
theorem contextSwapOut (x0) : Statement (.contextSwapOut x0) := of_not_wf rfl
theorem contextSwapIn (x0 x1) : Statement (.contextSwapIn x0 x1) := of_not_wf rfl
theorem partitionCommit (x0 x1) : Statement (.partitionCommit x0 x1) := of_not_wf rfl
theorem keynewComplete (x0) : Statement (.keynewComplete x0) := of_not_wf rfl
theorem tbWindow : Statement (.tbWindow) := of_not_wf rfl
theorem supervisorRegisterWrite (x0 x1 x2 x3) : Statement (.supervisorRegisterWrite x0 x1 x2 x3) :=
  of_not_wf rfl
theorem hostCxlMemAccess (x0 x1) : Statement (.hostCxlMemAccess x0 x1) := of_not_wf rfl
theorem backInvalidateAck (x0 x1) : Statement (.backInvalidateAck x0 x1) := of_not_wf rfl
theorem hostLinkDown (x0) : Statement (.hostLinkDown x0) := of_not_wf rfl
theorem hostLinkReturn (x0) : Statement (.hostLinkReturn x0) := of_not_wf rfl
theorem hostQuarantineExpiry (x0) : Statement (.hostQuarantineExpiry x0) := of_not_wf rfl
theorem cxlCacheSnoop (x0 x1 x2) : Statement (.cxlCacheSnoop x0 x1 x2) := of_not_wf rfl
theorem portTraining (x0 x1 x2) : Statement (.portTraining x0 x1 x2) := of_not_wf rfl

end Sys2Proof.Laws.OwnWord
end

