-- ==== Sys2Proof/Tests/Slice0.lean ====
section
/-! SUPPORT. The model's own tests: terms that are not well formed, words that the spec writes out, results of single steps on
small states, and a witness for the hypotheses of each statement. Each expected value is the spec's, or worked out from it. -/

namespace Sys2Proof.Tests

set_option Elab.async false

open Sys2Proof Sys2Proof.Machine Sys2Proof.Safety

/-! ## Small states -/

/-- The predicate prefix that always holds. -/
def always : Pred := ⟨7, false⟩

def lane (i : Nat) (v : Words) : Thread := { Thread.launched i 2 0 0 with v := v }

/-- A group of 32 positions on core 0 of Vent 0, inside a clause of 15 words at `placeBase`, with the lanes `l` and the uniform
registers `u`. -/
def grp (l : List Thread) (u : Words) : Group :=
  let g := Group.formed 3 1 0 32 64 (.vent 0 0 0) (some ⟨.vent 0 0 0, 0, 0, 0, 0⟩) 0 (BitVec.ofNat 64 placeBase)
    (l.map some ++ List.replicate (32 - l.length) none) false
  { g with s := u, clause := some ⟨BitVec.ofNat 64 placeBase, 15, BitVec.ofNat 64 placeBase + 4, true, List.replicate 15 0⟩ }

/-- The machine that `placeWord` makes, with the group `g` instead of its own. -/
def mach (g : Group) : State := { State.reset.placeWord 32 0x5B800000 with groups := [g], issueQ := [3] }

/-- A group in supervisor state on service core 0, or with `k` on that core. -/
def superGrp (l : List Thread) (u : Words) : Group := { grp l u with core := .service 0, seat := some ⟨.service 0, 0, 0, 0, 0⟩, supervisor := true, grid := 0 }

def superMach (g : Group) : State := { State.reset.placeWord 32 0xC7900000 with groups := [g], issueQ := [3] }

/-- The state that an outcome answers. -/
def next? (o : Out) : Option State := match o with | .next t => some t | _ => none

/-- Vector register `r` of lane `i` after an outcome. -/
def got (o : Out) (i r : Nat) : Option W32 := (next? o).bind fun t => (t.groups.head?.bind (·.thread? i)).map (·.get r)

def gotP (o : Out) (i : Nat) (k : BitVec 3) : Option Bool :=
  (next? o).bind fun t => (t.groups.head?.bind (·.thread? i)).map (·.pred k)

def gotS (o : Out) (r : Nat) : Option W32 := (next? o).bind fun t => t.groups.head?.map (·.sGet r)

/-- The cause and fault mask of the record that an outcome leaves due. -/
def gotTrap (o : Out) : Option (Nat × Mask) :=
  (next? o).bind fun t => (t.parts.head?.bind (·.posts.head?)).map fun r => (r.cause, r.fmask)

/-- One lane with the registers `v`. -/
def one (v : Words) : State := mach (grp [lane 0 v] [])

/-! ## Terms that are not well formed -/

/-- The pair pred = 7, inv = 1 (R46). -/
theorem test_wf_pred : (Instr.nop ⟨7, true⟩).wf = false := by decide
/-- s63 as operand b (R47). -/
theorem test_wf_operand : (Instr.iadd always 1 2 (.s 63)).wf = false ∧ (Instr.rdln always 4 2 (.s 63)).wf = false := by decide
/-- Odd pairs (R127). -/
theorem test_wf_pairs :
    (Instr.iaddI64 always 3 2 (.v 4)).wf = false ∧ (Instr.iaddI64 always 2 3 (.v 4)).wf = false ∧
      (Instr.iaddI64 always 2 4 (.v 5)).wf = false ∧ (Instr.cvtF32I64 always .rn 3 5).wf = false := by decide
/-- p7 as a destination (R134, R108). -/
theorem test_wf_p7 : (Instr.cmpI32 always .lt 7 2 (.v 3)).wf = false ∧ (Instr.pand always 7 1 2).wf = false := by decide
/-- SEL on p7 (R133), and rounding modes that a word does not take (R136). -/
theorem test_wf_modes : (Instr.sel always 7 1 2 (.v 3)).wf = false ∧ (Instr.fadd always .rs 1 2 (.v 3)).wf = false := by decide
/-- Uniform destinations and sources (R107, R98, R332). -/
theorem test_wf_uniform :
    (Instr.voteBallot always 5 1).wf = false ∧ (Instr.rdfl always 63 1).wf = false ∧ (Instr.jmp always 63).wf = false ∧
      (Instr.timeNow always 62).wf = false ∧ (Instr.sret always 62).wf = false ∧ (Instr.spawn always 4 63).wf = false := by decide
/-- Registers of a memory word that are not aligned to its size, and an odd base pair (R51, R166). -/
theorem test_wf_memory :
    (Instr.ldB64 always 3 ⟨2, .gl, .scaled 0⟩).wf = false ∧ (Instr.stB128 always 6 ⟨2, .gl, .scaled 0⟩).wf = false ∧
      (Instr.ldB32 always 3 ⟨3, .gl, .scaled 0⟩).wf = false := by decide
/-- Orders that an ATOM does not take, and its operands (R183, R185). -/
theorem test_wf_atom :
    (Instr.atomLd always ⟨false, 6, 8, .rel, .core, false⟩).wf = false ∧
      (Instr.atomSt always ⟨false, 6, 8, .acq, .core, false⟩).wf = false ∧
      (Instr.atomCas always ⟨false, 7, 8, .rlx, .core, false⟩).wf = false ∧
      (Instr.atomAdd always ⟨false, 6, 9, .rlx, .core, false⟩).wf = false ∧
      (Instr.atomAdd always ⟨false, 7, 8, .rlx, .core, true⟩).wf = false ∧
      (Instr.atomLdRemote always 7 8 true).wf = false := by decide
/-- Operand blocks of class 16 (R198), empty XFENCE sets (R171), the spaces of CPY (R274). -/
theorem test_wf_blocks :
    (Instr.annAdd always 1 8 3).wf = false ∧ (Instr.annCas always 1 8 6).wf = false ∧ (Instr.hinit always 1 8 12).wf = false ∧
      (Instr.lda always 4 8 (.v 1)).wf = false ∧ (Instr.xfence always 0 1).wf = false ∧
      (Instr.cpyB32 always ⟨false, 2, 4, .pv, .gl⟩).wf = false ∧ (Instr.cpyB32 always ⟨true, 2, 4, .gl, .sc⟩).wf = false ∧
      (Instr.cpyB32 always ⟨false, 3, 4, .gl, .sc⟩).wf = false := by decide
/-- WRSR of a read-only register, TLBINV mode 3 and its operand (R114, R336), and events, which are no words. -/
theorem test_wf_system :
    (Instr.wrsr always 3 (.v 1)).wf = false ∧ (Instr.tlbinv always 3 8 62).wf = false ∧ (Instr.tlbinv always 0 8 10).wf = false ∧
      (Instr.mma always false 63).wf = false ∧ (Instr.timeAfter always 7 4).wf = false ∧ (Instr.dispatch).wf = false := by decide
/-- A term that meets every check. -/
theorem test_wf_good : (Instr.stB128 always 8 ⟨2, .gl, .scaled 7⟩).wf = true := by decide

/-! ## Words that the spec writes out -/

/-- Control words (R98, R99, R102, R227, R230). -/
theorem test_decode_control :
    decodeWord 0x5B9C0180#32 0 = .ok (.jmp always 6) ∧ decodeWord 0x5B980000#32 0 = .ok (.ret always) ∧
      decodeWord 0x5B840000#32 0 = .ok (.tail always) ∧ decodeWord 0x5B800000#32 0 = .ok (.nop always) ∧
      decodeWord 0x5F917504#32 0 = .ok (.regroup always 23 20 (.s 4)) ∧ decodeWord 0x5B940000#32 0 = .ok (.regroupFlush always) ∧
      decodeWord 0x50800004#32 0 = .ok (.bra ⟨1, false⟩ 4) := by decide
/-- Classes 0 to 9 (R96, R110, R133, R134, R136, R143). -/
theorem test_decode_alu :
    decodeWord 0x03844083#32 0 = .ok (.isub always 4 2 (.v 3)) ∧ decodeWord 0x03806105#32 0 = .ok (.iadd always 6 4 (.v 5)) ∧
      decodeWord 0x178140BF#32 15 = .ok (.iand always 20 2 (.lit 15)) ∧
      decodeWord 0x13911083#32 0 = .ok (.cmpI32 always .lt 1 2 (.v 3)) ∧
      decodeWord 0x1B87FFFE#32 0 = .ok (.ldi always false 7 0xFFFE) ∧ decodeWord 0x1F840064#32 0 = .ok (.ldi always true 4 100) ∧
      decodeWord 0x27A0513F#32 9 = .ok (.fmul always .rn 5 4 (.lit 9)) ∧
      decodeWord 0x23B48187#32 0 = .ok (.ffma always .rz 8 6 (.v 7)) ∧ decodeWord 0x3B843084#32 0 = .ok (.cvtE4m3F32 always .rs 3 2) ∧
      decodeWord 0x43A04080#32 0 = .ok (.voteBallot always 4 2) ∧ decodeWord 0x4B906240#32 0 = .ok (.rdfl always 6 9) := by decide
/-- Classes 12 to 17 (R166, R183, R198, R213, R214, R217, R219). -/
theorem test_decode_memory :
    decodeWord 0x63886200#32 0 = .ok (.ldB32 always 6 ⟨8, .gl, .scaled 0⟩) ∧
      decodeWord 0x6B886202#32 0 = .ok (.stB32 always 6 ⟨8, .gl, .scaled 2⟩) ∧
      decodeWord 0x73846226#32 0 = .ok (.atomSt always ⟨false, 6, 8, .rel, .device, false⟩) ∧
      decodeWord 0x73807216#32 0 = .ok (.atomLd always ⟨false, 7, 8, .acq, .device, false⟩) ∧
      decodeWord 0x73B07216#32 0 = .ok (.atomLdRemote always 7 8 false) ∧
      decodeWord 0x778850F0#32 0 = .ok (.atomAdd always ⟨true, 5, 3, .ar, .core, false⟩) ∧
      decodeWord 0x8398A20C#32 0 = .ok (.annAdd always 10 8 12) ∧ decodeWord 0x83840200#32 0 = .ok (.help always 8) ∧
      decodeWord 0x8390E20A#32 0 = .ok (.ares always 14 8 10) ∧ decodeWord 0x8394020A#32 0 = .ok (.arel always 8 10) ∧
      decodeWord 0x838D821C#32 0 = .ok (.apply always 24 8 28) := by decide
theorem test_decode_sync :
    decodeWord 0x8B814000#32 0 = .ok (.barrTeam always 20) ∧ decodeWord 0x8B901015#32 0 = .ok (.btstTeam always 1 (.v 21)) ∧
      decodeWord 0x8FA0053F#32 4096 = .ok (.swset always 20 (.lit 4096)) ∧
      decodeWord 0x8BA41515#32 0 = .ok (.swtst always 1 20 (.v 21)) ∧ decodeWord 0x8BA801FF#32 0 = .ok (.wait always 0 7 7 7) := by decide
/-- Classes 18 to 24 (R273, R282, R347, R33, R332 to R337). -/
theorem test_decode_system :
    decodeWord 0x9388A210#32 0 = .ok (.cpyB128 always ⟨false, 10, 8, .sc, .gl⟩) ∧
      decodeWord 0xB3800010#32 0 = .ok (.gather always 16) ∧ decodeWord 0xBBB04000#32 0 = .ok (.timeNow always 4) ∧
      decodeWord 0xBF8820BF#32 7 = .ok (.trap always 2 2 (.lit 7)) ∧ decodeWord 0xBB803000#32 0 = .ok (.rdsr always 3 0) ∧
      decodeWord 0xBB807340#32 0 = .ok (.rdsr always 7 13) ∧ decodeWord 0xBB840305#32 0 = .ok (.wrsr always 12 (.v 5)) ∧
      decodeWord 0xC78041BE#32 0 = .ok (.resume always 4 6 (.s 62)) ∧ decodeWord 0xC7844187#32 0 = .ok (.kill always 4 6 (.s 7)) ∧
      decodeWord 0xC788810A#32 0 = .ok (.srdsr always 8 4 (.s 10)) ∧ decodeWord 0xC78C530A#32 0 = .ok (.swrsr always 5 12 (.s 10)) ∧
      decodeWord 0xC79001BE#32 0 = .ok (.sret always 6) ∧ decodeWord 0xC794124A#32 0 = .ok (.tlbinv always 1 9 10) ∧
      decodeWord 0xC798427E#32 0 = .ok (.keynew always 4 9) := by decide
/-- Words of R53: a reserved class, a reserved minor, a reserved predicate pair, a field outside its limits. -/
theorem test_decode_refused :
    decodeWord 0xCB800000#32 0 = .error .reservedClass ∧ decodeWord 0x07C00000#32 0 = .error .reservedPred ∧
      decodeWord 0xBBBC0000#32 0 = .error .reservedMinor ∧ decodeWord 0x8BA81000#32 0 = .error .fieldLimit := by decide

/-! ## Results of classes 0 to 9 -/

/-- Integer words (R129; the table of results at the edges). -/
theorem test_integer :
    got (exec (.iadd always 3 1 (.v 2)) (one [(1, 0xFFFFFFFF), (2, 2)])) 0 3 = some 1 ∧
      got (exec (.isub always 3 1 (.v 2)) (one [(1, 1), (2, 2)])) 0 3 = some 0xFFFFFFFF ∧
      got (exec (.iaddSatI32 always 3 1 (.v 2)) (one [(1, 0x7FFFFFFF), (2, 1)])) 0 3 = some 0x7FFFFFFF ∧
      got (exec (.isubSatI32 always 3 1 (.v 2)) (one [(1, 0x80000000), (2, 1)])) 0 3 = some 0x80000000 ∧
      got (exec (.iaddSatN32 always 3 1 (.v 2)) (one [(1, 0xFFFFFFFF), (2, 1)])) 0 3 = some 0xFFFFFFFF ∧
      got (exec (.isubSatN32 always 3 1 (.v 2)) (one [(1, 1), (2, 2)])) 0 3 = some 0 ∧
      got (exec (.iabs always 3 1) (one [(1, 0x80000000)])) 0 3 = some 0x80000000 ∧
      got (exec (.ineg always 1 1) (one [(1, 5)])) 0 1 = some 0xFFFFFFFB := by decide +kernel
theorem test_multiply :
    got (exec (.imul always 3 1 (.v 2)) (one [(1, 0x10001), (2, 0x10001)])) 0 3 = some 0x20001 ∧
      got (exec (.imulhI32 always 3 1 (.v 2)) (one [(1, 0x80000000), (2, 0x80000000)])) 0 3 = some 0x40000000 ∧
      got (exec (.imulhN32 always 3 1 (.v 2)) (one [(1, 0xFFFFFFFF), (2, 0xFFFFFFFF)])) 0 3 = some 0xFFFFFFFE ∧
      got (exec (.imad always 3 1 (.lit 7)) (one [(1, 6), (3, 100)])) 0 3 = some 142 := by decide +kernel
theorem test_min_max :
    got (exec (.iminI32 always 3 1 (.v 2)) (one [(1, 0x80000000), (2, 1)])) 0 3 = some 0x80000000 ∧
      got (exec (.iminN32 always 3 1 (.v 2)) (one [(1, 0x80000000), (2, 1)])) 0 3 = some 1 ∧
      got (exec (.imaxI32 always 3 1 (.v 2)) (one [(1, 0x80000000), (2, 1)])) 0 3 = some 1 ∧
      got (exec (.imaxN32 always 3 1 (.v 2)) (one [(1, 0x80000000), (2, 1)])) 0 3 = some 0x80000000 := by decide +kernel
/-- Shifts and bit counts (R130). -/
theorem test_shifts :
    got (exec (.shlB32 always 3 1 (.v 2)) (one [(1, 1), (2, 32)])) 0 3 = some 0 ∧
      got (exec (.shrN32 always 3 1 (.lit 4)) (one [(1, 0xF0000000)])) 0 3 = some 0x0F000000 ∧
      got (exec (.shrI32 always 3 1 (.lit 40)) (one [(1, 0x80000000)])) 0 3 = some 0xFFFFFFFF ∧
      got (exec (.rolB32 always 3 1 (.lit 33)) (one [(1, 0x80000001)])) 0 3 = some 3 ∧
      got (exec (.popc always 3 1) (one [(1, 0xF0F00001)])) 0 3 = some 9 ∧
      got (exec (.clz always 3 1) (one [(1, 0)])) 0 3 = some 32 ∧
      got (exec (.brev always 3 1) (one [(1, 1)])) 0 3 = some 0x80000000 := by decide +kernel
/-- Bit fields (R131). -/
theorem test_fields :
    got (exec (.bfeI32 always 3 1 (.lit 0x404)) (one [(1, 0xF0)])) 0 3 = some 0xFFFFFFFF ∧
      got (exec (.bfeN32 always 3 1 (.lit 0x101E)) (one [(1, 0xF0)])) 0 3 = some 0 ∧
      got (exec (.bfi always 3 1 (.lit 0x0804)) (one [(1, 0x12), (3, 0xFFFFFFFF)])) 0 3 = some 0xFFFFF12F := by decide +kernel
/-- Pairs (R127, R132): a literal is sign-extended, a carry crosses the pair. -/
theorem test_pairs :
    got (exec (.iaddI64 always 4 2 (.lit 1)) (one [(2, 0xFFFFFFFF)])) 0 5 = some 1 ∧
      got (exec (.isubI64 always 4 2 (.lit 1)) (one [])) 0 5 = some 0xFFFFFFFF ∧
      got (exec (.imulI64 always 4 2 (.v 6)) (one [(2, 0x10000), (6, 0x10000)])) 0 5 = some 1 ∧
      got (exec (.shlB64 always 4 2 (.lit 32)) (one [(2, 7)])) 0 5 = some 7 ∧
      got (exec (.shrN64 always 4 2 (.lit 32)) (one [(3, 7)])) 0 4 = some 7 ∧
      got (exec (.shrI64 always 4 2 (.lit 64)) (one [(3, 0x80000000)])) 0 4 = some 0xFFFFFFFF := by decide +kernel
/-- Logic, comparison, selection (R133, R134) and LDI (R48). -/
theorem test_logic :
    got (exec (.iand always 3 1 (.v 2)) (one [(1, 12), (2, 10)])) 0 3 = some 8 ∧
      got (exec (.ior always 3 1 (.v 2)) (one [(1, 12), (2, 10)])) 0 3 = some 14 ∧
      got (exec (.ixor always 3 1 (.v 2)) (one [(1, 12), (2, 10)])) 0 3 = some 6 ∧
      got (exec (.iandn always 3 1 (.v 2)) (one [(1, 12), (2, 10)])) 0 3 = some 4 ∧
      got (exec (.mov always 3 (.s 5)) (mach (grp [lane 0 []] [(5, 9)]))) 0 3 = some 9 ∧
      got (exec (.sel always 0 3 1 (.v 2)) (one [(1, 12), (2, 10)])) 0 3 = some 10 ∧
      got (exec (.ldi always false 3 0xFFFE) (one [])) 0 3 = some 0xFFFFFFFE ∧
      gotS (exec (.ldi always true 4 100) (one [])) 4 = some 100 ∧ gotS (exec (.ldi always true 62 100) (one [])) 62 = some 0 := by
  decide +kernel
theorem test_compare :
    gotP (exec (.cmpI32 always .lt 1 2 (.v 3)) (one [(2, 0xFFFFFFFF), (3, 1)])) 0 1 = some true ∧
      gotP (exec (.cmpN32 always .lt 1 2 (.v 3)) (one [(2, 0xFFFFFFFF), (3, 1)])) 0 1 = some false ∧
      gotP (exec (.cmpI64 always .lt 1 2 (.lit 0xFFFFFFFF)) (one [])) 0 1 = some false ∧
      gotP (exec (.cmpN64 always .lt 1 2 (.lit 0xFFFFFFFF)) (one [])) 0 1 = some true := by decide +kernel
/-- A word whose predicate fails in a lane leaves that lane (R46). -/
theorem test_predicated :
    let s := mach (grp [{ lane 0 [(1, 5)] with p := 1 }, lane 1 [(1, 5)]] [])
    got (exec (.iadd ⟨0, false⟩ 3 1 (.lit 1)) s) 0 3 = some 6 ∧ got (exec (.iadd ⟨0, false⟩ 3 1 (.lit 1)) s) 1 3 = some 0 := by
  decide +kernel
/-- Floating point (R57, R58, R65, R136 to R140). -/
theorem test_float :
    got (exec (.fadd always .rd 3 1 (.v 2)) (one [(1, 0x3F800000), (2, 0xBF800000)])) 0 3 = some 0x80000000 ∧
      got (exec (.fsub always .rn 3 1 (.v 2)) (one [(1, 0x3F800000), (2, 0x40000000)])) 0 3 = some 0xBF800000 ∧
      got (exec (.fmul always .rn 3 1 (.v 2)) (one [(1, 0x7F7FFFFF), (2, 0x40000000)])) 0 3 = some 0x7F800000 ∧
      got (exec (.fmul always .rz 3 1 (.v 2)) (one [(1, 0x7F7FFFFF), (2, 0x40000000)])) 0 3 = some 0x7F7FFFFF ∧
      got (exec (.ffma always .rn 3 1 (.v 2)) (one [(1, 0x40000000), (2, 0x40400000), (3, 0x3F800000)])) 0 3 = some 0x40E00000 ∧
      got (exec (.fmin always 3 1 (.v 2)) (one [(1, 0), (2, 0x80000000)])) 0 3 = some 0x80000000 ∧
      got (exec (.fmax always 3 1 (.v 2)) (one [(1, 0x7FA00001), (2, 0x3F800000)])) 0 3 = some 0x7FC00000 := by decide +kernel
theorem test_float_unary :
    got (exec (.fclass always 3 1) (one [(1, 0x7FA00001)])) 0 3 = some 0x100 ∧
      got (exec (.fabs always 3 1) (one [(1, 0xBF800000)])) 0 3 = some 0x3F800000 ∧
      got (exec (.fneg always 3 1) (one [(1, 0x3F800000)])) 0 3 = some 0xBF800000 ∧
      got (exec (.frcp always 3 1) (one [(1, 0x80000000)])) 0 3 = some 0xFF800000 ∧
      got (exec (.frcp always 3 1) (one [(1, 0x40800000)])) 0 3 = some 0x3E800000 ∧
      got (exec (.fsqrt always 3 1) (one [(1, 0x80000000)])) 0 3 = some 0x80000000 ∧
      got (exec (.fsqrt always 3 1) (one [(1, 0x40800000)])) 0 3 = some 0x40000000 ∧
      got (exec (.frsq always 3 1) (one [(1, 0)])) 0 3 = some 0x7F800000 ∧
      got (exec (.fexp2 always 3 1) (one [(1, 0x40400000)])) 0 3 = some 0x41000000 ∧
      got (exec (.flog2 always 3 1) (one [(1, 0x41000000)])) 0 3 = some 0x40400000 ∧
      got (exec (.frint always .rn 3 1) (one [(1, 0x40200000)])) 0 3 = some 0x40000000 ∧
      gotP (exec (.fcmp always .ne 1 2 (.v 3)) (one [(2, 0x7FC00000)])) 0 1 = some true := by decide +kernel
/-- Conversions (R64 to R66, R71). -/
theorem test_convert :
    got (exec (.cvtBf16F32 always .rn 3 1) (one [(1, 0x3F808000)])) 0 3 = some 0x3F80 ∧
      got (exec (.cvtBf16F32 always .ru 3 1) (one [(1, 0x3F808000)])) 0 3 = some 0x3F81 ∧
      got (exec (.cvtE4m3F32 always .rn 3 1) (one [(1, 0x43FA0000)])) 0 3 = some 0x7E ∧
      got (exec (.cvtE5m2F32 always .rn 3 1) (one [(1, 0x49742400)])) 0 3 = some 0x7C ∧
      got (exec (.cvtE5m2F32 always .rz 3 1) (one [(1, 0x49742400)])) 0 3 = some 0x7B ∧
      got (exec (.cvtI32F32 always .rn 3 1) (one [(1, 0x40200000)])) 0 3 = some 2 ∧
      got (exec (.cvtI32F32 always .rn 3 1) (one [(1, 0xC0200000)])) 0 3 = some 0xFFFFFFFE ∧
      got (exec (.cvtI32F32 always .rz 3 1) (one [(1, 0x501502F9)])) 0 3 = some 0x7FFFFFFF ∧
      got (exec (.cvtN32F32 always .rn 3 1) (one [(1, 0xBF800000)])) 0 3 = some 0 ∧
      got (exec (.cvtI32F32 always .rn 3 1) (one [(1, 0x7FC00000)])) 0 3 = some 0 := by decide +kernel
theorem test_convert_back :
    got (exec (.cvtF32Bf16 always 3 1) (one [(1, 0x3F81)])) 0 3 = some 0x3F810000 ∧
      got (exec (.cvtF32E4m3 always 3 1) (one [(1, 0x3A)])) 0 3 = some 0x3FA00000 ∧
      got (exec (.cvtF32E5m2 always 3 1) (one [(1, 0x3C)])) 0 3 = some 0x3F800000 ∧
      got (exec (.cvtF32I32 always .rn 3 1) (one [(1, 0xFFFFFFFF)])) 0 3 = some 0xBF800000 ∧
      got (exec (.cvtF32N32 always .rn 3 1) (one [(1, 0xFFFFFFFF)])) 0 3 = some 0x4F800000 ∧
      got (exec (.cvtF32I64 always .rn 3 4) (one [(5, 1)])) 0 3 = some 0x4F800000 ∧
      got (exec (.packBf16 always .rn 3 4) (one [(4, 0x3F800000), (5, 0x40000000)])) 0 3 = some 0x40003F80 ∧
      got (exec (.packE4m3 always .rn 3 4) (one [(4, 0x3F800000)])) 0 3 = some 0x38 ∧
      got (exec (.packE5m2 always .rn 3 4) (one [(4, 0x3F800000)])) 0 3 = some 0x3C := by decide +kernel
/-- The worked example of stochastic rounding (R71). -/
theorem test_stochastic :
    rnd e4m3 .rs 0x9999 (exF32 0x3FA66666) = 0x3A ∧ rnd e4m3 .rs 0x999A (exF32 0x3FA66666) = 0x3B := by decide +kernel
/-- Packed words (R141, R142). -/
theorem test_packed :
    got (exec (.paddBf16 always 3 1 (.v 2)) (one [(1, 0x40003F80), (2, 0x3F803F80)])) 0 3 = some 0x40404000 ∧
      got (exec (.psubBf16 always 3 1 (.v 2)) (one [(1, 0x40003F80), (2, 0x3F803F80)])) 0 3 = some 0x3F800000 ∧
      got (exec (.pmulBf16 always 3 1 (.v 2)) (one [(1, 0x40003F80), (2, 0x40004000)])) 0 3 = some 0x40804000 ∧
      got (exec (.pfmaBf16 always 3 1 (.v 2)) (one [(1, 0x3F80), (2, 0x3F80), (3, 0x3F80)])) 0 3 = some 0x4000 ∧
      got (exec (.pminBf16 always 3 1 (.v 2)) (one [(1, 0x3F80), (2, 0x4000)])) 0 3 = some 0x3F80 ∧
      got (exec (.pmaxBf16 always 3 1 (.v 2)) (one [(1, 0x3F80), (2, 0x4000)])) 0 3 = some 0x4000 ∧
      got (exec (.pdotBf16 always 3 1 (.v 2)) (one [(1, 0x40003F80), (2, 0x3F803F80), (3, 0x3F800000)])) 0 3 = some 0x40800000 ∧
      got (exec (.pdotE4m3 always 3 1 (.v 2)) (one [(1, 0x38383838), (2, 0x38383838)])) 0 3 = some 0x40800000 ∧
      got (exec (.pdotE5m2 always 3 1 (.v 2)) (one [(1, 0x3C3C3C3C), (2, 0x3C3C3C3C)])) 0 3 = some 0x40800000 := by decide +kernel
theorem test_packed_min_max :
    got (exec (.pminE4m3 always 3 1 (.v 2)) (one [(1, 0x38), (2, 0x40)])) 0 3 = some 0x38 ∧
      got (exec (.pmaxE4m3 always 3 1 (.v 2)) (one [(1, 0x38), (2, 0x40)])) 0 3 = some 0x40 ∧
      got (exec (.pminE5m2 always 3 1 (.v 2)) (one [(1, 0x3C), (2, 0xBC)])) 0 3 = some 0xBC ∧
      got (exec (.pmaxE5m2 always 3 1 (.v 2)) (one [(1, 0x3C), (2, 0xBC)])) 0 3 = some 0x3C := by decide +kernel
/-- Predicates and votes (R108). -/
theorem test_predicates :
    let s := mach (grp [{ lane 0 [(1, 5)] with p := 5 }, { lane 1 [(1, 5)] with p := 4 }] [])
    gotP (exec (.pand always 1 0 2) s) 0 1 = some true ∧ gotP (exec (.por always 1 0 3) s) 1 1 = some false ∧
      gotP (exec (.pxor always 1 0 2) s) 0 1 = some false ∧ gotP (exec (.pandn always 1 2 0) s) 1 1 = some true ∧
      got (exec (.psave always 3) s) 0 3 = some 5 ∧ gotP (exec (.prest always 1) s) 1 0 = some true ∧
      gotP (exec (.voteAny always 1 0) s) 1 1 = some true ∧ gotP (exec (.voteAll always 1 0) s) 0 1 = some false ∧
      gotS (exec (.voteBallot always 4 0) s) 4 = some 1 ∧ gotP (exec (.voteEq always 1 1) s) 0 1 = some true := by decide +kernel
/-- Words that read other lanes (R110). -/
theorem test_lanes :
    let s := mach (grp [lane 0 [(1, 10)], lane 1 [(1, 11)], lane 2 [(1, 12)], lane 3 [(1, 13)]] [])
    got (exec (.shflIdx always 3 1 (.lit 2)) s) 0 3 = some 12 ∧ got (exec (.shflUp always 3 1 (.lit 1)) s) 0 3 = some 10 ∧
      got (exec (.shflUp always 3 1 (.lit 1)) s) 3 3 = some 12 ∧ got (exec (.shflDown always 1 1 (.lit 1)) s) 1 1 = some 12 ∧
      got (exec (.shflXor always 3 1 (.lit 3)) s) 0 3 = some 13 ∧ gotS (exec (.rdfl always 6 1) s) 6 = some 10 ∧
      gotS (exec (.rdln always 6 1 (.lit 2)) s) 6 = some 12 := by decide +kernel

/-! ## Control words -/

/-- The addresses and masks of the frontier of the first group after an outcome, code offsets from `placeBase`. -/
def gotFrontier (o : Out) : Option (List (Nat × Mask)) :=
  (next? o).bind fun t => t.groups.head?.map fun g => g.frontier.map fun e => (e.addr.toNat - placeBase, e.mask)

/-- A branch from the word at offset 4 that only lane 0 takes, and the lanes together (R49, R90, R98). -/
theorem test_branch :
    let s := mach (grp [{ lane 0 [] with p := 2 }, lane 1 []] [(6, 128)])
    gotFrontier (exec (.bra ⟨1, false⟩ 31) s) = some [(64, 2), (128, 1)] ∧ gotFrontier (exec (.bra always 31) s) = some [(128, 3)] ∧
      gotFrontier (exec (.jmp always 6) s) = some [(128, 3)] ∧ gotFrontier (exec (.nop always) s) = some [(64, 3)] := by
  decide +kernel
/-- CALL writes the offset of next to v1 and adds to the depth; RET goes back (R96 to R98). -/
theorem test_call :
    got (exec (.call always 31) (one [])) 0 1 = some 64 ∧ gotFrontier (exec (.call always 31) (one [])) = some [(128, 1)] ∧
      gotFrontier (exec (.callUniform always 6) (mach (grp [lane 0 []] [(6, 256)]))) = some [(256, 1)] ∧
      gotFrontier (exec (.ret always) (mach (grp [{ lane 0 [(1, 192)] with depth := 1 }] []))) = some [(192, 1)] := by decide +kernel
theorem test_call_traps :
    gotTrap (exec (.ret always) (one [(1, 192)])) = some (Cause.retUnderflow, 1) ∧
      gotTrap (exec (.jmp always 6) (mach (grp [lane 0 []] [(6, 2)]))) = some (Cause.misaligned, 1) ∧
      gotTrap (exec (.call always 4) (mach (grp [{ lane 0 [] with depth := 65535 }] []))) = some (Cause.stackLimit, 1) := by decide +kernel
/-- TAIL ends the active threads; the team counts them (R99, R101). -/
theorem test_tail :
    let o := exec (.tail ⟨0, false⟩) (mach (grp [{ lane 0 [] with p := 1 }, lane 1 []] []))
    gotFrontier o = some [(64, 2)] ∧ ((next? o).bind fun t => t.teams.head?.map (·.ended)) = some 1 := by decide +kernel
theorem test_yield :
    ((next? (exec (.yield always) (one []))).bind fun t => t.groups.head?.map (·.run)) = some (.yielding 16) := by decide +kernel
/-- SPAWN by a thread that is not number 0 (R104). -/
theorem test_spawn : gotTrap (exec (.spawn always 4 6) (mach (grp [lane 1 []] []))) = some (Cause.illegalState, 1) := by decide +kernel
/-- The bins of core 0 after an outcome: key, resume address, the threads and slots of the records. -/
def gotBins (o : Out) : Option (List (W16 × W32 × List (Nat × Nat))) :=
  (next? o).map fun t => (t.core (.vent 0 0 0)).bins.map fun b => (b.key, b.resume, b.recs.map fun r => (r.thread.tid, r.slots))
/-- REGROUP deposits in ascending lane order, by key (R222, R227). -/
theorem test_regroup :
    let s := mach (grp [lane 0 [(5, 0x10007)], lane 1 [(5, 9)], lane 2 [(5, 7)]] [(4, 0)])
    gotBins (exec (.regroup always 9 5 (.s 4)) s) = some [(7, 64, [(0, 4), (2, 4)]), (9, 64, [(1, 4)])] ∧
      gotTrap (exec (.regroup always 9 5 (.lit 2)) s) = some (Cause.illegalState, 7) := by decide +kernel
theorem test_regroup_flush :
    let s0 := mach (grp [lane 0 []] [])
    let b : Bin := ⟨1, false, 0, 0, 0, 0, some 2, [⟨lane 5 [], true, 1, 3, 0, false⟩], false, none, false⟩
    let s : State := s0.setCore (.vent 0 0 0) fun c => { c with bins := [b, { b with grid := 7 }] }
    ((next? (exec (.regroupFlush always) s)).map fun t => (t.core (.vent 0 0 0)).bins.map (·.flushed)) = some [true, false] := by
  decide +kernel

/-! ## Memory -/

/-- The outcome of an event after the outcome of a word. -/
def andThen (o : Out) (e : Instr) : Out := match o with | .next t => exec e t | x => x

/-- A lane with the address 0x200000 in v8, and `b` at that place. -/
def atMem (v : Words) (b : List Byte) : State := (one ((8, 0x200000) :: v)).writeBytes 0x200000 b

/-- A load changes no register when it issues, and its register when it is performed (R166, R167). -/
theorem test_load :
    let s := atMem [] [0xFE, 0xFF, 0x03, 0x04]
    got (exec (.ldB32 always 6 ⟨8, .gl, .scaled 0⟩) s) 0 6 = some 0 ∧
      got (andThen (exec (.ldB32 always 6 ⟨8, .gl, .scaled 0⟩) s) (.loadCompletion 0 [0] false)) 0 6 = some 0x0403FFFE ∧
      got (andThen (exec (.ldB16 always 6 ⟨8, .gl, .scaled 0⟩) s) (.loadCompletion 0 [0] false)) 0 6 = some 0xFFFE ∧
      got (andThen (exec (.ldI16 always 6 ⟨8, .gl, .scaled 0⟩) s) (.loadCompletion 0 [0] false)) 0 6 = some 0xFFFFFFFE ∧
      got (andThen (exec (.ldI8 always 6 ⟨8, .gl, .lit 2⟩) s) (.loadCompletion 0 [0] false)) 0 6 = some 3 ∧
      got (andThen (exec (.ldB8 always 6 ⟨8, .gl, .scaled 1⟩) s) (.loadCompletion 0 [0] false)) 0 6 = some 0xFF := by decide +kernel
theorem test_load_wide :
    let s := atMem [] (bytesOfNat 16 0x000000040000000300000002000000F1)
    got (andThen (exec (.ldB128 always 4 ⟨8, .gl, .scaled 0⟩) s) (.loadCompletion 0 [0] false)) 0 7 = some 4 ∧
      got (andThen (exec (.ldB64 always 4 ⟨8, .gl, .scaled 0⟩) s) (.loadCompletion 0 [0] false)) 0 5 = some 2 := by decide +kernel
/-- Stores (R166), and the checks of addresses (R167). -/
theorem test_store :
    let s := atMem [(4, 0x11223344), (5, 0x55667788)] []
    let mem (o : Out) (n : Nat) : Option Nat := (next? o).map fun t => t.readNat 0x200000 n
    mem (andThen (exec (.stB32 always 4 ⟨8, .gl, .scaled 0⟩) s) (.storeCompletion 0 [0])) 8 = some 0x11223344 ∧
      mem (andThen (exec (.stB8 always 4 ⟨8, .gl, .scaled 0⟩) s) (.storeCompletion 0 [0])) 8 = some 0x44 ∧
      mem (andThen (exec (.stB16 always 4 ⟨8, .gl, .scaled 0⟩) s) (.storeCompletion 0 [0])) 8 = some 0x3344 ∧
      mem (andThen (exec (.stB64 always 4 ⟨8, .gl, .scaled 0⟩) s) (.storeCompletion 0 [0])) 8 = some 0x5566778811223344 ∧
      mem (andThen (exec (.stB128 always 4 ⟨8, .gl, .scaled 0⟩) s) (.storeCompletion 0 [0])) 8 = some 0x5566778811223344 := by
  decide +kernel
theorem test_access_traps :
    gotTrap (exec (.ldB32 always 6 ⟨8, .gl, .lit 1⟩) (atMem [] [])) = some (Cause.misaligned, 1) ∧
      gotTrap (exec (.ldB32 always 6 ⟨1, .sc, .lit 0x80000⟩) (one [])) = some (Cause.permission, 1) ∧
      gotTrap (exec (.ldB32 always 6 ⟨8, .gl, .scaled 0⟩) (one [(9, 1)])) = some (Cause.translation, 1) ∧
      gotTrap (exec (.stB32 always 6 ⟨0, .pv, .scaled 0⟩) (mach (grp [{ lane 0 [] with splim := 4 }] []))) =
        some (Cause.stackLimit, 1) := by decide +kernel
/-- The register space (R121), and the scratchpad (R149). -/
theorem test_other_spaces :
    got (exec (.stB16 always 6 ⟨1, .rs, .scaled 0⟩) (one [(1, 18), (6, 0xABCD)])) 0 4 = some 0xABCD0000 ∧
      got (exec (.ldB32 always 6 ⟨1, .rs, .scaled 0⟩) (one [(1, 16), (4, 77)])) 0 6 = some 77 ∧
      got (andThen (exec (.ldB32 always 6 ⟨1, .sc, .scaled 0⟩) (one [(1, 16)])) (.loadCompletion 0 [0] false)) 0 6 = some 0 := by
  decide +kernel
/-- Atomics (R183): the old value comes back, the new one stands in memory. -/
theorem test_atomics :
    let s := atMem [(4, 5), (5, 9)] [7]
    let run (i : Instr) : Out := andThen (exec i s) (.atomicPerform 0 [0])
    let x : AtomArgs := ⟨false, 4, 8, .rlx, .device, false⟩
    let both (i : Instr) : Option W32 × Option Nat := (got (run i) 0 4, (next? (run i)).map fun t => t.readNat 0x200000 4)
    both (.atomAdd always x) = (some 7, some 12) ∧ both (.atomAnd always x) = (some 7, some 5) ∧
      both (.atomOr always x) = (some 7, some 7) ∧ both (.atomXor always x) = (some 7, some 2) ∧
      both (.atomMinI always x) = (some 7, some 5) ∧ both (.atomMaxN always x) = (some 7, some 7) := by decide +kernel
theorem test_atomics_more :
    let s := atMem [(4, 7), (5, 9)] [7]
    let run (i : Instr) : Out := andThen (exec i s) (.atomicPerform 0 [0])
    let x : AtomArgs := ⟨false, 4, 8, .rlx, .device, false⟩
    let both (i : Instr) : Option W32 × Option Nat := (got (run i) 0 4, (next? (run i)).map fun t => t.readNat 0x200000 4)
    both (.atomSwap always { x with d := 5 }) = (some 7, some 9) ∧ both (.atomCas always x) = (some 7, some 9) ∧
      both (.atomMinN always x) = (some 7, some 7) ∧ both (.atomMaxI always x) = (some 7, some 7) ∧
      both (.atomLd always x) = (some 7, some 7) ∧ both (.atomSt always { x with d := 5 }) = (some 7, some 9) ∧
      both (.atomLdRemote always 4 8 false) = (some 7, some 7) := by decide +kernel

/-- Fences and the instructions on lines (R170 to R174): what their counters are after issue. -/
theorem test_fences :
    let cnt (i : Instr) : Option Counters := (next? (exec i (atMem [] []))).bind fun t => t.groups.head?.map (·.cnt)
    cnt (.fence always .ar .device) = some Counters.zero ∧ cnt (.xfence always 1 2) = some Counters.zero ∧
      cnt (.cflush always 8) = some ⟨0, 1, 0, 0⟩ ∧ cnt (.czero always 8) = some ⟨0, 1, 0, 0⟩ ∧
      cnt (.cinv always 8) = some Counters.zero ∧ cnt (.cpref always 8) = some Counters.zero ∧
      cnt (.iinv always) = some Counters.zero := by decide +kernel
/-- Words that a full counter holds (R39), and WAIT (R219). -/
theorem test_held :
    let s := mach { grp [lane 0 [(8, 0x200000)]] [] with cnt := ⟨63, 1, 0, 0⟩ }
    next? (exec (.ldB32 always 6 ⟨8, .gl, .scaled 0⟩) s) = some { s with issueQ := [] } ∧
      next? (exec (.wait always 7 0 7 7) s) = some { s with issueQ := [] } ∧
      next? (exec (.wait always 7 1 7 7) s) ≠ some { s with issueQ := [] } := by decide +kernel

/-! ## Barriers, sync words and copies -/

/-- The machine of one group whose team's barrier has two members. -/
def pair (g : Group) : State := { mach g with teams := (mach g).teams.map fun t => { t with barrier := ⟨4, 0, 2⟩ } }

/-- Two arrivals complete a generation; both answers are the generation found (R213). -/
theorem test_barrier :
    let o := exec (.barrTeam always 20) (pair (grp [lane 0 [], lane 1 []] []))
    ((next? o).bind fun t => t.teams.head?.map (·.barrier)) = some ⟨5, 0, 2⟩ ∧
      got (andThen o (.loadCompletion 0 [0, 1] false)) 1 20 = some 4 := by decide +kernel
/-- BTST holds once the generation 4 has reached operand b (R214). -/
theorem test_btst :
    let s := pair (grp [lane 0 [(1, 3)]] [])
    gotP (andThen (exec (.btstTeam always 1 (.v 1)) s) (.loadCompletion 0 [0] false)) 0 1 = some true ∧
      gotP (andThen (exec (.btstTeam always 1 (.lit 5)) s) (.loadCompletion 0 [0] false)) 0 1 = some false := by decide +kernel
/-- SWSET arms a sync word with TARGET in bits 63:40 (R215, R216). -/
theorem test_sync_word :
    ((next? (andThen (exec (.swset always 1 (.lit 4096)) (one [(1, 64), (2, 0)])) (.storeCompletion 0 [0]))).bind fun t =>
      t.teams.head?.map fun x => (List.range 8).map fun k => sget 0 x.scratch (64 + k)) = some [0, 0, 0, 0, 0, 0, 16, 0] := by
  decide +kernel
theorem test_swtst_unaligned : gotTrap (exec (.swtst always 1 1 (.v 2)) (one [(1, 60)])) = some (Cause.misaligned, 1) := by
  decide +kernel
/-- CPY moves an element from global memory into the scratchpad (R275). -/
theorem test_copy :
    let s := (one [(8, 0x200000), (10, 128)]).writeBytes 0x200000 [1, 2, 3, 4]
    let o := andThen (exec (.cpyB32 always ⟨false, 10, 8, .sc, .gl⟩) s) (.copyTransfer 0 [0] [])
    ((next? o).bind fun t => t.teams.head?.map fun x => (List.range 4).map fun k => sget 0 x.scratch (128 + k)) =
        some [1, 2, 3, 4] ∧
      ((next? (andThen o (.copyComplete 0))).bind fun t => t.groups.head?.map (·.cnt)) = some Counters.zero := by decide +kernel
/-- A block that is not aligned to 32 bytes (R50), for each word that reads one. -/
theorem test_blocks :
    let s := mach { grp ((List.range 64).map fun k => lane k []) [(16, 8)] with width := 64 }
    [Instr.bcpy always 16, .get always 16, .tld always 16, .tst always 16, .epi always 16, .bfly always 16, .gather always 16,
        .dist always 16, .topk always 16, .mma always false 16].all
      (fun i => gotTrap (exec i s) == some (Cause.misaligned, BitVec.allOnes 64)) = true := by decide +kernel

/-! ## Engines -/

/-- TZERO issues on the TL counter and completes (R245). -/
theorem test_tzero :
    let s := { mach (grp [lane 0 []] []) with teams := (mach (grp [lane 0 []] [])).teams.map fun t => { t with poison := 3 } }
    let o := exec (.tzero always 1) s
    ((next? o).bind fun t => t.groups.head?.map (·.cnt)) = some ⟨0, 0, 0, 1⟩ ∧
      ((next? (andThen o (.matrixCommandComplete 0 true))).bind fun t => t.teams.head?.map (·.poison)) = some 1 := by decide +kernel
/-- The worked example of EPI (R254). -/
theorem test_epi :
    let e : Epi := ⟨0, 128, 0, 64, 1, .rn, 0, 0, 0, 0, 0, some [0x3F000000], some [0x40400000, 0x3F800000],
      some [0xC0A00000, 0x3F800000]⟩
    epiCell { e with act := 1 } 0x40400000 0 = 0 ∧ epiCell e 0x40400000 0 = 0xBF00 ∧
      epiCell { e with mode := .rz } 0x40400000 0 = 0xBF00 ∧ epiCell { e with act := 1 } 0x3EAAAAAB 1 = 0x3F95 ∧
      epiCell { e with mode := .rz } 0x3EAAAAAB 1 = 0x3F95 := by decide +kernel
/-- The worked example of DIST and TOPK (R284, R286). -/
theorem test_topk :
    let q := rowElems 3 4 [1, 2, 0, 0xFF]
    distScore 0 q (rowElems 3 4 [1, 2, 0, 0xFF]) = 0 ∧ distScore 0 q (rowElems 3 4 [0, 2, 0, 0xFF]) = 0x3F800000 ∧
      topkResult 3 2 [(0x3F800000, 104), (0x40000000, 9)]
          [(0, 0x6B), (0x3F800000, 0x66), (0x7FC00000, 0xFFFFFFFF), (0x3F800000, 0x69)] =
        bytesOfNat 8 3 ++ bytesOfNat 8 0x0000006B00000000 ++ bytesOfNat 8 0x000000663F800000 ++
          bytesOfNat 8 0x000000683F800000 := by decide +kernel

/-! ## Helped objects -/

/-- HINIT of an object at 0x200000 runs and completes (R202, R207). -/
theorem test_helped_object :
    let o := exec (.hinit always 20 8 16) (one [(8, 0x200000), (16, 1), (17, 2)])
    ((next? o).bind fun t => t.groups.head?.map (·.cnt)) ≠ some Counters.zero ∧
      ((next? (andThen o (.hobPerform 0 [0]))).bind fun t => t.groups.head?.map (·.cnt)) = some Counters.zero := by decide +kernel
theorem test_helped_misaligned :
    gotTrap (exec (.annAdd always 10 8 12) (one [(8, 0x200008)])) = some (Cause.misaligned, 1) := by decide +kernel

/-! ## System words -/

/-- RDSR of identities and WRSR of the stack limit (R81, R114). -/
theorem test_special :
    let s := mach (grp [lane 0 [], lane 1 [(5, 64)]] [])
    got (exec (.rdsr always 3 0) s) 1 3 = some 1 ∧ got (exec (.rdsr always 3 1) s) 1 3 = some 1 ∧
      got (exec (.rdsr always 3 8) s) 1 3 = some 32 ∧ got (exec (.rdsr always 3 15) s) 0 3 = some 4096 ∧
      got (andThen (exec (.wrsr always 12 (.v 5)) s) .dispatch) 1 5 = some 64 ∧
      ((next? (exec (.wrsr always 12 (.v 5)) s)).bind fun t => (t.groups.head?.bind (·.thread? 1)).map (·.splim)) = some 64 := by
  decide +kernel
/-- TIME reads the die's register (R35). -/
theorem test_time :
    let s0 := mach (grp [lane 0 []] [(8, 5)])
    let s : State := s0.onTime (.vent 0) fun t => { t with value := 2 ^ 32 + 7 }
    gotS (exec (.timeNow always 4) s) 4 = some 7 ∧ gotS (exec (.timeNow always 4) s) 5 = some 1 ∧
      gotP (exec (.timeAfter always 1 8) s) 0 1 = some true ∧ gotP (exec (.timeAfter always 1 8) s0) 0 1 = some false := by decide +kernel
/-- TRAP parks its group with a record of KIND 1 and its service number (R346). -/
theorem test_trap :
    ((next? (exec (.trap always 2 2 (.lit 7)) (one []))).bind fun t => (t.parts.head?.bind (·.posts.head?)).map fun r =>
        (r.kind, r.svc, r.state)) = some (1, 7, 1) ∧
      ((next? (exec (.trap always 2 2 (.lit 7)) (one []))).bind fun t => t.groups.head?.map (·.run)) = some .parked := by decide +kernel
/-- Class 24 outside supervisor state (R332). -/
theorem test_privilege :
    [Instr.resume always 4 6 (.s 62), .kill always 4 6 (.s 7), .srdsr always 8 4 (.s 10), .swrsr always 5 12 (.s 10),
        .sret always 6, .tlbinv always 1 9 10, .keynew always 4 9].all
      (fun i => gotTrap (exec i (one [])) == some (Cause.privilege, 1)) = true := by decide +kernel
/-- The same words in supervisor state (R322, R333 to R337). -/
theorem test_supervisor :
    let s := superMach (superGrp [lane 0 []] [(6, 77), (10, 0), (12, 0x80)])
    gotS (exec (.resume always 4 6 (.s 62)) s) 4 = some 1 ∧ gotS (exec (.kill always 4 6 (.s 62)) s) 4 = some 1 ∧
      gotS (exec (.srdsr always 8 1 (.s 62)) s) 8 = some 1 ∧
      ((next? (exec (.swrsr always 2 12 (.s 62)) s)).bind fun t => t.parts.head?.map (·.svec)) = some 0x80 ∧
      ((next? (exec (.sret always 6) s)).bind fun t => t.groups.head?.map (·.sret)) = some (some 77) ∧
      ((next? (exec (.tlbinv always 0 6 62) s)).bind fun t => t.groups.head?.map (·.cnt.st)) = some 1 ∧
      ((next? (exec (.keynew always 4 6) s)).bind fun t => t.groups.head?.map (·.cnt.ld)) = some 1 := by decide +kernel

/-! ## Steps and events -/

/-- The machine that `placeWord` makes runs its word in the next step (log 5). -/
theorem test_step :
    let s := State.reset.withFetchWord 32 0x1B87FFFE
    ((next? (step s)).bind fun t => (t.groups.head?.bind (·.thread? 0)).map (·.get 7)) = some 0xFFFFFFFE := by decide +kernel
/-- A cold reset whose dies all train makes the device READY (R16 to R19). -/
theorem test_cold_reset :
    let o := exec (.coldReset ⟨true, true, 0xFFFF, 0xFF, 0xFFFF, 0xFF⟩) State.reset
    ((next? o).map fun t => (t.info.state, t.info.bootVents.length, t.info.bootSprings.length, t.inRom)) = some (1, 8, 16, false) := by
  decide +kernel
/-- A tick adds a die's increment (R28). -/
theorem test_tick : ((next? (exec (.timeTick .caldera) State.reset)).map fun t => (t.time .caldera).value) = some 8 := by decide +kernel
/-- An issue turn takes the ready group of its slot (R86). -/
theorem test_issue_turn :
    ((next? (exec (.issueTurn (.vent 0 0 0) 0 false) { one [] with issueQ := [] })).map (·.issueQ)) = some [3] := by decide +kernel
/-- The former makes a group of a full bin (R223, R224). -/
theorem test_formation :
    let b : Bin := ⟨1, false, 64, 0, 0, 0, some 2, (List.range 64).map fun k => ⟨lane k [], true, 1, 3, 0, false⟩, false, none, false⟩
    let s0 := one []
    let s : State := s0.setCore (.vent 0 0 0) fun c => { c with bins := [b] }
    ((next? (exec (.groupFormation (.vent 0 0 0)) s)).map fun t =>
        (t.groups.length, (t.groups.getLast?.map fun g => (g.width, g.live, g.frontier.map fun e => e.addr.toNat - placeBase)))) =
      some (2, some (64, BitVec.allOnes 64, [64])) := by decide +kernel
/-- A host reads its partition's memory, and nothing else (R317, R326). -/
theorem test_host_read :
    let s0 := (one []).writeBytes 0x200000 [9]
    let s : State := { s0 with ports := s0.ports.map fun p => { p with up := true, bound := 0 } }
    ((next? (exec (.hostCxlMemAccess 0 (.read 1 0x200000 1 false)) s)).map (·.hostLog)) = some [(1, some [9])] ∧
      ((next? (exec (.hostCxlMemAccess 0 (.read 1 (2 ^ 40) 1 false)) s)).map (·.hostLog)) = some [(1, none)] := by decide +kernel
/-! ## Witnesses: for each statement, data that meet its hypotheses together -/

def runsB (s : State) (g : Group) (p : Pred) (named reads : List Nat) : Bool :=
  decide (s.issuing? = some g) && decide (g.active p ≠ 0) && named.all (fun r => decide (r < g.cap)) &&
    !g.badRead (g.active p) reads

theorem runs_of {s : State} {g : Group} {p : Pred} {named reads : List Nat} (h : runsB s g p named reads = true) :
    Runs s g p named reads := by
  simp only [runsB, Bool.and_eq_true, decide_eq_true_eq, List.all_eq_true, Bool.not_eq_true'] at h
  exact ⟨h.1.1.1, h.1.1.2, h.1.2, h.2⟩

/-- The clause and the entry in which the groups of these tests stand. -/
def itsClause : Clause := ⟨BitVec.ofNat 64 placeBase, 15, BitVec.ofNat 64 placeBase + 4, true, List.replicate 15 0⟩

def itsEntry (g : Group) : Entry := (g.entry?).getD ⟨0, 0, 0, 0⟩

theorem steers_of {s : State} {g : Group} {p : Pred} {named reads : List Nat}
    (h : (runsB s g p named reads && decide (g.clause = some itsClause) && decide (g.entry? = some (itsEntry g))) = true) :
    Steers s g p named reads itsClause (itsEntry g) := by
  simp only [Bool.and_eq_true, decide_eq_true_eq] at h
  exact ⟨runs_of h.1.1, h.1.2, h.2⟩

/-- The frontier that a rebuild gives. -/
def frontier? (r : Rebuilt) : Option (List Entry) := match r with | .ok f => some f | _ => none

theorem rebuilt_of {r : Rebuilt} (h : (frontier? r).isSome = true) : ∃ f, r = .ok f := by
  cases r <;> simp_all [frontier?]

/-- The places that a translation gives. -/
def places? (r : AllXl) : Option (List (Nat × List (Loc × Nat × Nat))) := match r with | .ok l => some l | _ => none

theorem places_of {r : AllXl} (h : (places? r).isSome = true) : ∃ l, r = .ok l := by
  cases r <;> simp_all [places?]

theorem lanes_of {g : Group} {p : Pred} {P : Thread → Prop} [DecidablePred P]
    (h : ((List.range 64).all fun k => ((g.thread? k).map fun th => decide (P th)).getD true) = true) : EachLane g p P := by
  intro k th hk ht
  have hk : k < 64 := by
    by_contra hn
    rw [BitVec.getLsbD_of_ge _ _ (by omega)] at hk
    exact absurd hk (by decide)
  have := List.all_eq_true.mp h k (List.mem_range.mpr hk)
  simpa [ht] using this

theorem noAcquire_of {s : State} {g : Group} (h : s.ops = []) : NoAcquirePending s g := by
  intro o ho
  simp [h] at ho

theorem noStore_of {s : State} {g : Group} (h : s.ops = []) : NoStorePending s g := by
  intro o ho
  simp [h] at ho

/-- A group of two lanes on a Vent core and its machine. v8 and v9 name an address of global memory; s4 is 1. -/
def vg : Group := grp [lane 0 [(8, 0x200000), (10, 128)], lane 1 [(8, 0x200400), (10, 256)]] [(4, 1), (6, 128)]

def vs : State := mach vg

/-- A group in supervisor state on service core 0 and its machine. -/
def sg : Group := superGrp [lane 0 [(8, 0x200000)]] [(6, 64)]

def ss : State := superMach sg

theorem witness_IntegerResults :
    Runs vs vg always ([63, 62] ++ opBRegs 1 (.v 61)) (62 :: opBRegs 1 (.v 61)) ∧
      Runs vs vg always (regsFrom 62 2 ++ regsFrom 60 2 ++ opBRegs 2 (.v 58)) (regsFrom 60 2 ++ opBRegs 2 (.v 58)) :=
  ⟨runs_of (by decide +kernel), runs_of (by decide +kernel)⟩
theorem witness_BitFieldResults : Runs vs vg always ([63, 62] ++ opBRegs 1 (.lit 0xFF1F)) ([63, 62] ++ opBRegs 1 (.lit 0xFF1F)) :=
  runs_of (by decide +kernel)
theorem witness_LogicCompareSelectResults :
    Runs vs vg always ([63, 62] ++ opBRegs 1 (.s 62)) (62 :: opBRegs 1 (.s 62)) ∧
      Runs vs vg always (regsFrom 62 2 ++ opBRegs 2 (.v 60)) (regsFrom 62 2 ++ opBRegs 2 (.v 60)) ∧ Runs vs vg always [] [] :=
  ⟨runs_of (by decide +kernel), runs_of (by decide +kernel), runs_of (by decide +kernel)⟩
/-- Nothing that E4M3 has lies between 1.25 and 1.375. -/
theorem neighbours_e4m3 : ∀ y, Representable e4m3 y → ¬ ((5 : ℚ) / 4 < y ∧ y < 11 / 8) := by
  have h : ∀ c : Fin 256, ¬ ((5 : ℚ) / 4 < exVal (decodeFmt e4m3 c) ∧ exVal (decodeFmt e4m3 c) < 11 / 8) := by decide +kernel
  rintro y ⟨c, hc, neg, m, e, hd, rfl⟩
  exact hd ▸ h ⟨c, hc⟩
/-- The largest finite values of E4M3 and of E5M2, and one more; the neighbours of the worked example of R71, and a value that is
one. -/
theorem witness_RoundingChoosesTheNeighbour :
    (|exVal (.fin true 448 0)| ≤ largest e4m3 ∧ |exVal (.fin false 57344 0)| ≤ largest e5m2) ∧
      (largest e4m3 < |exVal (.fin false 449 0)| ∧ e4m3.infs = false) ∧
      (largest e5m2 < |exVal (.fin true 57345 0)| ∧ e5m2.infs = true) ∧
      Representable e4m3 (5 / 4) ∧ Representable e4m3 (11 / 8) ∧
      (5 / 4 < |exVal (exF32 0x3FA66666)| ∧ |exVal (exF32 0x3FA66666)| < 11 / 8) ∧
      ∀ y, Representable e4m3 y → ¬ ((5 : ℚ) / 4 < y ∧ y < 11 / 8) :=
  ⟨by decide +kernel, by decide +kernel, by decide +kernel,
    ⟨0x3A, by decide, false, 10, -3, by decide +kernel, by decide +kernel⟩,
    ⟨0x3B, by decide, false, 11, -3, by decide +kernel, by decide +kernel⟩, by decide +kernel, neighbours_e4m3⟩
theorem witness_FloatArithmeticResults :
    Runs vs vg always ([63, 62] ++ opBRegs 1 (.v 61)) ([63, 62] ++ opBRegs 1 (.v 61)) ∧ exF32 0x7F800001 = .nan ∧
      exF32 0x7F800000 = .inf false ∧ exF32 0x80000000 = .fin true 0 (-149) := 
  ⟨runs_of (by decide +kernel), by decide +kernel⟩
theorem witness_FloatCompareResult :
    Runs vs vg always (62 :: opBRegs 1 (.v 61)) (62 :: opBRegs 1 (.v 61)) ∧ exF32 0xFFC00000 = .nan ∧
      exF32 0xFF800000 = .inf true ∧ exF32 0x00800000 = .fin false 0x800000 (-149) :=
  ⟨runs_of (by decide +kernel), by decide +kernel⟩
/-- The largest value whose reciprocal overflows, and the next; the values where FEXP2 meets zero and infinity. -/
theorem witness_UnaryFunctionRanges :
    (exF32 0x80200000 = .fin true 0x200000 (-149) ∧ |exVal (.fin true 0x200000 (-149))| ≤ 1 / 2 ^ 128) ∧
      (exF32 0x00200001 = .fin false 0x200001 (-149) ∧ 1 / 2 ^ 128 < |exVal (.fin false 0x200001 (-149))|) ∧
      (exF32 0xC3160000 = .fin true 0x960000 (-16) ∧ exVal (.fin true 0x960000 (-16)) ≤ -150) ∧
      (exF32 0x43000000 = .fin false 0x800000 (-16) ∧ 128 ≤ exVal (.fin false 0x800000 (-16))) ∧
      exF32 0xC315FFFF = .fin true 0x95FFFF (-16) ∧ -150 < exVal (.fin true 0x95FFFF (-16)) ∧
      exVal (.fin true 0x95FFFF (-16)) < 128 := by decide +kernel
/-- Values at the ends of the exact range of FEXP2, and a power of 2 for FLOG2. -/
theorem witness_UnaryFunctionResults :
    Runs vs vg always [63, 62] [62] ∧ exF32 0x80000001 = .fin true 1 (-149) ∧
      (exF32 0x42FE0000 = .fin false 0xFE0000 (-17) ∧ exVal (.fin false 0xFE0000 (-17)) = (127 : Int)) ∧
      (exF32 0xC3150000 = .fin true 0x950000 (-16) ∧ exVal (.fin true 0x950000 (-16)) = (-149 : Int)) ∧
      exF32 0x00000001 = .fin false 1 (-149) ∧ exVal (.fin false 1 (-149)) = 2 ^ (-149 : Int) ∧
      ∃ y, Representable f32 y :=
  ⟨runs_of (by decide +kernel), by decide +kernel, by decide +kernel, by decide +kernel, by decide +kernel, by decide +kernel,
    _, 1, by decide, false, 1, -149, by decide +kernel, rfl⟩
theorem witness_PackedAndConversionResults :
    Runs vs vg always ([63, 62] ++ opBRegs 1 (.v 61)) ([63, 62] ++ opBRegs 1 (.v 61)) ∧
      Runs vs vg always (63 :: regsFrom 60 4) (regsFrom 60 4) := ⟨runs_of (by decide +kernel), runs_of (by decide +kernel)⟩
/-- A converged group, a lane of it, and a lane that a lane index does not reach. -/
theorem witness_PredicateAndLaneResults :
    Runs vs vg always ([63, 62] ++ opBRegs 1 (.v 61)) (62 :: opBRegs 1 (.v 61)) ∧ Runs vs vg always [63] [63] ∧
      vg.converged = true ∧ (vg.active always).getLsbD 1 = true ∧ (vg.thread? 1).isSome = true ∧
      (vg.active always).getLsbD 2 = false ∧ vg.width = 32 :=
  ⟨runs_of (by decide +kernel), runs_of (by decide +kernel), by decide +kernel⟩

/-! ### Control words -/

theorem frontierOk_single (e : Entry) : FrontierOk [e] e.mask :=
  ⟨List.pairwise_singleton _ _, List.pairwise_singleton _ _, List.pairwise_singleton _ _, by simp⟩

theorem witness_RebuiltFrontierIsWellFormed :
    ∃ f, FrontierOk vg.frontier 3 ∧ itsEntry vg ∈ vg.frontier ∧
      vs.rebuild vg (itsEntry vg) none (toward 1 (BitVec.ofNat 64 placeBase + 128) (nextOf itsClause)) = .ok f := by
  obtain ⟨f, hf⟩ := rebuilt_of (r := vs.rebuild vg (itsEntry vg) none
    (toward 1 (BitVec.ofNat 64 placeBase + 128) (nextOf itsClause))) (by decide +kernel)
  exact ⟨f, frontierOk_single (itsEntry vg), by decide +kernel, hf⟩
theorem witness_BranchAndTailResults :
    Steers vs vg always [] [] itsClause (itsEntry vg) ∧ (vg.sGet 6).toNat % 4 = 0 ∧ vg.sret = none ∧
      ∃ f, vs.popIssue.rebuild vg (itsEntry vg) none (leaving (vg.active always) (nextOf itsClause)) = .ok f :=
  ⟨steers_of (by decide +kernel), by decide +kernel, by decide +kernel, rebuilt_of (by decide +kernel)⟩

/-- A group of one lane with this call depth and link. -/
def deepGrp (n : Nat) (link : W32) : Group := grp [{ lane 0 [(1, link)] with depth := n }] [(6, 128), (7, 2)]

/-- Depths 65,534 and 1, which go on, and 65,535 and 0 and an odd link, which trap. -/
theorem witness_CallResults :
    let g := deepGrp 65534 0
    let h := deepGrp 65535 0
    let r := deepGrp 1 192
    let u := deepGrp 0 192
    let o := deepGrp 1 2
    (Steers (mach g) g always [] [] itsClause (itsEntry g) ∧ EachLane g always fun th => th.depth ≠ 65535) ∧
      Steers (mach h) h always [] [] itsClause (itsEntry h) ∧ (h.sGet 7).toNat % 4 ≠ 0 ∧
      (Steers (mach r) r always [1] [1] itsClause (itsEntry r) ∧
        EachLane r always fun th => th.depth ≠ 0 ∧ (th.get 1).toNat % 4 = 0) ∧
      Steers (mach u) u always [1] [1] itsClause (itsEntry u) ∧ Steers (mach o) o always [1] [1] itsClause (itsEntry o) :=
  ⟨⟨steers_of (by decide +kernel), lanes_of (by decide +kernel)⟩, steers_of (by decide +kernel), by decide +kernel,
    ⟨steers_of (by decide +kernel), lanes_of (by decide +kernel)⟩, steers_of (by decide +kernel), steers_of (by decide +kernel)⟩
/-- A group whose s4 is 1, with just room for its records, and one slot too few; s5 is 2, the least reserved descriptor. -/
theorem witness_RegroupResults :
    let g := grp [lane 0 [(5, 7)], lane 1 [(5, 9)]] [(4, 1), (5, 2)]
    let filled (n : Nat) : State := (mach g).setCore g.core fun x => { x with bins := [⟨1, false, 0, 0, 0, 0, none, [⟨lane 5 [], true, 1, n, 0, false⟩], false, none, false⟩] }
    let s := filled 4088
    Steers s g always [5, 9] (5 :: List.range 10) itsClause (itsEntry g) ∧ g.sret = none ∧ (opSWord g (.s 4)).toNat = 1 ∧
      (opSWord g (.s 5)).toNat = 2 ∧ g.cnt = ⟨0, 0, 0, 0⟩ ∧ (∃ h, s.popIssue.fetchWord (s.whoOf g) (nextOf itsClause) = .word h) ∧
      BinsDistinct (s.core g.core).bins ∧ (s.core g.core).usedSlots + 2 * (2 + (10 + 7) / 8) ≤ 4096 ∧
      4096 < ((filled 4089).core g.core).usedSlots + 2 * (2 + (10 + 7) / 8) ∧
      ∃ f, s.popIssue.rebuild g (itsEntry g) none (leaving (g.active always) (nextOf itsClause)) = .ok f :=
  ⟨steers_of (by decide +kernel), by decide +kernel, by decide +kernel, by decide +kernel, by decide +kernel,
    ⟨_, rfl⟩, List.pairwise_singleton _ _, by decide +kernel, by decide +kernel, rebuilt_of (by decide +kernel)⟩
/-- The next header lies in no page; a host whose link is down holds its line; its line is marked lost. -/
theorem witness_RegroupHeaderReads :
    let far : Clause := { itsClause with hdr := 2 ^ 57 - 64 }
    let g := grp [lane 0 [(5, 7)]] []
    let f : Group := { g with clause := some far, frontier := [⟨0, 2 ^ 57 - 64, 1, 0⟩] }
    let away : State := { mach g with ports := [{ Port.reset 0 with failedAt := some 0, held := [(placeBase / 1024, true)] }] }
    let lost := (mach g).markLost (placeBase / 1024) 0x11
    (runsB (mach f) f always [5] [5] = true ∧ f.clause = some far ∧
      (mach f).popIssue.fetchWord ((mach f).whoOf f) (nextOf far) = .fault Cause.translation) ∧
      away.popIssue.fetchWord (away.whoOf g) (nextOf itsClause) = .wait [] ∧
      lost.popIssue.fetchWord (lost.whoOf g) (nextOf itsClause) = .lost 0x11 ∧ (opSWord g (.lit 0)).toNat < 2 ∧
      g.cnt = ⟨0, 0, 0, 0⟩ ∧ ((lost.team? 2).map fun T => (isService T.core, (lost.grid? T.grid).map (·.cause))) =
        some (false, some none) := by decide +kernel

/-- The machine of `g` whose team holds the block `bs` at offset 0 of its scratchpad. -/
def withBlockAt0 (g : Group) (bs : List Byte) : State :=
  (mach g).onTeam 2 fun t => { t with
    scratch := ((List.range bs.length).map fun i => (i, bs.getD i 0)).filter fun c => c.2 != 0 }

theorem block_of {r : Except Nat (List Byte)} (h : r.toOption.isSome = true) : ∃ l, r = .ok l := by
  cases r <;> simp_all [Except.toOption]

/-- A child that waits in a ring. -/
def child : Child := ⟨9, 0x200000, 0, 1, 2, 0, 0, 0, 0, none, false, false⟩

/-- The code offset 64 TiB above CB, which no page of the context holds, and the machine of `g` in which a host whose link is
down holds the line of the code. -/
def farOff (g : Group) (s : State) : W64 := s.cbOf g + 0x400000000000

def lineAway (g : Group) : State :=
  { mach g with ports := [{ Port.reset 0 with failedAt := some 0, held := [(placeBase / 1024, true)] }] }

/-- A group with an entry of two lanes and seven entries more. -/
def wide : Group :=
  { grp ((List.range 9).map fun k => { lane k [] with p := if k = 0 then 2 else 0 }) [(6, 128)] with
    frontier := ⟨0, BitVec.ofNat 64 placeBase, 3, 0⟩ :: (List.range 7).map fun k =>
      ⟨0, BitVec.ofNat 64 (placeBase + 256 + 64 * k), 1 <<< (2 + k : Nat), 0⟩ }

def isFault (r : Rebuilt) : Bool := match r with | .fault _ _ _ => true | _ => false

theorem fault_of {r : Rebuilt} (h : isFault r = true) : ∃ c a m, r = .fault c a m := by
  cases r <;> simp_all [isFault]

/-- The dies whose links a rebuild waits for. -/
def waitsFor (r : Rebuilt) : Option (List DieId) := match r with | .wait ds => some ds | _ => none

theorem wait_of {r : Rebuilt} (h : (waitsFor r).isSome = true) : ∃ ds, r = .wait ds := by
  cases r <;> simp_all [waitsFor]

/-- A word with no active position; a target with no page; a ninth entry; a line of code that a host holds whose link is down. -/
theorem witness_ControlWordsMeetTheFrontier :
    let split : Pred := ⟨1, false⟩
    let all := fun (_ : Nat) => some (nextOf itsClause)
    let branch (g : Group) (t : W64) := toward (g.active split) t (nextOf itsClause)
    (vs.issuing? = some vg ∧ vg.clause = some itsClause ∧ vg.entry? = some (itsEntry vg) ∧ vg.active ⟨0, false⟩ = 0 ∧
      (∃ f, vs.popIssue.rebuild vg (itsEntry vg) none all = .ok f)) ∧
      (Steers (mach wide) wide split [] [] itsClause (itsEntry wide) ∧
        (∃ c a m, (mach wide).popIssue.rebuild wide (itsEntry wide) none (branch wide (farOff wide (mach wide))) = .fault c a m) ∧
        (mach wide).popIssue.rebuild wide (itsEntry wide) none (branch wide (BitVec.ofNat 64 placeBase + 128)) = .full) ∧
      Steers (lineAway vg) vg always [] [] itsClause (itsEntry vg) ∧
      ∃ ds, (lineAway vg).popIssue.rebuild vg (itsEntry vg) none all = .wait ds :=
  ⟨⟨by decide +kernel, rfl, by decide +kernel, by decide +kernel, rebuilt_of (by decide +kernel)⟩,
    ⟨steers_of (by decide +kernel), fault_of (by decide +kernel), by decide +kernel⟩, steers_of (by decide +kernel),
    wait_of (by decide +kernel)⟩

/-- Room in the child ring and none; depths 9 and 10; blocks that fail one check each, that are misaligned, that leave the
scratchpad, and that hold an uncorrectable word. -/
theorem witness_SpawnResults :
    let g := grp [lane 0 []] []
    let d (n : Nat) : State := (mach g).onGrid 1 fun x => { x with depth := n }
    let ok (bs : List Byte) : Prop := ∃ l, (withBlockAt0 g bs).popIssue.readParts g (g.active always) 10 32 (wholeOf 32) = .ok l
    let worn := (mach g).onTeam 2 fun t => { t with badSc := [4] }
    let off := grp [lane 0 []] [(10, 8), (11, 0x200000)]
    Steers (mach g) g always [] [] itsClause (itsEntry g) ∧ ((lanesOf (g.active always)).filterMap g.thread?).length = 1 ∧
      ((lanesOf (vg.active always)).filterMap vg.thread?).length ≠ 1 ∧ ok [] ∧ ok [32] ∧ ok (List.replicate 16 0 ++ [1]) ∧
      (d 9).depthOf g = 9 ∧ (d 10).depthOf g = 10 ∧ (mach g).childRoom g.core = true ∧
      ({ mach g with scheds := [⟨0, 0, false, none, List.replicate Config.childRingSize child⟩] } : State).childRoom g.core = false ∧
      ((mach g).grid? g.grid).isSome = true ∧ g.sret = none ∧ NoAcquirePending (mach g) g ∧ (off.sGet 10).toNat % 32 ≠ 0 ∧
      ((off.sGet 11).toNat % 32 = 0 ∧ (mach off).scratchSize (off.commandTeam (off.active always)) < (off.sGet 11).toNat + 32) ∧
      worn.popIssue.readParts g (g.active always) 10 32 (wholeOf 32) =
        .error Cause.uncorrectable ∧
      ∃ f, (mach g).popIssue.rebuild g (itsEntry g) none (fun _ => some (nextOf itsClause)) = .ok f :=
  ⟨steers_of (by decide +kernel), by decide +kernel, by decide +kernel, block_of (by decide +kernel),
    block_of (by decide +kernel), block_of (by decide +kernel), by decide +kernel,
    by decide +kernel, (decide_eq_true (Nat.succ_pos _) : decide (0 < Config.childRingExtra + 1) = true), by simp [State.childRoom, State.childVent, grp, Group.formed], by decide +kernel, by decide +kernel,
    noAcquire_of rfl, by decide +kernel, by decide +kernel, by decide +kernel, rebuilt_of (by decide +kernel)⟩
/-- A service core of a partition that has a cluster of Vent 0 spawns there; one of a partition with none finds no room. -/
theorem witness_ServiceSpawn :
    ss.childVent sg.core = some 0 ∧ ss.childVent (.service 5) = none ∧ ss.childRoom (.service 5) = false ∧
      ss.depthOf sg ≠ 10 ∧ sg.sret = none := by decide +kernel

/-! ### Memory words -/

/-- Two lanes with 62 loads and stores outstanding; v8 names an address of global memory, v10 the last 16 bytes of the
register space, v0 an address at the stack limit. -/
def mg : Group :=
  { grp ((List.range 2).map fun i => { lane i [(0, 64), (8, BitVec.ofNat 32 (0x200000 + 1024 * i)), (10, 240)] with splim := 64 }) [] with
    cnt := ⟨62, 62, 62, 62⟩ }

def ms : State := mach mg

/-- A lane whose v14 and v15 name the address 2^57. -/
def deepest : Group := grp [lane 0 [(8, 0), (9, 0x2000000), (10, 64), (14, 0), (15, 0x2000000)]] []

theorem witness_LoadsAndStoresIssue :
    Runs ms mg always (regsFrom 60 4 ++ memRegs ⟨8, .gl, .scaled 7⟩) (regsFrom 60 4 ++ memRegs ⟨8, .gl, .scaled 7⟩) ∧
      mg.cnt.ld < 63 ∧ mg.cnt.st < 63 ∧ NoAcquirePending ms mg ∧
      (EachLane mg always fun th => memAddr ⟨8, .gl, .scaled 7⟩ 16 th % 16 = 0) ∧
      (EachLane mg always fun th => (ms.piecesOf th .gl (memAddr ⟨8, .gl, .scaled 7⟩ 16 th) 16).isSome = true) ∧
      (∃ ps, Translated ms mg always .read (memPieces ms ⟨8, .gl, .scaled 7⟩ 16) ps) ∧
      (∃ ps, Translated ms mg always .write (memPieces ms ⟨8, .gl, .scaled 7⟩ 16) ps) ∧
      (EachLane mg always fun th => memAddr ⟨0, .pv, .scaled 0⟩ 4 th % 4 = 0 ∧ th.splim.toNat ≤ memAddr ⟨0, .pv, .scaled 0⟩ 4 th) ∧
      (EachLane mg always fun th => memAddr ⟨10, .rs, .scaled 0⟩ 16 th + 16 ≤ 4 * mg.cap) ∧
      EachLane mg always fun th => ∀ k, k < 4 → memAddr ⟨10, .rs, .scaled 0⟩ 16 th / 4 + k ∉ th.bad :=
  ⟨runs_of (by decide +kernel), by decide, by decide, noAcquire_of rfl, lanes_of (by decide +kernel), lanes_of (by decide +kernel),
    places_of (by decide +kernel), places_of (by decide +kernel), lanes_of (by decide +kernel), lanes_of (by decide +kernel),
    lanes_of (by decide +kernel)⟩
/-- Lane 0 is one word below its stack limit. -/
theorem witness_StackLimitTrap :
    let m : MemOp := ⟨0, .pv, .lit 0xFFFFFFFC⟩
    Runs ms mg always (regsFrom 60 1 ++ memRegs m) (regsFrom 60 1 ++ memRegs m) ∧ mg.cnt.st < 63 ∧ NoAcquirePending ms mg ∧
      m.space = .pv ∧ m.base = 0 ∧ lanesFailing mg always (fun th => decide (th.splim.toNat ≤ memAddr m 4 th)) ≠ 0 :=
  ⟨runs_of (by decide +kernel), by decide, noAcquire_of rfl, rfl, rfl, by decide +kernel⟩
/-- An odd address, one past the scratchpad's end, and one above the address space. -/
theorem witness_AccessChecksTrapInOrder :
    let g := grp [lane 0 [(8, 0x200000), (12, 0x7FFFE), (13, 0x80000), (14, 0), (15, 0x2000000)]] []
    let s := mach g
    Runs s g always (regsFrom 60 1 ++ regsFrom 14 2) (regsFrom 60 1 ++ regsFrom 14 2) ∧ g.cnt.ld < 63 ∧ g.cnt.st < 63 ∧
      NoAcquirePending s g ∧ lanesFailing g always (fun th => memAddr ⟨12, .sc, .scaled 0⟩ 4 th % 4 == 0) ≠ 0 ∧
      lanesFailing g always (fun th => memAddr ⟨13, .sc, .scaled 0⟩ 4 th % 4 == 0) = 0 ∧
      lanesFailing g always (fun th => (s.piecesOf th .sc (memAddr ⟨13, .sc, .scaled 0⟩ 4 th) 4).isSome) ≠ 0 ∧
      lanesFailing g always (fun th => (s.piecesOf th .gl (memAddr ⟨14, .gl, .scaled 0⟩ 4 th) 4).isSome) = 0 ∧
      s.popIssue.xlateAll (s.whoOf g) .read
          ((lanesOf (g.active always)).filterMap fun k => (g.thread? k).map fun th => (k, memPieces s ⟨14, .gl, .scaled 0⟩ 4 th)) =
        .fault 1 Cause.translation (2 ^ 57) :=
  ⟨runs_of (by decide +kernel), by decide, by decide, noAcquire_of rfl, by decide +kernel, by decide +kernel, by decide +kernel,
    by decide +kernel, by decide +kernel⟩

/-- A store of the group `mg` that is outstanding, and one that is an acquire. -/
def pendingStore : Op := ⟨0, 3, .vent 0 0 0, 2, .lsu, .st, .store, [], 3, 0, 0⟩

def pendingAcquire : Op := { pendingStore with ctr := .ld, kind := .atom .ld 4 6 .acq .device }

theorem not_noStore : ¬ NoStorePending { ms with ops := [pendingStore] } mg := fun h =>
  absurd (h pendingStore (by decide) (by decide +kernel)) (by decide)

theorem not_noAccess : ¬ NoAccessPending { ms with ops := [pendingStore] } mg := fun h =>
  absurd (h pendingStore (by decide) (by decide +kernel) rfl) (by decide)

theorem noAccess_of {s : State} {g : Group} (h : s.ops = []) : NoAccessPending s g := by
  intro o ho
  simp [h] at ho

theorem not_noAcquire : ¬ NoAcquirePending { ms with ops := [pendingAcquire] } mg := fun h =>
  absurd (h pendingAcquire (by decide) (by decide +kernel)) (by decide)

/-- Atomics at an odd address, past the scratchpad's end, and above the address space. -/
theorem witness_AtomicTraps :
    let g := grp [lane 0 [(8, 0x200000), (12, 0x7FFFE), (13, 0x80000), (14, 0), (15, 0x2000000)]] []
    let s := mach g
    Runs s g always (regsFrom 60 4 ++ regsFrom 14 2) (regsFrom 60 4 ++ regsFrom 14 2) ∧
      lanesFailing g always (fun th => atomAddr true 12 th % 4 == 0) ≠ 0 ∧
      lanesFailing g always (fun th => atomAddr true 13 th % 4 == 0) = 0 ∧
      lanesFailing g always (fun th => !true || (s.scPlace th (atomAddr true 13 th) 4).isSome) ≠ 0 ∧
      lanesFailing g always (fun th => atomAddr false 14 th % 8 == 0) = 0 ∧
      lanesFailing g always (fun th => !false || (s.scPlace th (atomAddr false 14 th) 8).isSome) = 0 ∧
      Untranslated s g always .atomic (atomPieces s false 14 8) 1 Cause.translation (2 ^ 57) ∧
      Untranslated s g always .atomic (fun th => [.va (th.get64 14).toNat 1024 0]) 1 Cause.translation (2 ^ 57) :=
  ⟨runs_of (by decide +kernel), by decide +kernel, by decide +kernel, by decide +kernel, by decide +kernel, by decide +kernel,
    by unfold Untranslated; decide +kernel, by unfold Untranslated; decide +kernel⟩
/-- A release that is held and one that goes on; helped objects at a multiple of 1,024 and not. -/
theorem witness_AtomicWordsIssue :
    let x : AtomArgs := ⟨false, 60, 8, .rel, .device, true⟩
    Runs ms mg always (regsFrom 60 4 ++ regsFrom 8 2) (regsFrom 60 4 ++ regsFrom 8 2) ∧ mg.cnt.ld < 63 ∧ mg.cnt.st < 63 ∧
      NoAcquirePending ms mg ∧ ReleaseReady ms mg x.scope ∧ ¬ ReleaseReady { ms with ops := [pendingStore] } mg x.scope ∧
      (EachLane mg always fun th => atomAddr false 8 th % 8 = 0) ∧
      (∃ ps, Translated ms mg always .atomic (atomPieces ms false 8 8) ps) ∧
      Runs ms mg always (regsFrom 8 2 ++ 63 :: regsFrom 48 12) (regsFrom 8 2 ++ regsFrom 48 12) ∧
      lanesFailing mg always (fun th => (th.get64 8).toNat % 1024 == 0) = 0 ∧
      lanesFailing mg always (fun th => (th.get64 10).toNat % 1024 == 0) ≠ 0 ∧
      (∃ ps, Translated ms mg always .atomic (fun th => [.va (th.get64 8).toNat 1024 0]) ps) ∧ NoStorePending ms mg :=
  ⟨runs_of (by decide +kernel), by decide, by decide, noAcquire_of rfl, .inr (noStore_of rfl),
    fun h => h.elim (by decide) not_noStore, lanes_of (by decide +kernel), places_of (by decide +kernel), runs_of (by decide +kernel),
    by decide +kernel, by decide +kernel, places_of (by decide +kernel), noStore_of rfl⟩
theorem witness_FenceAndLineResults :
    Runs ms mg always [] [] ∧ Runs ms mg always (regsFrom 8 2) (regsFrom 8 2) ∧ NoAcquirePending ms mg ∧ mg.cnt.st < 63 ∧
      ReleaseReady ms mg .system ∧ ¬ ReleaseReady { ms with ops := [pendingStore] } mg .cluster ∧
      (∃ ps, Translated ms mg always .read (fun th => [.va (th.get64 8).toNat 1 0]) ps) ∧
      (∃ ps, Translated ms mg always .write (fun th => [.va (th.get64 8).toNat 1024 0]) ps) ∧
      lanesFailing mg always (fun th => (th.get64 8).toNat % 1024 == 0) = 0 ∧
      lanesFailing mg always (fun th => (th.get64 10).toNat % 1024 == 0) ≠ 0 :=
  ⟨runs_of (by decide +kernel), runs_of (by decide +kernel), noAcquire_of rfl, by decide, .inr (noStore_of rfl),
    fun h => h.elim (by decide) not_noStore, places_of (by decide +kernel), places_of (by decide +kernel), by decide +kernel,
    by decide +kernel⟩
/-- The die of a core, asleep behind its link. -/
def asleep (s : State) (d : DieId) : State := { s with links := [⟨d, .sleep, 0, 0, []⟩] }

/-- Fills that go on, that wait for a sleeping link, and none, of an address that is above the address space. -/
theorem witness_CprefFills :
    let z : State := asleep ms (.vent (ms.homeVent 2048))
    let keys (s : State) := (readableKeys s.popIssue mg (mg.active always) 8).filter fun key => !inWindow key
    isService mg.core = false ∧ keys ms = [0x200000, 0x200400] ∧ cprefBar ms.popIssue mg (mg.active always) 8 (keys ms) = none ∧
      (cprefBar z.popIssue mg (mg.active always) 8 (keys z)).isSome = true ∧ readableKeys (mach deepest).popIssue deepest (deepest.active always) 14 = [] := by decide +kernel
/-- The grid barrier of a core whose link to Caldera sleeps. -/
theorem witness_GridBarrierLinks :
    (∃ k ∈ barrDies .grid mg.core, (asleep ms (.vent 0)).linkFlows k = false) ∧
      (∀ k ∈ barrDies .grid mg.core, ms.linkFlows k = true) ∧ barrDies .team mg.core = [] := by decide +kernel
/-- Levels that a grid has and that a service core's group lacks; 62 loads go on and 63 are held. -/
theorem witness_BarrierAndSyncWords :
    let g : Group := { mg with cnt := ⟨63, 63, 0, 0⟩ }
    Runs ms mg always [63] [] ∧ ms.levelOk mg .grid = true ∧ ss.levelOk sg .cluster = false ∧ Runs ss sg always [63] [] ∧
      mg.cnt.ld < 63 ∧ NoAccessPending ms mg ∧ ¬ NoAccessPending { ms with ops := [pendingStore] } mg ∧
      (EachLane mg always fun th => th.team = 2) ∧ (ms.barrier? 2 .grid).isSome = true ∧
      Runs ms mg always (10 :: opBRegs 1 (.v 11)) (10 :: opBRegs 1 (.v 11)) ∧ NoAcquirePending ms mg ∧
      lanesFailing mg always (fun th => (th.get 10).toNat % 8 == 0) = 0 ∧
      lanesFailing mg always (fun th => (ms.scPlace th (th.get 10).toNat 8).isSome) = 0 ∧
      lanesFailing mg always (fun th => (ms.scPlace th (th.get 8).toNat 8).isSome) ≠ 0 ∧
      (Runs (mach g) g always (regsFrom 60 4 ++ regsFrom 8 2) (regsFrom 60 4 ++ regsFrom 8 2) ∧ 63 ≤ g.cnt.ld ∧ 63 ≤ g.cnt.st) ∧
      ¬ NoAcquirePending { ms with ops := [pendingAcquire] } mg :=
  ⟨runs_of (by decide +kernel), by decide +kernel, by decide +kernel, runs_of (by decide +kernel), by decide,
    noAccess_of rfl, not_noAccess, lanes_of (by decide +kernel), by decide +kernel,
    runs_of (by decide +kernel), noAcquire_of rfl, by decide +kernel, by decide +kernel, by decide +kernel,
    ⟨runs_of (by decide +kernel), by decide, by decide⟩, not_noAcquire⟩
/-- A WAIT whose field equals its counter goes on; one below it does not; and a word of its class. -/
theorem witness_WaitResult :
    let g : Group := { mg with cnt := ⟨3, 0, 0, 9⟩ }
    let met := fun (f : BitVec 3) (n : Nat) => f = 7 ∨ n ≤ f.toNat
    Runs (mach g) g always [] [] ∧ (met 3 g.cnt.ld ∧ met 0 g.cnt.st ∧ met 0 g.cnt.cp ∧ met 7 g.cnt.tl) ∧
      ¬ (met 2 g.cnt.ld ∧ met 7 g.cnt.st ∧ met 7 g.cnt.cp ∧ met 7 g.cnt.tl) ∧ (fieldsOf 0x8BA801FF).cls = 17 ∧
      (fieldsOf 0x8BA801FF).minor = 10 ∧ (fieldsOf 0x8BA801FF).prefixOf.wf = true ∧ (fieldsOf 0x8BA801FF).u = false ∧
      (fieldsOf 0x8BA801FF).d = 0 ∧ (fieldsOf 0x8FA801FF).u = true ∧ (fieldsOf 0x8BA811FF).d = 1 :=
  ⟨runs_of (by decide +kernel), by decide +kernel⟩

/-! ### Engine words -/

/-- The bytes that a command of a group of one lane reads from a block at offset 0. -/
def blockRead (g : Group) (bs : List Byte) (n : Nat) : Option (List Byte) :=
  ((withBlockAt0 g bs).popIssue.readBlock g (g.active always) 10 n).toOption

/-- A CPY between the scratchpad and global memory with a sync word, a BCPY within the scratchpad, and blocks of GATHER, DIST
and TOPK, each with every field as its checks want it; 62 commands go on and 63 are held. -/
theorem witness_CopyCommandsIssue :
    let x : CpyArgs := ⟨true, 10, 8, .sc, .gl⟩
    let g : Group := { mg with cnt := ⟨0, 0, 63, 0⟩ }
    let bulk := List.replicate 24 0 ++ [1, 0, 0, 0, 1, 0, 18]
    let gather := List.replicate 20 0 ++ [32, 3, 0, 4]
    let dist := List.replicate 24 0 ++ [32, 8, 0, 4]
    let topk := [0, 0, 0, 0, 0, 16, 0, 0, 0, 1, 0, 1]
    (Runs ms mg always [8, 9, 10] [8, 9, 10] ∧ mg.cnt.cp < 63 ∧
      lanesFailing mg always (fun th => cpyAddr .gl 8 th % 16 == 0 && (th.get 10).toNat % 16 == 0) = 0 ∧
      lanesFailing mg always (fun th => (ms.piecesOf th .gl (cpyAddr .gl 8 th) 16).isSome &&
        (ms.piecesOf th .sc (th.get 10).toNat 16).isSome && (ms.scPlace th (th.get 10).toNat 8).isSome) = 0 ∧
      (∃ ps, ms.popIssue.xlateCpyAll (ms.whoOf mg) ((lanesOf (mg.active always)).filterMap fun k => (mg.thread? k).map fun th =>
        (k, (ms.piecesOf th x.ssp (cpyAddr .gl 8 th) 16).getD [], (ms.piecesOf th x.dsp (th.get 10).toNat 16).getD [])) = .ok ps)) ∧
      Runs (mach g) g always [] [] ∧ 63 ≤ g.cnt.cp ∧
      ((blockRead mg bulk 64).map fun l => (fld l 24 27, fld l 28 29, fld l 30 30, fld l 31 31, fld l 56 63)) =
        some (1, 1, 2 + 2 * 8, 0, 0) ∧
      ((blockRead mg gather 32).map fun l => (fld l 20 20, fld l 21 21, fld l 22 23, fld l 28 31)) = some (32, 3, 1024, 0) ∧
      ((blockRead mg dist 32).map fun l => (fld l 24 24, fld l 25 25, fld l 26 27, fld l 28 31)) = some (32, 8, 1024, 0) ∧
      ((blockRead mg topk 32).map fun l => (fld l 8 9, fld l 10 11, fld l 12 31)) = some (256, 256, 0) :=
  ⟨⟨runs_of (by decide +kernel), by decide, by decide +kernel, by decide +kernel, places_of (by decide +kernel)⟩,
    runs_of (by decide +kernel), by decide, by decide +kernel, by decide +kernel, by decide +kernel, by decide +kernel⟩

/-- A CPY whose source lies in no page. -/
theorem witness_CpyTranslation :
    let g := deepest
    let s := mach g
    runsB s g always [8, 9, 10] [8, 9, 10] = true ∧
      lanesFailing g always (fun th => cpyAddr .gl 8 th % 4 == 0 && (th.get 10).toNat % 4 == 0) = 0 ∧
      lanesFailing g always (fun th => (s.piecesOf th .gl (cpyAddr .gl 8 th) 4).isSome && (s.piecesOf th .sc (th.get 10).toNat 4).isSome) = 0 ∧
      s.popIssue.xlateCpyAll (s.whoOf g) ((lanesOf (g.active always)).filterMap fun k => (g.thread? k).map fun th =>
        (k, (s.piecesOf th .gl (cpyAddr .gl 8 th) 4).getD [], (s.piecesOf th .sc (th.get 10).toNat 4).getD [])) =
          .fault 1 Cause.translation (2 ^ 57) := by decide +kernel

/-- A group of 64 lanes whose A registers are v0 to v15. -/
def wg : Group := { grp ((List.range 64).map fun k => lane k []) [] with width := 64, cnt := ⟨0, 0, 0, 62⟩ }

/-- Blocks of MMA, TLD, EPI and BFLY whose fields are as the checks want them; a service core; 63 commands. -/
theorem witness_MatrixCommandsIssue :
    let s := withBlockAt0 wg []
    let full : Group := { wg with cnt := ⟨0, 0, 0, 63⟩ }
    let tld := List.replicate 13 0 ++ [64]
    let bfly := [0, 15, 1, 31, 7, 0, 0, 4, 1]
    (Runs s wg always [] [] ∧ isService wg.core = false ∧ wg.cnt.tl < 63 ∧ wg.width = 64 ∧ wg.converged = true ∧
      s.popIssue.readBlock wg (wg.active always) 10 32 = .ok (List.replicate 32 0) ∧
      (((lowLane (wg.active always)).bind wg.thread?).map fun th => th.get 0) = some 0 ∧
      lanesFailing wg always (fun th => th.get 0 == 0) = 0 ∧ formatOk 0 = true ∧ 48 + 16 ≤ wg.cap ∧ wg.latch = none ∧
      0 < s.tileCount 2 ∧ 4096 ≤ ((s.teamRec 2).map (·.wsize)).getD 0 ∧ wg.badRead (wg.active always) [0] = false) ∧
      lanesFailing wg always (fun th => decide (th.tid = 0)) ≠ 0 ∧ (isService sg.core = true ∧ Runs ss sg always [] []) ∧
      (Runs (mach full) full always [] [] ∧ 63 ≤ full.cnt.tl) ∧
      ((blockRead wg tld 32).map fun l => (fld l 12 12, fld l 13 13, fld l 14 14, fld l 15 15, fld l 24 31)) =
        some (0, 64, 0, 0, 0) ∧
      ((blockRead wg tld 832).map fun l => (fld l 12 12, fld l 13 13, fld l 14 14, fld l 15 15, fld l 32 63)) =
        some (0, 64, 0, 0, 0) ∧
      ((blockRead wg bfly 32).map fun l => (fld l 0 0, fld l 1 1, fld l 3 3, fld l 4 4, fld l 5 5, fld l 14 31)) =
        some (0, 15, 31, 7, 0, 0) ∧
      ((blockRead wg bfly 32).map fun l => (batchOk (radixSeq (nibbles l 8)) (fld l 6 7), fld l 2 2)) = some (true, 1) ∧
      15 < s.tileCount 2 :=
  ⟨⟨runs_of (by decide +kernel), rfl, by decide, rfl, by decide +kernel, by decide +kernel, by decide +kernel, by decide +kernel,
      by decide +kernel, by decide, rfl, by decide +kernel, by decide +kernel, by decide +kernel⟩, by decide +kernel,
    ⟨rfl, runs_of (by decide +kernel)⟩, ⟨runs_of (by decide +kernel), by decide⟩, by decide +kernel, by decide +kernel,
    by decide +kernel, by decide +kernel⟩

/-! ### System words -/

theorem witness_SpecialRegisterResults :
    Runs vs vg always [63] [] ∧ Runs vs vg always (opBRegs 1 (.v 63)) (opBRegs 1 (.v 63)) ∧ vg.seat.isSome = true ∧
      ((vs.team? 2).map fun T => (T.core, (vs.grid? T.grid).isSome)) = some (.vent 0 0 0, true) ∧ (vg.thread? 1).map (·.team) = some 2 :=
  ⟨runs_of (by decide +kernel), runs_of (by decide +kernel), by decide +kernel⟩
theorem witness_TimeReadings : Runs vs vg always [] [] := runs_of (by decide +kernel)

/-- A user-state group of service core 0 and its machine. -/
def ug : Group := { sg with supervisor := false }

def us : State := superMach ug

/-- A TRAP on a Vent core, held and not; one of a user-state group and one of a supervisor-state group of a service core. -/
theorem witness_TrapParksTheGroup :
    let named := regsFrom 48 16 ++ regsFrom 32 16
    Steers vs vg always named (regsFrom 32 16) itsClause (itsEntry vg) ∧ vg.cnt = ⟨0, 0, 0, 0⟩ ∧ mg.cnt ≠ ⟨0, 0, 0, 0⟩ ∧
      Steers ms mg always named (regsFrom 32 16) itsClause (itsEntry mg) ∧ isService vg.core = false ∧
      (Steers us ug always named (regsFrom 32 16) itsClause (itsEntry ug) ∧ ug.core = .service 0 ∧ ug.supervisor = false ∧
        (∃ x ∈ us.parts, x.num = 0) ∧ us.group? (us.nextKey + 1) = none ∧ ∀ x ∈ us.parts, ∀ r ∈ x.posts, r.parking ≠ some us.nextKey) ∧
      Steers ss sg always named (regsFrom 32 16) itsClause (itsEntry sg) ∧ sg.supervisor = true :=
  ⟨steers_of (by decide +kernel), by decide, by decide, steers_of (by decide +kernel), rfl,
    ⟨steers_of (by decide +kernel), rfl, rfl, by decide +kernel, by decide +kernel, by decide +kernel⟩,
    steers_of (by decide +kernel), rfl⟩
/-- No active position, a cap of 16, a group of two entries, and an uncorrectable register. -/
theorem witness_WordGuards :
    let low : Group := { vg with cap := 16 }
    let split : Group := { vg with frontier := [⟨0, BitVec.ofNat 64 placeBase, 1, 0⟩, ⟨0, 64, 2, 0⟩] }
    let bg := grp [lane 0 [(8, 0x200000), (10, 128)], { lane 1 [] with bad := [2] }] []
    let bad : State := mach bg
    (vs.issuing? = some vg ∧ vg.active ⟨0, false⟩ = 0) ∧ ((mach low).issuing? = some low ∧ low.active always ≠ 0 ∧ low.cap ≤ 16) ∧
      (split.converged = false ∧ Runs (mach split) split always [] [] ∧ Runs (mach split) split always ([63, 62] ++ opBRegs 1 (.v 61)) (62 :: opBRegs 1 (.v 61))) ∧
      bad.issuing? = some bg ∧ bg.badRead (bg.active always) (2 :: opBRegs 1 (.v 3)) = true ∧
      ((lowLane (bg.active always)).bind bg.thread?).isSome = true ∧
      ((bad.team? 2).map fun T => (isService T.core, (bad.grid? T.grid).map (·.cause))) = some (false, some none) :=
  ⟨by decide +kernel, by decide +kernel, ⟨by decide +kernel, runs_of (by decide +kernel), runs_of (by decide +kernel)⟩,
    by decide +kernel⟩

/-! ### Supervisor words -/

theorem supervises_of {s : State} {g : Group} {p : Pred} {k : Nat}
    (h : (runsB s g p [] [] && decide (g.core = .service k) && g.supervisor) = true) : Supervises s g p k := by
  simp only [Bool.and_eq_true, decide_eq_true_eq] at h
  exact ⟨runs_of h.1.1, h.1.2, h.2⟩

/-- A parking of the group 5, and the machine of `sg` in which it waits with the handle 64 that s6 holds. -/
def parkingOf (part kind : Nat) : Parking := ⟨20, part, 5, kind, some 64, some 0, 3, 32, none, [], false⟩

def parkedGrp : Group := { vg with key := 5, run := .parked, parking := some 20, clause := some { itsClause with isOpen := false } }

def ps (q : Parking) : State := { ss with
  groups := [sg, parkedGrp], parkings := [q], teams := vs.teams, grids := vs.grids, nextKey := 30 }

theorem parkedUnder_of {q : Parking} (h : (q.part == 0 && q.handle == some 64) = true) : ParkedUnder (ps q) 0 (sg.sGet 6) q := by
  simp only [Bool.and_eq_true, beq_iff_eq] at h
  exact ⟨List.mem_singleton.mpr rfl, h.1, h.2, fun r hr _ => List.mem_singleton.mp hr, fun x hx => absurd hx (List.not_mem_nil)⟩

theorem witness_PrivilegedWordGuards :
    (Runs vs vg always [] [] ∧ isService vg.core = false) ∧ (Runs us ug always [] [] ∧ ug.supervisor = false) ∧
      Supervises (ps (parkingOf 0 2)) sg always 0 ∧ (∀ y ∈ (ps (parkingOf 0 2)).preempts, ∀ e ∈ y.events, e.handle ≠ some 64) ∧
      (∀ q ∈ (ps { parkingOf 0 2 with handle := none }).parkings, q.handle ≠ some 64) ∧
      (∀ q ∈ (ps (parkingOf 1 2)).parkings, q.handle = some 64 → q.part ≠ 0) ∧
      ParkedUnder (ps (parkingOf 0 2)) 0 (sg.sGet 6) (parkingOf 0 2) ∧ (opSWord sg (.lit 2)).toNat = 2 ∧
      (opSWord sg (.lit 0x17)).toNat % 256 = 0x17 ∧ (opSWord sg (.lit 512)).toNat = 512 :=
  ⟨⟨runs_of (by decide +kernel), rfl⟩, ⟨runs_of (by decide +kernel), rfl⟩, supervises_of (by decide +kernel), by decide +kernel,
    by decide +kernel, by decide +kernel, parkedUnder_of rfl, by decide +kernel⟩
/-- What RESUME asks of a slot and of a saved image: read as they were written; a line of the slot that a host holds whose link is
down; an uncorrectable word, and bytes of a save area that have changed. -/
theorem witness_ResumeReads :
    let q := parkingOf 0 1
    let s := ps q
    let away : State := { s with ports := [{ Port.reset 0 with failedAt := some 0, held := [(8, true)] }] }
    ((s.part? 0).map fun y => (y.slotAddr 0, s.portBlock (y.slotAddr 0), away.portBlock (y.slotAddr 0))) =
        some (8192, none, some (.wait [])) ∧
      s.replyMeets q 1 = none ∧ s.devWrites = [] ∧ itsClause.word? 0 = some 0 ∧
      ({ q with bad := true } : Parking).bad = true ∧ s.readBytes 0x600000 1 ≠ [7] ∧
      (parkedGrp.lanes.filterMap id).all (fun th => th.team == 2) = true ∧ parkedGrp.lanes.filterMap id ≠ [] := by decide +kernel
/-- Replies and a group that are within reach, whose links sleep, and whose line is lost; a save area that waits for a write and
one whose line is lost; a group that is parked before its clause's header. -/
theorem witness_ResumeWaits :
    let q := parkingOf 0 1
    let s := ps q
    let z : State := asleep s (.vent (s.homeVent (lineOf 8192)))
    let lost := s.markLost 8 0x12
    let area : List AreaPart := [⟨0x600000, [0]⟩]
    let pending : State := { s with devWrites := [⟨0, 0x600000, [1]⟩] }
    s.resumeWaits q 1 = none ∧ (z.resumeWaits q 1).isSome = true ∧ z.resumeWaits q 0 = none ∧
      (pending.resumeWaits { q with area := area } 0).isSome = true ∧
      s.linkFlows .caldera = true ∧ s.linkFlows (dieOf parkedGrp.core) = true ∧ dieOf parkedGrp.core ≠ .caldera ∧
      (asleep s (.vent 0)).linkFlows (dieOf parkedGrp.core) = false ∧ (asleep s (.vent 0)).resumeWaits (parkingOf 0 2) 1 = none ∧
      lost.replyMeets q 1 = some (.lost 0x12) ∧ lost.resumeWaits q 1 = none ∧ lost.areaLost [⟨8192, [0]⟩] = some 0x12 ∧
      ((lowLane q.active).bind parkedGrp.thread?).map (·.team) = some 2 ∧
      ({ itsClause with words := [] } : Clause).word? 0 = none := by decide +kernel
/-- Parkings of the kinds 1, 2 and 3; the kept word is no control word; the ends of the causes of KILL. -/
theorem witness_ResumeAndKillResults :
    (∀ kind ∈ [1, 2, 3], Supervises (ps (parkingOf 0 kind)) sg always 0 ∧
      ParkedUnder (ps (parkingOf 0 kind)) 0 (sg.sGet 6) (parkingOf 0 kind) ∧
      (ps (parkingOf 0 kind)).group? 5 = some parkedGrp ∧ ((ps (parkingOf 0 kind)).part? 0).isSome = true) ∧
      (parkingOf 0 2).group ≠ sg.key ∧ (ps (parkingOf 0 2)).heldBy parkedGrp = none ∧ parkedGrp.sret = none ∧
      (∀ f ∈ (ps (parkingOf 0 2)).lateFaults, f.group ≠ 5) ∧ opSWord sg (.lit 0) = 0 ∧ opSWord sg (.lit 1) = 1 ∧
      itsClause.kept ≠ itsClause.hdr ∧ KeysFresh (ps (parkingOf 0 2)) ∧ (lowLane parkedGrp.live).bind parkedGrp.thread? ≠ none ∧
      (((ps (parkingOf 0 2)).team? 2).map fun T => (isService T.core, ((ps (parkingOf 0 2)).grid? T.grid).map (·.cause))) =
        some (false, some none) ∧ [1, 0x16, 257, 0x116].map (fun n => (opSWord sg (.lit (BitVec.ofNat 32 n))).toNat) = [1, 0x16, 257, 0x116] :=
  ⟨fun kind hk => ⟨supervises_of (by revert kind; decide +kernel), parkedUnder_of rfl, by revert kind; decide +kernel,
      by revert kind; decide +kernel⟩, by decide, by decide +kernel, rfl, by decide +kernel, by decide +kernel, by decide +kernel,
    by decide, ⟨by decide +kernel, by decide +kernel⟩, by decide +kernel, by decide +kernel, by decide +kernel⟩

/-- The root monitor's machine: partition 127 is on its own service core. -/
def rootGrp : Group := { sg with core := .service 127 }

def rootMach : State := { superMach rootGrp with parts := [{ Part.reset 127 with status := 1 }] }

theorem noChildQueue_of {s : State} {k x : Nat}
    (h : ((Machine.childrenOf k).all fun c => ((s.part? c).map fun z => decide (z.status = 0)).getD true) = true) :
    NoChildQueue s k x := by
  intro c hc z hz hn
  have := List.all_eq_true.mp h c hc
  simp only [hz, Option.map_some, Option.getD_some, decide_eq_true_eq] at this
  exact absurd this hn

theorem witness_SupervisorWordResults :
    (Supervises ss sg always 0 ∧ NoChildQueue ss 0 15 ∧
      ∃ y, ss.part? 0 = some y ∧ y.desc.qbase ≤ 15 ∧ 15 < y.desc.qbase + y.desc.qcount) ∧
      (Supervises rootMach rootGrp always 127 ∧ (rootMach.part? 127).isSome = true) ∧
      [0, 1, 2, 3, 255, 65536].map (fun n => (opSWord sg (.lit (BitVec.ofNat 32 n))).toNat) = [0, 1, 2, 3, 255, 65536] ∧
      (sg.sGet64 62).toNat = 0 ∧ (sg.sGet64 6).toNat % 4 = 0 ∧ (sg.sGet64 6).toNat % 32 ≤ 12 ∧ (sg.sGet 6).toNat ≤ 255 ∧
      sg.cnt.st < 63 ∧ sg.cnt.ld < 63 :=
  ⟨⟨supervises_of (by decide +kernel), noChildQueue_of (by decide +kernel), _, rfl, by decide +kernel, by decide +kernel⟩,
    ⟨supervises_of (by decide +kernel), by decide +kernel⟩, by decide +kernel, by decide +kernel, by decide +kernel,
    by decide +kernel, by decide +kernel, by decide +kernel, by decide +kernel⟩
/-- Values that the registers of class 24 take and that they do not: addresses that the partition reaches and that it does not, a
PASID that another context has, a memory type 2, a save area that is held, a port that is bound to no partition. -/
theorem witness_SupervisorRegisterValues :
    let y := (ss.part? 0).getD (Part.reset 0)
    let taken : Part := { y with ctxp := [(3, BitVec.ofNat 64 (2 ^ 31 + 7))] }
    let held : State := { ss with parkings := [{ parkingOf 0 1 with store := some (0x600000, 1) }] }
    ss.inReach 0 0x200000 1 = true ∧ ss.inReach 0 (2 ^ 52) 1 = false ∧ ss.inReach 0 0x200000 (65536 * 1) = true ∧
      ss.saveHeld 0 = false ∧ held.saveHeld 0 = true ∧ (taken.pasidTaken 4 (2 ^ 31 + 7) = true ∧ taken.pasidTaken 4 (2 ^ 31 + 8) = false) ∧
      bitsOf (2 ^ 59) 59 58 = 2 ∧ bitsOf (2 ^ 58) 59 58 = 1 ∧ bitsOf (127 * 2 ^ 8) 14 8 = 127 ∧ bitsOf (72 * 2 ^ 8) 14 8 = 72 ∧
      rootMach.port? 7 = some (Port.reset 7) := by decide +kernel
/-- The control words that go on to the next header, and a BRA, meet the offset or do not. -/
theorem witness_SretControlWords :
    let g (o : W32) : Group := { sg with sret := some o }
    let s := superMach (g 64)
    let e := itsEntry (g 64)
    [s.popIssue.rebuild (g 64) e none (fun _ => some (nextOf itsClause)),
      s.popIssue.rebuild (g 64) e none (toward ((g 64).active always) (itsClause.kept + BitVec.ofInt 64 (4 * (15 : BitVec 22).toInt)) (nextOf itsClause))] =
        List.replicate 2 (.ok [⟨0, s.cbOf (g 64) + (64 : W32).setWidth 64, (g 64).live, 0⟩]) := by decide +kernel
/-- A recorded offset that the control word meets, and one that it does not. -/
theorem witness_SretControlWord :
    let g (o : W32) : Group := { sg with sret := some o }
    ∃ f, Steers (superMach (g 64)) (g 64) always [] [] itsClause (itsEntry (g 64)) ∧
      Steers (superMach (g 68)) (g 68) always [] [] itsClause (itsEntry (g 68)) ∧ (g 64).supervisor = true ∧
      ((g 64).sGet 6).toNat % 4 = 0 ∧ (superMach (g 64)).popIssue.rebuild (g 64) (itsEntry (g 64)) none
        (toward ((g 64).active always) ((superMach (g 64)).cbOf (g 64) + ((g 64).sGet 6).setWidth 64) (nextOf itsClause)) = .ok f ∧
      (∃ x, f = [x] ∧ x.addr = (superMach (g 64)).cbOf (g 64) + (64 : W32).setWidth 64 ∧ x.mask = (g 64).live) ∧
      ∀ x, f = [x] → x.addr ≠ (superMach (g 68)).cbOf (g 68) + (68 : W32).setWidth 64 := by
  refine ⟨[⟨0, BitVec.ofNat 64 (placeBase + 64), 1, 0⟩], steers_of (by decide +kernel), steers_of (by decide +kernel), rfl,
    by decide +kernel, by decide +kernel, ⟨_, rfl, by decide +kernel, by decide +kernel⟩, ?_⟩
  rintro x hx
  cases hx
  decide +kernel

/-! ### Operations performed -/

/-- An operation of the group `vg`, with one access of lane 0 at `l`, and the machine in which it waits. -/
def opOf (k : OpKind) (c : Ctr) (l : Loc) (n : Nat) (ops : List W32) : Op :=
  ⟨0, 3, .vent 0 0 0, 2, .lsu, c, k, [⟨0, 0, 0, 0, 0, l, n, 0, List.replicate n 7, none, none, ops, 0⟩], 1, 0, 0⟩

def waits (o : Op) : State := { vs with ops := [o] }

theorem awaits_of {s : State} {g : Group} {th : Thread} {o : Op} {x : Acc}
    (h : (decide (s.op? o.id = some o) && decide (s.ops = [o]) && (decide (x ∈ o.accs) && o.accs.all (fun y => y.n != x.n || y == x) &&
        !s.accBlocked o x) && decide (o.path = .lsu) &&
      decide (s.group? o.group = some g) && decide (x.lane < 64) && decide (g.thread? x.lane = some th) &&
      decide (s.links = []) &&
      (s.arrival o x).all fun key => !s.mustRetry (s.arrivalVent o key) (lineOf key) o.id x.n) = true) : Awaits s g th o x := by
  simp only [Bool.and_eq_true, decide_eq_true_eq, Bool.not_eq_true'] at h
  obtain ⟨⟨⟨⟨⟨⟨⟨⟨h1, h2⟩, ⟨h3, ha⟩, hb⟩, h4⟩, h5⟩, h6⟩, h7⟩, h8⟩, h9⟩ := h
  refine ⟨h1, fun q hq _ => by simpa [h2] using hq, h3, fun y hy hn => ?_, hb, h4, h5, h6, h7, by simp [h8],
    fun key hk => by simpa [hk] using h9⟩
  simpa [hn] using List.all_eq_true.mp ha y hy

theorem free_of {s : State} {o : Op} {x : Acc} {r : Bool} {n : Nat}
    (h : (decide (s.meets o.id x.loc x.len r = .ok) && !s.debugFault o x n && !s.mixed o x) = true) : Free s o x r n := by
  simp only [Bool.and_eq_true, decide_eq_true_eq, Bool.not_eq_true'] at h
  exact ⟨h.1.1, h.1.2, h.2⟩

/-- Lane 0 of `vg`, and the one access of an operation. -/
def th0 : Thread := (vg.thread? 0).getD (lane 0 [])

def accOf (o : Op) : Acc := o.accs.headD ⟨0, 0, 0, 0, 0, .sc 0 0, 0, 0, [], none, none, [], 0⟩

theorem unmixed_of {s : State} {o : Op} {x : Acc} {n : Nat} (h : s.past = []) : Unmixed s o x n := by
  intro _ _ e he
  simp [h] at he

/-- No write has been performed; one of the same size; and the second piece of a private access of 16 bytes, of which a third is
outstanding. -/
theorem witness_UnmixedAndPieces :
    let l := opOf (.load 4 false 6) .ld (.mem 0x200000) 4 []
    let past : State := { waits l with past := [⟨0, 0x200000, [0, 0, 0, 0], .lsu, 9, 0⟩] }
    let y : Acc := ⟨1, 0, 0, 0, 0, .mem 0x300000, 4, 4, [], none, none, [], 0⟩
    let q : Op := { opOf (.load 16 false 8) .ld (.mem 0) 0 [] with accs := [y, { y with n := 2, loc := .mem 0x380000, roff := 8 }] }
    Unmixed (waits l) l (accOf l) 4 ∧ Unmixed past l (accOf l) 4 ∧
      (Awaits (waits q) vg th0 q y ∧ Unmixed (waits q) q y 4 ∧ (waits q).meetsLoad q y false = .ok ∧
        (waits q).debugFault q y 16 = false ∧ (waits q).mixed q y = false ∧ (waits q).l1Hit q y false = none ∧
        4 < 16 ∧ y.roff % 4 = 0 ∧ y.len % 4 = 0 ∧ ¬ ∀ a ∈ q.accs, a = y) := by
  refine ⟨unmixed_of rfl, ?_, awaits_of (by decide +kernel), unmixed_of rfl, by decide +kernel⟩
  rintro key hk e he
  cases hk
  revert e
  decide +kernel
/-- A load that its L1 serves and one that it does not; a store whose line nobody else holds, and one of a line that Vent 1
holds; a store to a scratchpad. -/
theorem witness_LoadAndStoreCompletion :
    let l := opOf (.load 4 false 6) .ld (.mem 0x200000) 4 []
    let t := opOf .store .st (.mem 0x200000) 4 []
    let c := opOf .store .st (.sc 2 64) 4 []
    let hit := (waits l).setCore (.vent 0 0 0) fun x => { x with l1 := [⟨0x4000, [(0x200000, 9)], 5, 0⟩] }
    let shared : State := { waits t with l2 := [⟨1, 2048, false, 1, 0, 0, 0, none, [], [], 0⟩] }
    let w := opOf .store .st (.mem Config.configWindowBase) 4 []
    (Awaits (waits l) vg th0 l (accOf l) ∧ Free (waits l) l (accOf l) true 4 ∧ (waits l).meetsLoad l (accOf l) false = .ok ∧
        (waits l).l1Hit l (accOf l) false = none) ∧
      (Awaits hit vg th0 l (accOf l) ∧ hit.meetsLoad l (accOf l) false = .ok ∧ (hit.l1Hit l (accOf l) false).isSome = true) ∧
      (Awaits (waits w) vg th0 w (accOf w) ∧ Free (waits w) w (accOf w) false 4 ∧ inWindow Config.configWindowBase = true) ∧
      (Awaits (waits t) vg th0 t (accOf t) ∧ Free (waits t) t (accOf t) false 4 ∧
        (waits t).mayWrite ((waits t).ventFor t.core 2048) 2048 = true) ∧
      (Awaits shared vg th0 t (accOf t) ∧ Free shared t (accOf t) false 4 ∧ shared.mayWrite (shared.ventFor t.core 2048) 2048 = false ∧
        ∀ r ∈ shared.ownReqs, r.line ≠ 2048) ∧
      Awaits (waits c) vg th0 c (accOf c) ∧ Free (waits c) c (accOf c) false 4 :=
  ⟨⟨awaits_of (by decide +kernel), free_of (by decide +kernel), by decide +kernel⟩,
    ⟨awaits_of (by decide +kernel), by decide +kernel⟩,
    ⟨awaits_of (by decide +kernel), free_of (by decide +kernel), by decide +kernel⟩,
    ⟨awaits_of (by decide +kernel), free_of (by decide +kernel), by decide +kernel⟩,
    ⟨awaits_of (by decide +kernel), free_of (by decide +kernel), by decide +kernel, by decide +kernel⟩,
    awaits_of (by decide +kernel), free_of (by decide +kernel)⟩
/-- An atomic load, which has no operand words, and an atomic of a register of the configuration window. -/
theorem witness_AtomicLoadAndWindow :
    let l := opOf (.atom .ld 4 6 .rlx .device) .ld (.mem 0x200000) 4 []
    let w := opOf (.atom .add 4 6 .rlx .device) .ld (.mem Config.configWindowBase) 4 [1]
    (Awaits (waits l) vg th0 l (accOf l) ∧ Free (waits l) l (accOf l) true 4 ∧ (accOf l).ops = [] ∧ Unmixed (waits l) l (accOf l) 4) ∧
      Awaits (waits w) vg th0 w (accOf w) ∧ Free (waits w) w (accOf w) true 4 ∧ Unmixed (waits w) w (accOf w) 4 ∧
      inWindow Config.configWindowBase = true :=
  ⟨⟨awaits_of (by decide +kernel), free_of (by decide +kernel), by decide +kernel, unmixed_of rfl⟩, awaits_of (by decide +kernel),
    free_of (by decide +kernel), unmixed_of rfl, by decide +kernel⟩
/-- Atomics of 4 and of 8 bytes, in memory and in a scratchpad, and an announcement. -/
theorem witness_AtomicPerformResults :
    let a := opOf (.atom .cas 4 6 .rlx .device) .ld (.mem 0x200000) 4 [0, 1]
    let b := opOf (.atom .add 8 6 .rlx .device) .ld (.sc 2 64) 8 [1, 0]
    let h := opOf (.hob (.ann 1) 6) .ld (.mem 0x200000) 1024 [5, 0, 0, 0]
    let s := waits a
    (Awaits s vg th0 a (accOf a) ∧ Free s a (accOf a) true 4 ∧ inWindow 0x200000 = false ∧ s.promotionDue .cas a 0x200000 = false ∧
      s.mayWrite (s.homeVent 2048) 2048 = true ∧ (objOfBytes (s.readBytes (2048 * 1024) 1024)).valid = false) ∧
      (Awaits (waits b) vg th0 b (accOf b) ∧ Free (waits b) b (accOf b) true 8 ∧ ((waits b).team? 2).isSome = true) ∧
      Awaits (waits h) vg th0 h (accOf h) ∧ Free (waits h) h (accOf h) true 16 ∧
      (waits h).mayWrite ((waits h).homeVent 2048) 2048 = true ∧
      (hobStep (.ann 1) 6 ((waits h).ownerOf th0) (objOfBytes (List.replicate 1024 0)).preApply 0 [5, 0, 0, 0]).isSome = true :=
  ⟨⟨awaits_of (by decide +kernel), free_of (by decide +kernel), by decide +kernel, by decide +kernel, by decide +kernel,
      by decide +kernel⟩, ⟨awaits_of (by decide +kernel), free_of (by decide +kernel), by decide +kernel⟩,
    awaits_of (by decide +kernel), free_of (by decide +kernel), by decide +kernel⟩
/-- An object of 31 slots of which 0 and 1 are DONE and 2 is FREE; the last ticket. -/
theorem witness_AnnouncedOperationIsCommitted :
    let o : HObj := ⟨3, 0x48, 0, 31, false, 2 ^ 27 - 1, 5, 6, List.replicate 2 ⟨2, 1, 0, 0, 0, 0, 0⟩ ++ List.replicate 29 HSlot.free⟩
    o.valid = true ∧ o.slots.length = 31 ∧ o.nextt < 2 ^ 27 ∧ (∀ j, j < 31 → (o.slot j).state ≠ 1 ∧ (o.slot j).state ≠ 3) ∧
      2 < o.nslot ∧ (o.slot 2).state = 0 ∧ ∀ j, j < 2 → (o.slot j).state ≠ 0 := by decide +kernel

/-! ### Memory and storage -/

/-- The page table of context 0: a pointer entry and a leaf of 1 GiB that lies at 0. -/
def paged (s : State) : State := (s.writeBytes 0x200000 (bytesOfNat 8 0x400001)).writeBytes 0x400000 (bytesOfNat 8 0x1F)

/-- A narrow mark of core 0 with an `.ld.remote` of another core, and one whose operations are done; 16 cycles on. A request
for ownership of a line that Vent 1 holds, and one whose acknowledgements are in. -/
theorem witness_CoherenceResults :
    let remote : Op := { opOf (.atom .ldRemote 4 6 .acq .device) .ld (.mem 0x200000) 4 [] with core := .vent 0 0 1 }
    let m : NarrowMark := ⟨2048, .vent 0 0 0, none⟩
    let s : State := { vs.onTime (.vent 0) fun t => { t with cycles := 16 } with narrow := [m], ops := [remote] }
    let r : OwnReq := ⟨2048, 0, [1], []⟩
    let q : State := { vs with ownReqs := [r], l2 := [⟨1, 2048, true, 1, 1, 0, 0, none, [], [], 0⟩] }
    let own : L2Line := ⟨0, 2048, false, 1, 0, 0, 0, none, [], [], 0⟩
    let d : State := { vs with ownReqs := [{ r with toInv := [], toAck := [1] }], l2 := [own] }
    let mon : State := { vs with ownReqs := [{ r with toInv := [200] }], monitors := [⟨0, 0x200000, 0, 0, 0, true⟩] }
    let h : State := { vs with
      l2 := [own]
      ownReqs := [{ r with toInv := [], toAck := [102] }]
      ports := vs.ports.map fun p => if p.n = 2 then { p with up := true, held := [(2048, false)] } else p }
    ((∀ l ∈ s.links, l.st = .active) ∧ s.narrow? 2048 = some m ∧ (s.core (.vent 0 0 0)).ticks < s.cyclesOf (.vent 0 0 0) / 16 ∧
      s.promotionWanted m = true) ∧
      (q.ownReqs.find? (fun x => x.line == 2048) = some r ∧ (∀ x ∈ q.ownReqs, x.line = 2048 → x = r) ∧
        q.heldByMark 1 2048 = false ∧ (∀ l ∈ q.l2, l.pinned = none) ∧ q.maySend (.vent 1) false .response = true) ∧
      ((mon.ownReqs.map (·.toInv)) = [[200]] ∧ mon.monitors.map (·.held) = [true]) ∧
      (d.ackInFlight 1 2048 = false ∧ d.otherHolders 0 2048 = [] ∧ d.devWrites = [] ∧ (d.l2? 0 2048).isSome = true) ∧
      (h.port? 2).map (·.up) = some true ∧ (∀ l ∈ h.l2, l.line = 2048 → l.vent = 0) ∧
      (∀ p ∈ h.ports, p.n ≠ 2 → ∀ e ∈ p.held, e.1 ≠ 2048) ∧
      (∀ x ∈ h.monitors, x.held = false) ∧ h.devWrites = [] ∧ (h.l2? 0 2048).isSome = true := by decide +kernel
/-- A promotion that waits for a store of another kind, and for one that waits for the promotion itself. -/
theorem witness_PromotionCircles :
    let st := opOf .store .st (.mem 0x200000) 4 []
    let s : State := { vs with narrow := [⟨2048, .vent 0 0 0, some [0]⟩], ops := [st] }
    let p : State := { s with ownReqs := [⟨2048, 1, [0], []⟩] }
    s.inCircle 2048 0 = false ∧ p.inCircle 2048 0 = true ∧ (∀ l ∈ p.links, l.st = .active) ∧
      p.narrow? 2048 = some ⟨2048, .vent 0 0 0, some [0]⟩ ∧ vs.sliceQuarantined 0 31 = false := by decide +kernel
theorem witness_PageWalkResults :
    let s := paged { vs with cores := [] }
    let x := (s.part? 0).getD (Part.reset 0)
    let o : Op := { opOf (.tlbinv 0 1 0 0) .st (.sc 0 0) 0 [] with accs := [] }
    (s.tlb? ⟨.vent 0 0 0, 0, 0⟩ 0x200000 = none ∧ s.part? 0 = some x ∧ bitsOf (x.walkpOf 0) 31 31 = 1 ∧
      bitsOf (x.walkrOf 0) 59 58 = 0 ∧ bitsOf (x.walkrOf 0) 51 17 * 2 ^ 17 = 0x200000 ∧ entryAddr 0x400001 = 0x400000 ∧
      (∀ a ∈ [0x200000, 0x400000], s.inReach 0 a 8 = true ∧ s.readBar (.vent 0 0 0) a 8 = none ∧ s.lostAt a 8 = none) ∧
      s.readNat 0x200000 8 = 0x400001 ∧ s.readNat 0x400000 8 = 0x1F ∧ s.entryOk 0 0x400001 = true ∧ s.entryOk 0 0x1F = true) ∧
      (bitsOf 0x400001 1 1 = 0 ∧ entryAddr 0x400001 % 2 ^ 16 = 0 ∧ bitsOf 0x1F 1 1 = 1 ∧ entryAddr 0x1F % 2 ^ 30 = 0) ∧
      (waits o).op? o.id = some o ∧ (waits o).group? o.group = some vg := by decide +kernel
/-- A record in a bin, tile 15, banks 0 and 63, ways that are in use, gated and waking. -/
theorem witness_ScrubAndGatingResults :
    let b : Bin := ⟨1, false, 0, 0, 0, 0, some 2, [⟨lane 5 [], true, 1, 3, 0, false⟩], false, none, false⟩
    let s0 := vs.setCore (.vent 0 0 0) fun c => { c with bins := [b], gated := 1, waking := 2 }
    let s : State := { s0 with gatedWays := [(0, 0, 1, 1), (0, 0, 2, 2)] }
    (((s.core (.vent 0 0 0)).recordAt 0).map (·.thread.team)) = some 2 ∧ ((s.team? 2).map fun T => (isService T.core, T.grid)) = some (false, 1) ∧
      ((s.grid? 1).map (·.cause)) = some none ∧ 48 ≤ s.freeGranules (.vent 0 0 0) ∧
      ((s.core (.vent 0 0 0)).gated.getLsbD 63, (s.core (.vent 0 0 0)).gated.getLsbD 0) = (false, true) ∧
      (s.core (.vent 0 0 0)).failed.getLsbD 0 = false ∧ (s.core (.vent 0 0 0)).waking.getLsbD 1 = true ∧
      s.wayState 0 31 15 = 0 ∧ s.pinsFit 0 31 15 = true ∧ s.sliceMarked 0 31 = false ∧ s.wayState 0 0 1 = 1 ∧ s.wayState 0 0 2 = 2 ∧
      ((∀ x ∈ s.queues, x.opening = none ∧ x.statusDue = false ∧ x.closing = none) ∧ s.launches = []) := by decide +kernel
theorem witness_BringUpResults :
    let s : State := { State.reset with info := { State.reset.info with state := 3 } }
    s.inRom = true ∧ s.info.state = 3 := by decide

/-! ### Links and time -/

/-- The link of a die in a state, with one lane in each direction of one channel. -/
def linkOf (d : DieId) (st : LinkState) (ch : Channel) (inflight : List Flit) : Link :=
  ⟨d, st, 0, 2, [⟨true, ch, 0, 0, 2, [], inflight, [], 0⟩, ⟨false, ch, 0, 0, 2, [], [], [], 0⟩]⟩

/-- A flit that is expected, a token at the limit of the credits; links that sleep next, wake in time and too late, and retrain
for the last time. -/
theorem witness_LinkResults :
    let l := linkOf (.vent 0) .active .timing [⟨0, 9, .time .sync⟩]
    let s : State := { State.reset with links := [l] }
    let at_ (n : Nat) (l : Link) : State := { State.reset.onTime .caldera (fun t => { t with value := n }) with links := [l] }
    let acked : Lane := ⟨true, .timing, 1, 1, 2, [], [], [], 0⟩
    let w := linkOf (.spring 15) .waking .request []
    let r := linkOf (.spring 15) .retrain .request []
    (s.link? (.vent 0) = some l ∧ (l.lane? true .timing).isSome = true ∧ l.st = .active ∧
        (0 < acked.expect ∧ acked.credits + 62 + (acked.nextSeq - acked.expect) ≤ Config.flitCredits) ∧
        (linkOf (.vent 0) .sleep .timing []).st = .sleep) ∧ s.devWrites = [] ∧
      ((at_ 0 (linkOf (.vent 0) .active .timing [])).linkBusy (linkOf (.vent 0) .active .timing []) = false) ∧
      ((at_ 64000 w).link? (.spring 15) = some w ∧ w.st = .waking ∧ ((at_ 64000 w).time .caldera).value ≤ w.since + 64000) ∧
      (w.since + 64000 < ((at_ 64001 w).time .caldera).value) ∧ (r.st = .retrain ∧ 3 ≤ r.failed + 1) ∧
      (r.since + 800000 ≤ ((at_ 800000 r).time .caldera).value ∧ ((at_ 799999 r).time .caldera).value < r.since + 800000) := by
  decide +kernel
/-- A locked register 4 sync intervals after the last Sync; one in HOLDOVER whose bound is saturated; the master's before any
grid; the messages of the synchronisation at the head of an inbox. -/
theorem witness_TimeResults :
    let at_ (f : TimeReg → TimeReg) : State := State.reset.onTime (.vent 0) f
    let msgs := [TimeMsg.sync, .followUp 7, .pdelayReq, .pdelayResp 7, .pdelayRespFollowUp 7]
    let l := linkOf (.vent 0) .active .timing []
    let s : State := { State.reset.onTime .caldera (fun t => { t with value := 16000 }) with info := DevInfo.full, links := [l] }
    let ticks := State.reset.onTime (.vent 0) TimeReg.tick
    hasTime (.vent 0) = true ∧ ticks.boundsHold = true ∧ (∀ x ∈ State.reset.parts, x.next = none) ∧
      ((at_ fun t => { t with pkgState := 2, value := 64000 }).time (.vent 0)).pkgState = 2 ∧
      ((at_ fun t => { t with pkgState := 2, value := 64000 }).time (.vent 0)).lastSync + 4 * 16000 ≤ 64000 ∧
      0xFFFFFF ≤ ((at_ fun t => { t with pkgState := 3, pkgBound := 0xFFFFFF }).time (.vent 0)).pkgBound ∧
      (State.reset.masterSet = false ∧ State.reset.nextGrid = 1) ∧
      (s.info.bootVents.Nodup ∧ 0 ∈ s.liveVents ∧ s.link? (.vent 0) = some l ∧ (l.lane? true .timing).isSome = true ∧
        (s.time .caldera).lastSync + 16000 ≤ (s.time .caldera).value) ∧
      msgs.all (fun m => ((at_ fun t => { t with inbox := [(.caldera, 5, m)], syncAt := some 5 }).time (.vent 0)).inbox ==
        [(.caldera, 5, m)]) = true := by decide +kernel

/-! ### Issue, groups, teams and grids -/

/-- A group that has gone longest without issuing, an entry that starves, a group whose turns are over, one 8,192 words after
its halt became pending, and a halted one, at a safe point and not. -/
theorem witness_IssueTurnAndHaltResults :
    let late : Group := { vg with key := 5, lastTurn := 9 }
    let s : State := { vs with groups := [vg, late] }
    let h : Group := { vg with halt := some 8192 }
    let z : Group := { vg with halt := some 0, run := .halted, clause := none }
    let t : State := { ((mach z).onGrid 1 fun x => { x with lrec := { x.lrec with spta := 0x300000, sptn := 1 } }) with groups := [z] }
    (vg ∈ s.readyGroups (.vent 0 0 0) 0 ∧ (∀ g ∈ s.readyGroups (.vent 0 0 0) 0, g ≠ vg → vg.lastTurn < g.lastTurn) ∧
      s.group? vg.key = some vg) ∧ (h.halt = some 8192 ∧ h.run ≠ .parked ∧ h.ended = false) ∧
      (z.run = .halted ∧ z.cnt = ⟨0, 0, 0, 0⟩ ∧ z.clause = none) ∧
      t.safePoint z = .live 0 0 := by decide +kernel
/-- A header and a table whose reads wait for a sleeping link. -/
theorem witness_HeaderAndTableWait :
    let h : Group := { vg with clause := none }
    let z : Group := { h with halt := some 0, run := .halted }
    let t : State := { (mach z).onGrid 1 fun x => { x with lrec := { x.lrec with spta := 0x300000, sptn := 1 } } with
      links := [⟨.vent ((mach z).homeVent 3072), .sleep, 0, 0, []⟩] }
    (asleep { vs with groups := [h] } (.vent 0)).headerDies h = [.vent 0, .caldera, .spring 0] ∧
      t.safePoint z = .wait [.vent 0, .caldera, .spring 0] := by decide +kernel
/-- A full bin that can form, a group that wants a seat, a bin that is overdue, an ended group with nothing and with 2 stores
outstanding. -/
theorem witness_GroupLifeResults :
    let c : CoreId := .vent 0 0 0
    let b : Bin := ⟨1, false, 64, 0, 0, 0, some 2, (List.range 64).map fun k => ⟨lane k [], true, 1, 3, 0, false⟩, false, none, false⟩
    let s := vs.setCore c fun x => { x with bins := [b] }
    let o : State := (vs.setCore c fun x => { x with bins := [{ b with waiting := some 0 }] }).onTime (.vent 0) fun t => { t with cycles := 4096 }
    let w : Group := { vg with seat := none }
    let e : Group := { vg with ended := true, cnt := ⟨0, 2, 0, 0⟩ }
    (∀ g ∈ s.groups, s.wantsSeat g = false) ∧ (s.noteWaits c).binToForm c = some b ∧ s.group? s.nextKey = none ∧
      (mach w).groups.find? (fun h => (mach w).wantsSeat h && (mach w).seatsHere c h) = some w ∧
      (o.binReady c { b with waiting := some 0 } = true ∧ o.overdue c { b with waiting := some 0 } = true) ∧
      ((mach e).group? e.key = some e ∧ e.ended = true ∧ e.cnt.ld = 0 ∧ e.cnt.st + e.cnt.cp + e.cnt.tl ≠ 0 ∧
        ((mach e).trackers.filter fun x => x.core == e.core).length < 64) ∧
      (∀ n, n < 4 → ({ vs with groups := [] } : State).readyGroups c n = []) := by decide +kernel

/-- A launch record that its checks accept, at 0x300000: one team of 64 threads with a private space of 16 bytes each. -/
def recordBytes : List Byte :=
  bytesOfNat 8 0x100000 ++ [1, 1, 64, 0] ++ bytesOfNat 4 1 ++ bytesOfNat 2 64 ++ [1, 0] ++ List.replicate 28 0 ++
    bytesOfNat 8 0x1000000 ++ bytesOfNat 4 16 ++ List.replicate 20 0 ++ bytesOfNat 4 0 ++ bytesOfNat 2 64 ++ [8, 0]

def launched : State := (paged vs).writeBytes 0x300000 recordBytes

def launchOk (x : LaunchCheck) : Bool := match x with | .ok _ => true | _ => false

/-- The grid of `vs`. -/
def aGrid : Grid := (vs.grid? 1).getD
  ⟨0, 0, 0, 0, 0, 0, placeRecord, none, 0, none, 0, [], [], [], [], none, [], none, [], 0, false, none, false, false⟩

/-- A grid with a team to place and one with a team that is done; one that has waited 1 ms; one that is held until now; a child
and a message of a command link. -/
theorem witness_GridLifeResults :
    let place : State := { (launched.onGrid 1 fun x => { x with lrec := { x.lrec with cor := false, tiles := 0, scratch := 0, cws := 0, wsize := 0, asize := 0, roles := [⟨0, 64, 8⟩] }, placed := [] }) with
      groups := [], teams := [] }
    let x := (place.grid? 1).getD aGrid
    let done : State := (vs.onTeam 2 fun t => { t with ended := 64 }).onGrid 1 fun x => x
    let d : State := { done with groups := [] }
    let held := vs.onGrid 1 fun x => { x with held := some 0, placed := [], waitSince := 0 }
    let late : State := held.onTime .caldera fun t => { t with value := 16000000 }
    let fin : State := { vs with teams := [], grids := vs.grids.map fun x => { x with completed := [0], parent := some 7, done := 0x300008 } }
    let f := (fin.grid? 1).getD aGrid
    let ch : State := { launched with scheds := [⟨0, 0, false, none, [{ child with lrec := 0x300000 }]⟩] }
    let cl : State := { vs with cmdLinks := [⟨0, 0, true, [(0, .place 1 0 0)], 15, 1, 0⟩] }
    let busy : State := vs.onTeam 2 fun t => { t with charge := 4096 }
    (place.grid? 1 = some x ∧ x.lrec.cor = false ∧ x.lrec.dws = 0 ∧ place.canPlace x 0 0 0 0 = true ∧ place.orderOk x 0 0 0 = true ∧
      place.team? place.nextKey = none) ∧
      ((d.team? 2).map fun T => (T.grid, d.teamDone T, T.dead, T.chargeOf == T.reported)) = some (1, true, none, true) ∧
      ((late.grid? 1).map fun x => (x.waits, decide (x.waitSince + 16000000 ≤ late.now), x.held)) = some (true, true, some 0) ∧
      (fin.gridDone f = true ∧ f.parent.isSome = true ∧ f.launch = none ∧ f.done ≠ 0 ∧
        (paged fin).cpPlace f.part f.ctx f.done.toNat 8 .write = .ok 0x300008 ∧ (paged fin).mayWrite ((paged fin).homeVent 3072) 3072 = true) ∧
      (launchOk (ch.checkLaunch 0 0 0x300000) = true ∧ ch.grid? ch.nextKey = none) ∧
      ((busy.team? 2).map fun T => (T.core, decide (T.reported < T.chargeOf))) = some (.vent 0 0 0, true) ∧
      ((cl.cmdLinks.find? fun l => l.vent == 0 && l.cluster == 0 && l.toLeaf == true).map fun l => (l.msgs, l.expect)) =
        some ([(0, .place 1 0 0)], 0) ∧
      (cl.linkFlows .caldera && cl.linkFlows (.vent 0) && cl.linkFlows (cl.schedDie 0)) = true := by decide +kernel

/-- A team whose die position has a window of one line to be pinned, and a co-resident grid that is placed at once. -/
theorem witness_TeamPlacements :
    let place (f : LaunchRec → LaunchRec) : State := { launched.onGrid 1 fun x => { x with
      lrec := f { x.lrec with tiles := 0, scratch := 0, cws := 0, wsize := 0, asize := 0, roles := [⟨0, 64, 8⟩] }, placed := [] } with
        groups := [], teams := [] }
    let w := place fun l => { l with cor := false, dws := 1024, dwb := 0x400000 }
    let co := place fun l => { l with cor := true }
    let x (s : State) := (s.grid? 1).getD aGrid
    (w.canPlace (x w) 0 0 0 0 = true ∧ w.orderOk (x w) 0 0 0 = true ∧ (x w).lrec.dws ≠ 0 ∧ (x w).dieBegun 0 = false ∧
      w.windowLines (x w) 0 = [4096] ∧ (w.windowDies (x w) ((x w).posOf 0).1 0).all w.linkFlows = true) ∧
      (x co).lrec.cor = true ∧ (x co).waits = true ∧ (co.placeAll (x co)).isSome = true ∧
      (x co).clusters.all (fun e => (List.range 16).all (co.orderOk (x co) e.2.2.1 e.2.2.2) &&
        (co.windowDies (x co) e.1 e.2.2.1).all co.linkFlows) = true := by decide +kernel
/-- A queue's grid that is done, with a line of its window pinned; child launches that were killed and that are refused. -/
theorem witness_GridAndChildEnds :
    let fin : State := { vs with
      teams := [], grids := vs.grids.map fun x => { x with completed := [0], queue := some 0, done := 0x300008 }
      l2 := [⟨0, 4096, true, 1, 0, 0, 0, some 1, [], [], 0⟩] }
    let f := (fin.grid? 1).getD aGrid
    let ch (l : W64) (k : Bool) : State := { launched with
      scheds := [⟨0, 0, false, none, [{ child with lrec := l, done := 0x300408, killed := k }]⟩] }
    let s := ch 0x400040 false
    (fin.gridDone f = true ∧ f.parent = none ∧ f.launch = none ∧ (fin.queue 0).closing = none ∧ f.done ≠ 0 ∧
      fin.pinsEnding 1 ≠ [] ∧ (∀ l ∈ fin.pinsEnding 1, fin.unpinLeaves l.line = false)) ∧
      (match s.checkLaunch 0 0 0x400040 with | .refused _ => true | _ => false) = true ∧
      ((ch 0 true).scheds.flatMap (·.children)).map (·.killed) = [true] ∧ s.cpPlace 0 0 0x300408 8 .write = .ok 0x300408 ∧
      s.mayWrite (s.homeVent (lineOf 0x300408)) (lineOf 0x300408) = true := by decide +kernel

/-! ### Engines and copies performed -/

theorem engineTurn_of {s : State} {o : Op} {T : Team}
    (h : (decide (s.op? o.id = some o) && !s.behind o && decide (s.team? o.team = some T) && decide (T.dead = none) &&
      decide (s.links = [])) = true) : EngineTurn s o T := by
  simp only [Bool.and_eq_true, decide_eq_true_eq, Bool.not_eq_true'] at h
  exact ⟨h.1.1.1.1, h.1.1.1.2, h.1.1.2, h.1.2, by simp [h.2]⟩

/-- The team of `vs`. -/
def aTeam : Team := (vs.team? 2).getD (Team.ofService 0 0)

/-- A command of the team that an engine performs next. -/
def engineOp (k : OpKind) (p : Path) : Op := { opOf k .tl (.sc 0 0) 0 [] with accs := [], path := p }

/-- An MMA, TLD, TST and EPI of one row at 0x200000, GATHER, DIST and TOPK of one row. -/
theorem witness_EngineCommandResults :
    let o := engineOp (.matrix (.tzero 15)) .matrix
    let m : TileMove := ⟨false, 0x200000, 256, 15, 1, false, false, 0, []⟩
    let g := engineOp (.gather (.gather 0x200000 16 1 0 1 0 8 0)) .gather
    let addrs := (List.range (64 * m.rows)).map fun k => (m.addr.toNat + k / 64 * m.stride + k % 64 * 4) % 2 ^ 64
    let span (x : Span) : Bool := match x with | .ok _ => true | _ => false
    EngineTurn (waits o) o aTeam ∧ EngineTurn (waits g) g aTeam ∧
      ((waits o).placeBad (.wb 2 0) (panelSize 0) = false ∧ aTeam.poison.getLsbD 15 = false) ∧
      (span ((waits o).elemSpan o .read 4 addrs) = true ∧ span ((waits o).elemSpan o .write 4 addrs) = true ∧
        (waits o).spanMeets o true [(.mem 0x200000, 4)] = .ok ∧ (waits o).spanMeets o false [(.mem 0x200000, 4)] = .ok ∧
        (waits o).mayWrite ((waits o).ventFor o.core 2048) 2048 = true) ∧
      ((waits g).placeBad (.sc 2 0) 4 = false ∧ (waits g).placeBad (.ab 2 0) 16 = false ∧
        ((waits g).rowSpans g 0x200000 16 1 16 [0]).toOption.isSome = true ∧ (waits g).placeBad (.sc 2 0) (8 + 8 * 256) = false) :=
  ⟨engineTurn_of (by decide +kernel), engineTurn_of (by decide +kernel), by decide +kernel, by decide +kernel, by decide +kernel⟩

theorem unmixedAll_of {s : State} {o : Op} {ps : List (Loc × Nat)} (h : s.past = []) : UnmixedAll s o ps := by
  intro _ _ _ _ e he
  simp [h] at he

/-- A move of two elements in digit-reversed order, and a poisoned tile; pairs of TOPK of one key, a NaN and the two zeros. -/
theorem witness_DigitReversedMove :
    let o := engineOp (.matrix (.tzero 15)) .matrix
    let m : TileMove := ⟨false, 0x200000, 256, 15, 1, false, true, 1, [2]⟩
    let n := radixN m.radix
    let addrs := (List.range (2 * (m.batch * n))).map fun k =>
      (m.addr.toNat + k / 2 / n * m.stride + 8 * digitRev (k / 2 % n) m.radix + k % 2 * 4) % 2 ^ 64
    let span (x : Span) : Bool := match x with | .ok _ => true | _ => false
    n = 2 ∧ (span ((waits o).elemSpan o .read 4 addrs) && span ((waits o).elemSpan o .write 4 addrs)) = true ∧
      (waits o).past = [] ∧ ({ aTeam with poison := 2 } : Team).poison.getLsbD 1 = true ∧
      sameKey (0x7FC00000, 5) (0xFFC00001, 5) = true ∧ sameKey (0, 5) (0x80000000, 5) = true ∧
      sameKey (0, 5) (0, 6) = false := by decide +kernel
theorem witness_UnmixedAll (o : Op) : UnmixedAll (waits o) o [(.mem 0x200000, 4)] := unmixedAll_of rfl

/-- A copy of one byte within the scratchpad, as far as `done` says. -/
def aBulk (get : Bool) (done : Nat) (fault : Option (Nat × W64)) : Bulk :=
  ⟨get, 0, 64, 1, 1, 1, 1, if get then 0 else 2, 2, false, false, 0, 0, 0, 0, 0, done, fault, none⟩

/-- A CPY with a sync word just behind its destination; a BCPY before and after its byte; one that met a fault; a GET 4 s old. -/
theorem witness_CopyEventResults :
    let x : Acc := ⟨0, 0, 0, 0, 0, .sc 2 64, 4, 0, [], some (.sc 2 0), some (.sc 2 68), [], 0⟩
    let c : Op := { engineOp (.cpy 4) .copy with accs := [x], ctr := .cp }
    let b (k : Bulk) : Op := engineOp (.bulk k) .copy
    let late : State := (waits (b (aBulk true 0 none))).onTime (.vent 0) fun t => { t with value := 64000000000 }
    ((waits c).op? 0 = some c ∧ (∀ q ∈ (waits c).ops, q.id = 0 → q = c) ∧ (∀ l ∈ (waits c).links, l.st = .active) ∧
      (waits c).placeBad (.sc 2 0) 4 = false ∧ (waits c).placeBad (.sc 2 64) 4 = false ∧ (waits c).placeBad (.sc 2 68) 8 = false ∧
      ((waits c).team? 2).isSome = true ∧ 64 + x.len ≤ 68) ∧
      ((aBulk false 0 none).done.testBit 0 = false ∧ (aBulk false 1 none).done.testBit 0 = true ∧
        vs.scPlace (teamThread 2) 0 1 = some (.sc 2 0) ∧ vs.scPlace (teamThread 2) 64 1 = some (.sc 2 64)) ∧
      ((waits (b (aBulk false 0 (some (0x11, 0))))).op? 0 = some (b (aBulk false 0 (some (0x11, 0)))) ∧ isService aTeam.core = false ∧
        vs.grid? aTeam.grid = some aGrid ∧ aGrid.cause = none) ∧
      (b (aBulk true 0 none)).stamp + 64000000000 ≤ (late.time (dieOf (b (aBulk true 0 none)).core)).value := by decide +kernel

/-! ### Faults and rings -/

theorem aloneAt_of {s : State} {a n : Nat} (h : (decide (s.links = []) && decide (s.l2 = []) && s.ports.all (·.held.isEmpty) &&
    decide (s.monitors = []) && decide (s.gatedWays = [])) = true) : AloneAt s a n := by
  simp only [Bool.and_eq_true, decide_eq_true_eq, List.all_eq_true, List.isEmpty_iff] at h
  obtain ⟨⟨⟨⟨h1, h2⟩, h3⟩, h4⟩, h5⟩ := h
  intro b _ _
  simp +contextual [State.linkFlows, State.link?, State.sliceWaking, State.otherHolders, State.hostHolders,
    State.monitorHolders, h1, h2, h3, h4, h5]

theorem keyKept_of {s : State} {r : Bool} {a n : Nat}
    (h : (s.parts.all (·.keySer == 0) && decide (s.units = []) && decide (a + n ≤ Config.configWindowBase)) = true) :
    KeyKept s r a n := by
  simp only [Bool.and_eq_true, decide_eq_true_eq, List.all_eq_true, beq_iff_eq] at h
  obtain ⟨h, hn⟩ := h
  have z (k : Nat) : s.serialAt k = 0 := by
    unfold State.serialAt
    extract_lets l
    have hl (x : Part) (hx : x ∈ l) : x.keySer = 0 := h.1 x (List.mem_filter.1 hx).1
    split
    · exact hl _ (List.mem_of_find?_eq_some ‹_›)
    · match hh : l.head? with
      | none => rfl
      | some x => simpa using hl x (List.mem_of_head? hh)
  refine ⟨fun k _ hk => ?_, fun k _ _ => ⟨by rw [z, z], fun _ => z k, by simp [h.2]⟩⟩
  simp only [inWindow, Bool.and_eq_false_iff, decide_eq_false_iff_not]
  exact .inl (by omega)

/-- A ring of one slot at 0x400000 with a record due. -/
def aRing : State :=
  { vs with parts := vs.parts.map fun x => { x with
    sring := 0x400000, posts := [⟨4, 0, 0, 2, 0, 0, 0, 0, 0, 0, 0, 0, 0, 0, 0, 0, [], none⟩] } }

theorem witness_aRing : AloneAt aRing (0x400000 + 8192) 4160 ∧ AloneAt aRing 0x400000 8 ∧ KeyKept aRing false (0x400000 + 8192) 4160 ∧
    KeyKept aRing false 0x400000 8 ∧ aRing.devWrites = [] :=
  ⟨aloneAt_of (by decide +kernel), aloneAt_of (by decide +kernel), keyKept_of (by decide +kernel), keyKept_of (by decide +kernel), rfl⟩

/-- A fault that waits, a record and a FREE slot of a ring of one slot, a service core that stands halted with an image whose
digest is right, and a KEYNEW. The signature check is not interpreted (log 8): the image is accepted if it accepts. -/
theorem witness_FaultAndRingResults :
    let f : LateFault := ⟨3, 2, Cause.permission, 3, 1, 0, 0, 0⟩
    let s : State := { vs with lateFaults := [f] }
    let r : Post := ⟨4, 0, 0, 2, 0, 0, 0, 0, 0, 0, 0, 0, 0, 0, 0, 0, [], none⟩
    let ring : State := aRing
    let image : State := { ss.writeBytes 0x500000 (bytesOfNat 4 0x4B494D47 ++ bytesOfNat 4 4) with
      parts := ss.parts.map fun x => { x with halted := true, desc := { x.desc with kimg := 0x500000, owndig := Config.sm3 (List.replicate 64 0) } } }
    let k : Op := { opOf (.keynew 1 4 0) .ld (.sc 0 0) 0 [] with core := .service 0, accs := [] }
    (s.lateFaults[0]? = some f ∧ s.lateDue f = true ∧ s.group? f.group = some vg ∧ vg.run ≠ .parked ∧ vg.ended = false ∧ isService vg.core = false ∧
      vg.clause = some itsClause) ∧
      ((ring.part? 0).map (·.posts) = some [r] ∧ r.kind ≠ 1 ∧ ring.inReach 0 (0x400000 + 8192) 8192 = true ∧
        ring.inReach 0 0x400000 8 = true ∧
        ring.readBar cpCore (0x400000 + 8192 + 7) 1 = none ∧ ring.readByte (0x400000 + 8192 + 7) = 0) ∧
      ((image.part? 0).map fun x => (x.status, x.halted)) = some (1, true) ∧ image.group? (image.nextKey + 1) = none ∧
      ss.imageOk 0 ((ss.part? 0).getD (Part.reset 0)).desc = false ∧
      ({ ss with ops := [k], parts := Part.reset 8 :: ss.parts } : State).op? 0 = some k ∧ ss.freeKeyId = some 1 := by
  decide +kernel
theorem witness_kernel_image (d : PartDesc) (s : State)
    (hs : s = ss.writeBytes 0x500000 (bytesOfNat 4 0x4B494D47 ++ bytesOfNat 4 4))
    (hd : d = { PartDesc.empty with kimg := 0x500000, owndig := Config.sm3 (List.replicate 64 0) })
    (hv : Config.sm2Verify (List.replicate 64 0) (Config.sm3 ((s.readBytes 0x500000 192).take 64 ++ s.readBytes (0x500000 + 192) 4))
      (List.replicate 64 0) = true) : s.imageOk 0 d = true := by
  have h64 : ((s.readBytes 0x500000 192).drop 64).take 64 = List.replicate 64 0 := by subst hs; decide +kernel
  have h128 : ((s.readBytes 0x500000 192).drop 128).take 64 = List.replicate 64 0 := by subst hs; decide +kernel
  have hl : fld (s.readBytes 0x500000 192) 4 7 = 4 := by subst hs; decide +kernel
  have hm : decide (fld (s.readBytes 0x500000 192) 0 3 = 0x4B494D47 ∧ 4 % 4 = 0 ∧ 4 ≤ 2 ^ 26 ∧
      fld (s.readBytes 0x500000 192) 8 11 % 4 = 0 ∧ fld (s.readBytes 0x500000 192) 8 11 < 4) = true := by subst hs; decide +kernel
  have hz : zeros (s.readBytes 0x500000 192) 12 63 = true := by subst hs; decide +kernel
  have hn : (s.inReach 0 0x500000 196 && !s.lostWithin 0x500000 196) = true := by subst hs; decide +kernel
  obtain ⟨m1, -, m3⟩ := of_decide_eq_true hm
  subst hd
  simp only [Bool.and_eq_true] at hn
  simp only [State.imageOk, hl, h64, h128, hz, hn, hv, decide_true, Bool.and_true]
  exact decide_eq_true ⟨m1, trivial, m3⟩

/-! ### Queues and their commands -/

/-- The descriptor of a queue: ring at 0x310000, status block at 0x320000, watched line at 0x330000. -/
def queueBytes : List Byte :=
  bytesOfNat 8 0x310000 ++ [4, 0, 0, 0, 0, 0, 0, 0, 1, 0, 0, 0, 1, 0, 0, 0] ++ bytesOfNat 8 0x320000 ++ [1, 0, 0, 0, 1, 0, 0, 0] ++
    List.replicate 8 0 ++ bytesOfNat 8 0x330000

def aDesc : QDesc := qdescOf 0 queueBytes

/-- An ACTIVE queue 0 whose one pending command is `cmd`. -/
def queued (cmd : List Byte) : State :=
  { launched.writeBytes 0x310000 cmd with queues := [{ Queue.closed 0 with status := 1, desc := some aDesc, widx := 1 }] }

/-- Whether an open finds a descriptor that passes its checks; nothing where it has to wait. -/
def opens (x : Opening) : Option Bool := match x with | .ok _ _ _ => some true | .err _ => some false | .wait _ => none

theorem witness_QueueContextResults :
    let s := launched.writeBytes 0x340000 queueBytes
    let q (n : Nat) : State := { launched with queues := [{ Queue.closed 0 with status := n, desc := some aDesc }] }
    let asleep : State := { s with links := [linkOf (.vent (s.homeVent (lineOf 0x340000))) .sleep .timing []] }
    ((s.queue 0).status = 0 ∧ (s.queue 0).opening = none ∧ opens (s.openCheck 0 0x340000) = some true ∧ opens (s.openCheck 0 0x350000) = some false ∧
      opens (asleep.openCheck 0 0x340000) = none ∧ (s.part? 5).map (·.status) ≠ some 1) ∧
      ((q 1).queueCtx aDesc = some 0 ∧ (q 1).cpPlace aDesc.part 0 aDesc.ridxa.toNat 16 .write = .ok 0x320000 ∧ (q 1).commanded 0 true = [0]) ∧
      ([1, 2, 3].map fun n => ((q n).queue 0).status) = [1, 2, 3] ∧
      (((q 1).queue 0).closing = none ∧ ((q 1).queue 0).running = [] ∧ (q 1).queueGrids 0 = [] ∧ ∀ l ∈ (q 1).launches, l.queue ≠ 0) := by
  decide +kernel

/-- What `LaunchCommandResults` asks of a queue's head. -/
def visitsB (s : State) (c : Cmd) : Bool :=
  decide (s.refreshEligible.dueVisit = some (0, aDesc, c)) &&
    decide (s.refreshEligible.headCmd (s.refreshEligible.queue 0) = .cmd false c) &&
    decide (0 < visitDeficit aDesc (s.refreshEligible.queue 0).deficit) && decide ((s.queue 0).desc = some aDesc) &&
    decide (s.queueCtx aDesc = some 0)

theorem witness_LaunchCommandResults :
    let l := queued ([1, 0, 0, 0, 0, 0, 0, 0] ++ bytesOfNat 8 0x300000)
    let a (flags peers : Byte) := (queued ([2, flags, 0, 0, 0, 0, 0, 0] ++ bytesOfNat 8 0x300000 ++ List.replicate 16 0 ++ [peers])).onTime
      .caldera fun t => { t with pkgState := 2 }
    let r : State := { a 2 1 with ports := (a 2 1).ports.map fun p => { p with peer := true, up := true } }
    let i : GraphInst := ⟨0, 0, 0x300000, 0, false, [], 0⟩
    let g : State := { queued ([3, 0, 0, 0, 0, 0, 0, 0] ++ bytesOfNat 8 0x300000) with insts := [i] }
    (visitsB l (.launch 0x300000 0) = true ∧ launchOk (l.checkLaunch 0 0 0x300000) = true ∧ l.grid? l.nextKey = none) ∧
      (visitsB (a 0 0) (.launchAt false 0x300000 0 0 0 0) = true ∧ ((a 0 0).time .caldera).pkgState = 2) ∧
      (visitsB r (.launchAt true 0x300000 0 0 1 0) = true ∧ r.ports.any (fun p => p.peer && p.up) = true) ∧
      visitsB g (.graph 0x300000 0) = true ∧ g.findGraph 0 0 0 0x300000 = .ok i [i] := by decide +kernel
theorem calderaLeads_of {s : State} (h : s.times.all (fun r => decide (r.value ≤ s.now)) = true) : CalderaLeads s := by
  intro d
  generalize s.now = n at h ⊢
  unfold State.time
  cases hf : s.times.find? fun t => t.die == d with
  | none => exact Nat.zero_le n
  | some r => exact of_decide_eq_true (List.all_eq_true.mp h r (List.mem_of_find?_eq_some hf))

/-- A replicated launch for a peer that is reachable and one that is not, Caldera's register ahead of all; copies that run, that
are too late, and that are of an old generation. The numbers 0 and 3 stand for those of the fabric queue and of this device. -/
theorem witness_SelfCopies :
    let run : State := { launched.onTime .caldera (fun t => { t with value := 16000, fabState := 2 }) with
      queues := [{ Queue.closed 0 with status := 1, desc := some aDesc, gens := [(3, 5)] }] }
    let copy (gen start : Nat) : ReplCopy := ⟨3, gen, 0x300000, 0, start⟩
    CalderaLeads run ∧ (run.queue 0).status = 1 ∧ (run.queue 0).closing = none ∧ run.peerOut = [] ∧
      run.copyFate 0 aDesc (copy 5 16000) = .old ∧ run.copyFate 0 aDesc (copy 6 0) = .refused Code.late ∧
      (match run.copyFate 0 aDesc (copy 6 16000) with | .runs _ _ => true | _ => false) = true ∧
      (run.ports.any fun p => p.peer && p.up) = false :=
  ⟨calderaLeads_of (by decide +kernel), by decide +kernel⟩
/-- A DISPATCH that finds no queue to visit, one whose visit leaves the deficit of its queue at 0, and one that launches. -/
theorem witness_Dispatch :
    let l := queued ([1, 0, 0, 0, 0, 0, 0, 0] ++ bytesOfNat 8 0x300000)
    let poor := l.onQueue 0 fun x => { x with deficit := -1 }
    let idle : State := { launched with queues := [{ Queue.closed 0 with status := 1, desc := some aDesc }] }
    (idle.badHead = none ∧ (∀ y ∈ idle.queues, idle.headDies y = []) ∧ idle.refreshEligible.dueVisit = none) ∧
      (poor.badHead = none ∧ (∀ y ∈ poor.queues, poor.headDies y = []) ∧ (poor.queue 0).deficit + aDesc.quantum ≤ 0 ∧
        poor.refreshEligible.dueVisit = some (0, aDesc, .launch 0x300000 0)) ∧
      l.badHead = none ∧ (∀ y ∈ l.queues, l.headDies y = []) ∧ 0 < (l.queue 0).deficit + aDesc.quantum ∧ 0 < aDesc.quantum ∧
      l.refreshEligible.dueVisit = some (0, aDesc, .launch 0x300000 0) := by decide +kernel
/-- Commands at the head of a queue: SIGNAL, AFTER and a malformed one; an AFTER whose time has just passed; a watched line
that runs 17 commands ahead of a ring of 16; a node with its predecessor complete; a copy of a later generation. -/
theorem witness_QueueServiceResults :
    let h (cmd : List Byte) : State := queued cmd
    let sig := h ([4, 0, 0, 0, 0, 0, 0, 0] ++ bytesOfNat 8 0x350000)
    let aft := h ([5, 0, 0, 0, 0, 0, 0, 0] ++ bytesOfNat 8 0x350000)
    let bad := h [9]
    let after : AfterState := ⟨0x350000, 0, 0, some 16000, 0⟩
    let run : State := { launched.onTime .caldera (fun t => { t with value := 16000, fabState := 2 }) with
      queues := [{ Queue.closed 0 with status := 1, desc := some aDesc, after := some after }]
      monitors := [⟨0, 0x330000, 0, 0, 0x330000, true⟩] }
    let w := run.writeBytes 0x330000 [17]
    let i : GraphInst := ⟨0, 0, 0x360000, 0, false, [⟨.signal 0 0 false, []⟩, ⟨.launch 0x300000 0, [0]⟩], 0⟩
    let l : GraphLaunch := ⟨9, i, 0, 0, true, [0], [0], [], none⟩
    let k : State := { run with launches := [l] }
    ((run.queueCtx aDesc = some 0 ∧ run.cpPlace aDesc.part 0 aDesc.ridxa.toNat 16 .write = .ok 0x320000) ∧
      sig.headCmd (sig.queue 0) = .cmd false (.signal 0x350000 0 false) ∧ (sig.queue 0).running = [] ∧
      sig.cpPlace 0 0 0x350000 8 .write = .ok 0x350000 ∧ sig.lostAt 0x350000 8 = none ∧
      sig.mayWrite (sig.homeVent (lineOf 0x350000)) (lineOf 0x350000) = true) ∧
      aft.headCmd (aft.queue 0) = .cmd false (.after 0x350000 0 0 0) ∧ bad.badHead = some (0, Code.badCmd) ∧
      ((run.queue 0).after = some after ∧ run.cpPlace 0 0 0x350000 8 .read = .ok 0x350000 ∧ after.started + 16000 ≤ run.now ∧
        ∀ l ∈ run.launches, l.queue ≠ 0) ∧
      (w.monitors.find? (fun m => m.entry == aDesc.ment) = some ⟨0, 0x330000, 0, 0, 0x330000, true⟩ ∧
        (match w.cpReadIn 0 0 0x330000 1024 with | .ok l => decide (fld l 0 7 = 17) | _ => false) = true ∧
        2 ^ aDesc.rszlog < ((17 : W64) - (w.queue 0).ridx).toNat) ∧
      (k.launches.find? (fun z => z.key == 9) = some l ∧ l.inst.nodes[1]? = some ⟨.launch 0x300000 0, [0]⟩ ∧
        l.started.contains 1 = false ∧ l.finished.contains 0 = true ∧ k.grid? k.nextKey = none) ∧
      ((run.queue 0).lastGen 5 = none ∧ (run.queue 0).closing = none ∧ { run with info := { run.info with state := 3 } }.info.state = 3 ∧ run.info.state ≠ 3 ∧ (run.time .caldera).fabState = 2 ∧ run.now < 15601 + 400 ∧ launchOk (run.checkLaunch 0 0 0x300000) = true) := by
  decide +kernel

/-- A copy of a peer, whose source has sent the queue none before. -/
theorem witness_copyDue (c : ReplCopy) (h : c.src ≠ Config.fabricNumber) :
    copyDue c = true ∧ (Queue.closed 0).lastGen c.src = none := by
  simp [copyDue, h, Queue.lastGen, Queue.closed]

/-! ### Pre-emption, partitions and hosts -/

def aRequest : PreemptReq := ⟨0, 0, [.vent 0 0 0]⟩

/-- A pre-emption of the context of `vs` at a stage, when GRACE and KILLT have just passed. -/
def preempting (stage : Nat) (saved : Option (Nat × Nat)) (g : Group) : State :=
  { (mach g).onTime .caldera (fun t => { t with value := 16000 }) with preempts := [⟨7, aRequest, stage, 0, 1, 1, saved, [], [], [], false⟩] }

/-- A request for the context of a queue's grid; the three stages; an image with room and without; a swap-in of the one team to
the core that it left. -/
theorem witness_PreemptionResults :
    let req : State := { (vs.onGrid 1 fun x => { x with queue := some 0 }) with
      queues := [{ Queue.closed 0 with status := 1, desc := some aDesc }] }
    let halted : Group := { vg with run := .halted, halt := none }
    let s := preempting 2 none halted
    let x := (s.preempts.find? fun y => y.n == 7).getD ⟨0, aRequest, 0, 0, 0, 0, none, [], [], [], false⟩
    let out0 : State := preempting 2 (some (0, 0)) { halted with seat := none }
    let out : State := out0.onTeam 2 fun t => { t with swapped := true }
    let place : List (Nat × CoreId) := [(2, .vent 0 0 0)]
    (req.ladderTimes aRequest = some (1, 1) ∧ req.preempts = []) ∧
      (x.stage = 2 ∧ x.saved = none ∧ x.since + 16000 * x.killt ≤ s.now ∧ s.stageTwoDone x = true) ∧
      (((preempting 1 none vg).preempts.map fun y => (y.stage, decide (y.since + 16000 * y.grace ≤ (preempting 1 none vg).now))) = [(1, true)]) ∧
      (s.preemptsTeam x.req aTeam = true ∧ (s.grid? aTeam.grid).map (·.cause) = some none) ∧
      (∀ l ∈ s.links, l.st = .active) ∧
      ((out.teams.filter fun t => t.swapped && t.dead.isNone && out.preemptsTeam aRequest t).map (·.key)) = place.map (·.1) ∧
      (place.map (·.1)).Nodup ∧ out.placeTogether place = true ∧ out.placeGroups place = true ∧
      out.returnWaits { x with saved := some (0, 0) } place = none ∧ out.returnMarks place = [] ∧
      out.areaIntact [] = true ∧ out.areaIntact [⟨0x600000, [1]⟩] = false ∧ (∀ l ∈ out.links, l.st = .active) ∧
      ((State.restoreTeams place { out with preempts := [] }).map fun m => (m.restoreBins []).storesFit) = some true := by
  decide +kernel

/-- The image of a pre-emption at its second stage has room, and has none where no Spring was admitted. -/
theorem witness_storage :
    let s := preempting 2 none { vg with run := .halted, halt := none }
    let x : Preempt := ⟨7, aRequest, 2, 0, 1, 1, none, [], [], [], false⟩
    let full : State := { s with info := { s.info with bootSprings := [] } }
    (s.storage 0 (s.imageOf x).length).isSome = true ∧ full.storage 0 (full.imageOf x).length = none := by
  simp only [State.imageOf, ownBytes, List.length_append, List.length_map, List.length_range]
  decide +kernel

/-- A descriptor of partition 1: 2 GiB from 8 GiB on, queue 32. -/
def descBytes (on : Nat) : List Byte :=
  [BitVec.ofNat 8 on, 1, 0, 0] ++ bytesOfNat 4 65536 ++ bytesOfNat 8 0 ++ bytesOfNat 8 (2 ^ 33) ++ bytesOfNat 8 (2 ^ 31) ++ List.replicate 20 0 ++
    bytesOfNat 2 32 ++ bytesOfNat 2 1 ++ bytesOfNat 8 (2 ^ 33)

/-- A scheduler that has been silent for 100 µs; descriptors that open a partition, overlap another, break a limit and ask too
much of their level; a partition that is quiescent and one that is not. -/
theorem witness_PartitionEventResults :
    let s : State := vs.onTime .caldera (fun t => { t with value := 1600000 })
    let d : State := { s with scheds := [⟨0, 0, false, none, []⟩] }
    let hung (l : List Nat) : State := { d with scheds := d.scheds ++ l.map fun v => ⟨v, 0, true, none, []⟩ }
    let on := descBytes 1
    let p1 : State := { s with parts := { Part.reset 1 with status := 1, desc := descOf on } :: s.parts }
    (d.canAdopt 0 = true ∧ d.linkFlows .caldera = true ∧ d.linkFlows (.vent 0) = true ∧ 0 ∈ d.liveVents ∧ (d.scheds.find? (fun d => d.vent == 0)).map (·.seen + 1600000) = some d.now ∧ d.canAdopt 1 = true ∧
      (hung [1]).canAdopt 1 = false ∧ (hung [1]).canAdopt 2 = true ∧ (hung [1, 2]).canAdopt 4 = true ∧ (hung [1, 2, 4]).canAdopt 4 = false) ∧
      (s.inReach 127 0x500000 128 = true ∧ s.lostAt 0x500000 128 = none) ∧
      (s.descOk 1 on = true ∧ tableDisjoint (s.tableWith 1 (some (descOf on))) = true ∧ tableSums (s.tableWith 1 (some (descOf on))) = true ∧
        s.partOn 1 = false ∧ s.freeKeyId.isSome = true) ∧
      s.descOk 1 (on.set 1 2) = false ∧
      (tableDisjoint (p1.tableWith 2 (some (descOf on))) = false) ∧
      tableSums (s.tableWith 1 (some { descOf on with min := 65 }) ) = false ∧
      (p1.allQuiescent 1 = true ∧ (s.part? 0).map (·.status) = some 1 ∧ s.allQuiescent 0 = false) := by decide +kernel

/-- Host port 0 of partition 0, up; a line that it may reach and one that it may not; a link that failed 2 s ago, one unit less
ago, and one whose lines are lost; a port that is down. -/
theorem witness_HostLinkResults :
    let up : Port := { Port.reset 0 with bound := 0, up := true }
    let s : State := { vs with ports := [up] }
    let e : Port := { up with up := false, failedAt := some 0 }
    let at_ (n : Nat) (p : Port) : State := { vs.onTime .caldera (fun t => { t with value := n }) with ports := [p] }
    (s.ports.find? (fun q => q.n == 0) = some up ∧ up.peer = false ∧ up.up = true ∧ s.hostReach up 0x200000 64 = true ∧
      s.hostReach up (2 ^ 40) 64 = false ∧ s.lostAt 0x200000 64 = none ∧ s.hostWaits up 2048 = false ∧ up.writes = [] ∧
      up.writeTags + (64 + 63) / 64 ≤ 16384 ∧ s.past = [] ∧
      s.sliceWaking (s.homeVent 2048) 2048 = false ∧ (∀ m ∈ s.monitors, m.held = false) ∧ (∀ x ∈ s.l2, x.vent < 8) ∧
      (∀ l ∈ s.links, l.st = .active) ∧ (∀ b ∈ s.l2, b.line ≠ 2048) ∧ s.narrow? (hostKey 0 0 / 1024) = none) ∧
      (e.failedAt = some 0 ∧ e.lost = false ∧ (at_ 32000000000 e).ports.find? (fun q => q.n == 0) = some e ∧
        0 + 32000000000 ≤ (at_ 32000000000 e).now ∧ (at_ 31999999999 e).now < 0 + 32000000000 ∧ (at_ 0 e).devWrites = [] ∧ (∀ q ∈ (at_ 0 e).ports, q.writes = []) ∧
        (at_ 0 e).ownReqs = [] ∧ (at_ 0 e).launches = [] ∧ (at_ 0 e).queues = []) ∧
      ({ e with lost := true } : Port).lost = true ∧ (Port.reset 0).up = false ∧ (Port.reset 0).failedAt = none := by decide +kernel

/-! ### The machine as a whole -/

theorem issues_of {s : State} {g : Group}
    (h : (decide (s.issuing? = some g) && decide (s.issueQ ≠ []) && !g.ended && decide (g.run = .running) && g.seat.isSome &&
      decide (s.lateFaults = []) && decide ((g.halt.getD 0) < 8192)) = true) : Claims.Issues s g := by
  simp only [Bool.and_eq_true, decide_eq_true_eq, Bool.not_eq_true'] at h
  obtain ⟨⟨⟨⟨⟨⟨h1, h2⟩, h3⟩, h4⟩, h5⟩, h6⟩, h7⟩ := h
  exact ⟨h1, h2, h3, h4, h5, by simp [h6], fun n hn => by simpa [hn] using h7⟩

theorem not_readsWord {c : Clause} {w : W32} (h : c.word? 0 = some w)
    (hd : (decodeWord w (if litFollows w then (c.word? 1).getD 0 else 0)).toOption = none) : ¬ ∃ i, Claims.ReadsWord c i := by
  rintro ⟨i, x, hx, hi⟩
  cases h.symm.trans hx
  rw [hi] at hd
  cases hd

/-- The group inside its clause at a NOP, and an event on the agenda. -/
theorem witness_StepRunsTheDecodedInstruction :
    let g : Group := { vg with halt := some 8191 }
    Claims.Issues (mach g) g ∧ g.clause = some itsClause ∧ itsClause.isOpen = true ∧
      Claims.ReadsWord { itsClause with words := [0x5B800000] } (.nop always) ∧ ¬ (∃ i, Claims.ReadsWord { itsClause with words := [0xCF800000] } i) ∧
      ({ State.reset with agenda := [.dispatch] } : State).issueQ = [] :=
  ⟨issues_of (by decide +kernel), rfl, rfl,
    ⟨0x5B800000, rfl, by decide +kernel⟩, not_readsWord (w := 0xCF800000) rfl (by decide +kernel), rfl⟩

/-- A group that stands at the header `h`, with a NOP behind it. -/
def opening (h : W32) : State := (mach { vg with clause := none }).writeBytes placeBase (bytesOfWord h ++ bytesOfWord 0x5B800000)

/-- Clauses that open, that are not fetched, that break R42, that are safe points and whose condition is not met. -/
theorem witness_ClauseOpeningResults :
    let g : Group := { vg with clause := none }
    let far : Group := { g with frontier := [⟨0, 2 ^ 57, 3, 0⟩] }
    let wait : Group := { g with cnt := ⟨1, 0, 0, 0⟩, halt := some 0 }
    let nop := headerFor 0x5B800000
    let e := itsEntry vg
    Claims.Issues (opening nop) g ∧ g.selected? = some e ∧
      (opening nop).fetchClause ((opening nop).whoOf g) e.addr = .ok nop [0x5B800000] ∧ clauseOk (headerOf nop) [0x5B800000] = true ∧
      (headerOf nop).safe = false ∧ waitMet (headerOf nop) g.cnt = true ∧
      (Claims.Issues (mach far) far ∧ (mach far).fetchClause ((mach far).whoOf far) (2 ^ 57) = .fault Cause.translation (2 ^ 57)) ∧
      clauseOk (headerOf (nop ||| 0x01000000)) [0x5B800000] = false ∧
      (clauseOk (headerOf (nop ||| 0x02000000)) [0x5B800000] = true ∧ (headerOf (nop ||| 0x02000000)).safe = true ∧ wait.halt.isSome = true) ∧
      waitMet (headerOf (nop ^^^ 0x00E00000)) wait.cnt = false :=
  ⟨issues_of (by decide +kernel), by decide +kernel, by decide +kernel, by decide +kernel, by decide +kernel, by decide +kernel,
    ⟨issues_of (by decide +kernel), by decide +kernel⟩, by decide +kernel, by decide +kernel, by decide +kernel⟩
theorem witness_DecodingInvertsEncoding :
    (Instr.stB128 always 8 ⟨2, .gl, .scaled 7⟩).wf = true ∧ decodeWord 0x27A0513F 9 = .ok (.fmul always .rn 5 4 (.lit 9)) := by decide
theorem witness_EveryStepKeepsMemoryCanonical :
    let s := State.reset.withFetchWord 32 0x5B800000
    ∃ t, MemoryCanonical s ∧ step s = .next t := by
  refine ⟨(next? (step (State.reset.withFetchWord 32 0x5B800000))).getD State.reset, ?_, ?_⟩
  · show State.memWf _ = true
    decide +kernel
  · have h : (next? (step (State.reset.withFetchWord 32 0x5B800000))).isSome = true := by decide +kernel
    revert h
    generalize step (State.reset.withFetchWord 32 0x5B800000) = o
    cases o <;> simp [next?]
theorem witness_EveryStepKeepsGroupKeysFresh : KeysFresh (State.reset.withFetchWord 32 0x5B800000) :=
  ⟨by decide +kernel, by decide +kernel⟩

end Sys2Proof.Tests
end

section
/-! Bit fields (R131): where the field of BFE and BFI lies, and that BFI's difference is one of naturals. -/

namespace Sys2Proof.Machine

open Sys2Proof.Safety

/-! ## The field's position and length -/

theorem fieldOf_fst (y : W32) : (fieldOf y).1 = y.toNat % 2 ^ 8 := by
  unfold fieldOf
  dsimp only
  split <;> rfl

theorem fieldOf_snd (y : W32) :
    (fieldOf y).2 = min (if 32 ≤ (fieldOf y).1 then 0 else y.toNat / 2 ^ 8 % 2 ^ 8) (32 - (fieldOf y).1) := by
  rw [fieldOf_fst]
  by_cases h : 32 ≤ y.toNat % 2 ^ 8
  · rw [if_pos h, Nat.zero_min]
    exact congrArg Prod.snd (if_pos h)
  · rw [if_neg h]
    exact congrArg Prod.snd (if_neg h)

/-! ## Replacing a field -/

/-- A field in its place is part of the word. -/
theorem field_mul_le (z pos len : Nat) : z / 2 ^ pos % 2 ^ len * 2 ^ pos ≤ z :=
  calc z / 2 ^ pos % 2 ^ len * 2 ^ pos ≤ z / 2 ^ pos * 2 ^ pos := Nat.mul_le_mul_right _ (Nat.mod_le _ _)
    _ ≤ z := Nat.div_mul_le_self _ _

/-- BFI's subtraction never borrows, so the value of R131 in integers is the model's in naturals. -/
theorem bfiWord_eq_ofInt (x y z : W32) :
    bfiWord x y z =
      BitVec.ofInt 32 (z.toNat - (z.toNat / 2 ^ (fieldOf y).1 % 2 ^ (fieldOf y).2 * 2 ^ (fieldOf y).1 : Nat) +
        (x.toNat % 2 ^ (fieldOf y).2 * 2 ^ (fieldOf y).1 : Nat)) := by
  have hle := field_mul_le z.toNat (fieldOf y).1 (fieldOf y).2
  rw [← Nat.cast_sub hle, ← Nat.cast_add, BitVec.ofInt_natCast]
  rfl

/-- Settles O1: the position and length are those of `fieldOf`, BFE is the model's function as it stands, and BFI's
difference is one of naturals. -/
theorem bitFieldResults : Obligations.BitFieldResults :=
  ⟨fun y => (fieldOf y).1, fun y => (fieldOf y).2, fieldOf_fst, fieldOf_snd,
    alu2_shape exec_bfeN32 fun _ _ => rfl,
    alu2_shape exec_bfeI32 fun _ _ => rfl,
    alu3_shape exec_bfi bfiWord_eq_ofInt⟩

end Sys2Proof.Machine
end

section
/-! FCMP (R138): the model compares finite values by their mantissas in units of the smaller exponent; that is the order
of the values as rationals. -/

namespace Sys2Proof.Machine

open Sys2Proof.Safety

/-! ## The order of exact values -/

theorem mantAt_cast (neg : Bool) (m : Nat) (e q : Int) :
    (mantAt neg m e q : ℚ) = (if neg then -1 else 1) * m * 2 ^ (e - q).toNat := by
  cases neg <;> simp [mantAt]

/-- The mantissa in units of 2^q, times the unit, is the value. -/
theorem mantAt_mul_unit (neg : Bool) (m : Nat) {e q : Int} (h : q ≤ e) :
    (mantAt neg m e q : ℚ) * 2 ^ q = exVal (.fin neg m e) := by
  have hp : (2 : ℚ) ^ (e - q).toNat * 2 ^ q = 2 ^ e := by
    rw [← zpow_natCast, ← zpow_add₀ two_ne_zero, Int.toNat_of_nonneg (by omega), Int.sub_add_cancel]
  rw [mantAt_cast, mul_assoc, hp]
  rfl

/-- Finite exact values compare as their values in the rationals do. -/
theorem Ex.cmp_fin (a b : Bool) (m n : Nat) (e g : Int) :
    Ex.cmp (.fin a m e) (.fin b n g) = some (compare (exVal (.fin a m e)) (exVal (.fin b n g))) := by
  have hu : (0 : ℚ) < 2 ^ min e g := zpow_pos two_pos _
  rw [← mantAt_mul_unit a m (min_le_left e g), ← mantAt_mul_unit b n (min_le_right e g), ← cmp_eq_compare,
    cmp_mul_pos_right hu, Int.cast_strictMono.cmp_map_eq, cmp_eq_compare]
  rfl

/-- An infinity is equal to itself alone, and beyond every other value on its side. -/
theorem Ex.cmp_inf (a : Bool) {y : Ex} (h : y ≠ .nan) :
    Ex.cmp (.inf a) y = some (if y = .inf a then .eq else if a then .lt else .gt) := by
  cases y with
  | nan => exact absurd rfl h
  | inf b => cases a <;> cases b <;> rfl
  | fin b n g => rfl

theorem Ex.cmp_fin_inf (a b : Bool) (n : Nat) (g : Int) :
    Ex.cmp (.fin b n g) (.inf a) = some (if a then .gt else .lt) := rfl

theorem Ex.cmp_nan {x y : Ex} (h : x = .nan ∨ y = .nan) : Ex.cmp x y = none := by
  obtain rfl | rfl := h
  · rfl
  · cases x <;> rfl

/-! ## What FCMP's conditions make of a comparison -/

section
variable {x y : W32} (cc : Cond)

theorem condF32_of_unordered (h : Ex.cmp (exF32 x) (exF32 y) = none) : condF32 cc x y = (cc == .ne) := by
  rw [condF32, h]

theorem condF32_of_lt (h : Ex.cmp (exF32 x) (exF32 y) = some .lt) :
    condF32 cc x y = (cc == .ne || cc == .lt || cc == .le) := by
  rw [condF32, h]

theorem condF32_of_eq (h : Ex.cmp (exF32 x) (exF32 y) = some .eq) :
    condF32 cc x y = (cc == .eq || cc == .le || cc == .ge) := by
  rw [condF32, h]

theorem condF32_of_gt (h : Ex.cmp (exF32 x) (exF32 y) = some .gt) :
    condF32 cc x y = (cc == .ne || cc == .gt || cc == .ge) := by
  rw [condF32, h]

end

/-- A condition on two rationals (R134). -/
def condRat (cc : Cond) (u v : ℚ) : Prop :=
  match cc with
  | .eq => u = v
  | .ne => u ≠ v
  | .lt => u < v
  | .le => u ≤ v
  | .gt => v < u
  | .ge => v ≤ u

/-- Words that compare as two rationals do meet the conditions that the rationals meet. -/
theorem condF32_iff_condRat {x y : W32} {u v : ℚ} (h : Ex.cmp (exF32 x) (exF32 y) = some (compare u v)) (cc : Cond) :
    condF32 cc x y = true ↔ condRat cc u v := by
  obtain hlt | heq | hgt := lt_trichotomy u v
  · rw [condF32_of_lt cc (by rw [h, compare_lt_iff_lt.mpr hlt])]
    cases cc <;> simp [condRat, hlt, hlt.le, hlt.ne, hlt.not_gt, hlt.not_ge]
  · rw [condF32_of_eq cc (by rw [h, compare_eq_iff_eq.mpr heq])]
    cases cc <;> simp [condRat, heq]
  · rw [condF32_of_gt cc (by rw [h, compare_gt_iff_gt.mpr hgt])]
    cases cc <;> simp [condRat, hgt, hgt.le, hgt.ne', hgt.not_gt, hgt.not_ge]

/-- An infinity as the first operand: equality with itself, and otherwise beyond the other on its side. -/
theorem condF32_of_inf {x y : W32} {a : Bool} (hx : exF32 x = .inf a) (hy : exF32 y ≠ .nan) (cc : Cond) :
    condF32 cc x y =
      if exF32 y = .inf a then (cc == .eq || cc == .le || cc == .ge)
      else if a then (cc == .ne || cc == .lt || cc == .le) else (cc == .ne || cc == .gt || cc == .ge) := by
  have hc := (congrArg (Ex.cmp · (exF32 y)) hx).trans (Ex.cmp_inf a hy)
  by_cases h : exF32 y = .inf a
  · rw [if_pos h] at hc ⊢
    exact condF32_of_eq cc hc
  · rw [if_neg h] at hc ⊢
    cases a with
    | false => exact condF32_of_gt cc hc
    | true => exact condF32_of_lt cc hc

/-- An infinity as the second operand, the first being finite. -/
theorem condF32_of_fin_inf {x y : W32} {a b : Bool} {n : Nat} {g : Int} (hx : exF32 x = .fin b n g)
    (hy : exF32 y = .inf a) (cc : Cond) :
    condF32 cc x y = if a then (cc == .ne || cc == .gt || cc == .ge) else (cc == .ne || cc == .lt || cc == .le) := by
  have hc := Ex.cmp_fin_inf a b n g
  rw [← hx, ← hy] at hc
  cases a with
  | false => exact condF32_of_lt cc hc
  | true => exact condF32_of_gt cc hc

/-- Settles O4: FCMP writes `condF32`, which is the order of the rationals on finite values, puts the infinities at the
ends, and holds only for `ne` where an operand is NaN. -/
theorem floatCompareResult : Obligations.FloatCompareResult :=
  ⟨condF32, compare_shape exec_fcmp fun _ _ _ => rfl,
    fun cc _ _ h => condF32_of_unordered cc (Ex.cmp_nan h),
    fun cc _ _ _ _ _ _ _ _ hx hy => condF32_iff_condRat (by rw [hx, hy]; exact Ex.cmp_fin ..) cc,
    fun cc _ _ _ hx hy => condF32_of_inf hx hy cc,
    fun cc _ _ _ _ _ _ hx hy => condF32_of_fin_inf hx hy cc⟩

end Sys2Proof.Machine
end

section
/-! WAIT (R219): the wait fields that the decoder reads out of its word, and the counters' test of the model as the rule
states it. -/

namespace Sys2Proof.Machine

open Sys2Proof.Safety

/-! ## The word of WAIT -/

/-- Bits of a field are bits of the word. -/
theorem extractLsb'_extractLsb'_add {w len n : Nat} (x : BitVec w) (i : Nat) {j : Nat} (h : j + n ≤ len) :
    (x.extractLsb' i len).extractLsb' j n = x.extractLsb' (i + j) n := by
  ext k hk
  have hlt : j + k < len := by omega
  simp [hlt, Nat.add_assoc]

theorem clauseClass_of_class17 {w : W32} (hc : (fieldsOf w).cls = 17) : clauseClass w = some 1 := by
  unfold clauseClass
  simp [hc]

theorem decodeWord_of_class17 {w lit : W32} (hc : (fieldsOf w).cls = 17) (hp : (fieldsOf w).prefixOf.wf = true) :
    decodeWord w lit = decodeClass17 (fieldsOf w) (fieldsOf w).prefixOf lit := by
  unfold decodeWord
  simp [hc, hp]

theorem decodeClass17_of_wait {f : Fields} (hm : f.minor = 10) (p : Pred) (lit : W32) :
    decodeClass17 f p lit = mk (!f.u && f.d == 0)
      (.wait p (f.a.extractLsb' 3 3) (f.a.extractLsb' 0 3) (f.b.extractLsb' 3 3) (f.b.extractLsb' 0 3)) := by
  unfold decodeClass17
  simp [hm]

/-- The four fields lie in bits [11:0]. -/
theorem decodeWord_of_wait {w lit : W32} (hc : (fieldsOf w).cls = 17) (hm : (fieldsOf w).minor = 10)
    (hp : (fieldsOf w).prefixOf.wf = true) :
    decodeWord w lit = mk (!(fieldsOf w).u && (fieldsOf w).d == 0)
      (.wait (fieldsOf w).prefixOf (w.extractLsb' 9 3) (w.extractLsb' 6 3) (w.extractLsb' 3 3) (w.extractLsb' 0 3)) := by
  have ha {j : Nat} (h : j + 3 ≤ 6) : (fieldsOf w).a.extractLsb' j 3 = w.extractLsb' (6 + j) 3 :=
    extractLsb'_extractLsb'_add w 6 h
  have hb {j : Nat} (h : j + 3 ≤ 6) : (fieldsOf w).b.extractLsb' j 3 = w.extractLsb' j 3 :=
    BitVec.extractLsb'_extractLsb'_of_le h
  rw [decodeWord_of_class17 hc hp, decodeClass17_of_wait hm, ha (by omega), ha (by omega), hb (by omega), hb (by omega)]

theorem mk_of_ok {ok : Bool} (h : ok = true) (i : Instr) : mk ok i = .ok i := if_pos h

theorem mk_of_not_ok {ok : Bool} (h : ¬ ok = true) (i : Instr) : mk ok i = .error .fieldLimit := if_neg h

/-! ## The hold of WAIT -/

theorem fieldMet_iff {f : BitVec 3} {n : Nat} : fieldMet f n = true ↔ f = 7 ∨ n ≤ f.toNat := by
  simp [fieldMet]

theorem keptGroup_cnt {g g' : Group} (h : KeptGroup g g') : g'.cnt = g.cnt := (congrArg Group.cnt h :)

section
variable {p : Pred} {ld st cp tl : BitVec 3} {s : State} {g : Group}

theorem exec_wait_of_met (hr : Runs s g p [] [])
    (hm : fieldMet ld g.cnt.ld ∧ fieldMet st g.cnt.st ∧ fieldMet cp g.cnt.cp ∧ fieldMet tl g.cnt.tl) :
    exec (.wait p ld st cp tl) s = .next (s.popIssue.advance g 1) := by
  rw [exec_wait, execWait, issueWord_runs hr, if_pos hm]

theorem held_wait_of_not_met (hr : Runs s g p [] [])
    (hm : ¬ (fieldMet ld g.cnt.ld ∧ fieldMet st g.cnt.st ∧ fieldMet cp g.cnt.cp ∧ fieldMet tl g.cnt.tl)) :
    Held (.wait p ld st cp tl) s := by
  rw [Held, exec_wait, execWait, issueWord_runs hr, if_neg hm]
  rfl

end

/-- Settles O10: WAIT is held or goes on by the model's own test of the four fields, which is the rule's; where it goes on
the group only moves, which keeps its counters; and the fields are read out of the a and b fields of the word. -/
theorem waitResult : Obligations.WaitResult := by
  refine ⟨fun p ld st cp tl s g hr => ?_, fun w lit hc hm => ⟨clauseClass_of_class17 hc, fun hp => ?_⟩,
    by decide, by decide⟩
  · simp only [← fieldMet_iff]
    refine ⟨held_wait_of_not_met hr, fun hm => ?_⟩
    obtain ⟨g', honly, hlanes, huniform, hkept, hstands⟩ := onlyGroup_advance hr.issues rfl 1
    exact ⟨_, g', exec_wait_of_met hr hm, honly, hkept, hstands, hlanes, huniform, keptGroup_cnt hkept⟩
  · rw [decodeWord_of_wait hc hm hp]
    exact ⟨fun hu hd => mk_of_ok (by simp [hu, hd]) _, fun h => mk_of_not_ok (by simpa [or_iff_not_imp_left] using h) _⟩

end Sys2Proof.Machine
end
